-- ==== Sys2Proof/Word.lean ====
section
/-!
DEFINITION. The word types of the BZ160 model and the one sparse container every numbered collection uses.
-/
namespace Sys2Proof

/-- One byte, the smallest addressable unit of every tier (R902: least significant byte first). -/
abbrev Byte := BitVec 8
/-- A 16-bit half word. -/
abbrev Half := BitVec 16
/-- A 32-bit word: core instructions and 32-bit registers (R837). -/
abbrev Word32 := BitVec 32
/-- A 64-bit word: scalar registers (R431), packet words (R536) and 64-bit registers. -/
abbrev Word64 := BitVec 64
/-- A scene ID: 16 bytes, byte 0 in bits 7..0 (R163). -/
abbrev SceneId := BitVec 128

/-- A sparse collection of numbered things, keys strictly rising; an absent number reads as the collection's default. -/
abbrev KMap (α : Type) := List (Nat × α)

end Sys2Proof
end

