-- ==== Sys2Proof/Syntax.lean ====
section
/-!
DEFINITION. The commands of the block: one constructor of `Instr` per row of spec/opcode_table.json.

A row is one whole, indivisible step of the device (spec/95_what_each_step_holds.md). Its operands are what comes
from outside the device in that step: an address, a value, a packet, a measured quantity, or the outcome of a
physical operation. A row of a Paulou command names the packet that PACKET_INTAKE took in (queue and tag); a row of
a core or engine instruction names the logical cluster whose core executes it at its pc.
-/
namespace Sys2Proof

/-- A command in flight: the queue it was taken in on and its tag (R538: the earliest of that tag). -/
structure CmdRef where
  queue : Nat
  tag   : Nat
deriving DecidableEq, Repr

/-- An item of work that waits at an arbiter: its drain class (R134), and the command it belongs to, if any (R147). -/
structure ArbItem where
  cls : Nat
  cmd : Option CmdRef
deriving DecidableEq, Repr

/-- What has passed at an arbiter instance since its last row: transfers made (R125), and then the holder's dropping of its request. -/
structure ArbSince where
  transfers : Nat
  dropped   : Bool
deriving DecidableEq, Repr

/-- Which bytes of an eight-byte register a write covers (R836, R838). -/
inductive Part where
  | lo
  | hi
  | full
deriving DecidableEq, Repr

/-- The two sideband inputs of the management header (R873). -/
inductive Pin where
  | quiesceN
  | forceRo
deriving DecidableEq, Repr

/-- What the requester of a line of the coherent window will hold of it (R687). -/
inductive LineHold where
  | uncached
  | shared
  | exclusive
deriving DecidableEq, Repr

/-- An SPDM or DOE endpoint: the DOE mailbox of one logical device of a port (R695), or the MCTP endpoint (R788). -/
inductive Endpoint where
  | doe (port ld : Nat)
  | mctp
deriving DecidableEq, Repr

/-- What a Dawn phase found in the hardware, as far as it is not read from state (R58, R61, R62, R812, R822). -/
structure PhaseOutcome where
  /-- FUSE: PD0 self-check (fuse ECC, key store, slot flash) passed (R807 bit 20). -/
  houseOk       : Bool
  /-- PHY: the measured hold-up time in µs (R85). -/
  holdupUs      : BitVec 16
  /-- PHY, WINGS: HBM stacks found unusable after all repairs (R822). -/
  deadStacks    : List Nat
  /-- TRIM: now_ps of regions 0 to 17 at the candidate rail (R101). -/
  beats         : List (BitVec 16)
  /-- CLUSTERS: failing lanes found on mesh links, as (router, output, lanes that fail) (R113). -/
  lanes         : List (Nat × Nat × Nat)
  /-- WINGS: rows that post-package repair replaces, as (stack, row) (R58, R821). -/
  wingsRows     : List (Nat × Nat)
  /-- CLUSTERS: Stage rows replaced by spares, as (physical cluster, rows) (R58, R817). -/
  stageRows     : List (Nat × Nat)
  /-- LOFT: dies that the die scan finds failed (R58, R291). -/
  deadDies      : List Nat
  /-- TRIM: the lowest rail, in mV, at which every region meets the target (R101). -/
  railMv        : BitVec 16
  /-- LOFT: on each copy of the journal the first record, by its place since the last checkpoint, whose checksum fails (R60). -/
  journalA      : Option Nat
  journalB      : Option Nat
  /-- CLUSTERS: physical clusters whose self-test fails (R812). -/
  defective     : List Nat
  /-- CLUSTERS: built-in self-test of the Prompter and of Stagehand failed (R824). -/
  prompterFails : Bool
  stagehandFails : Bool
  /-- The phase cannot complete for another reason (R62). -/
  fails         : Bool
deriving DecidableEq, Repr

/-- The Stagehand packet header (R724), with the receiving port and the peer as the frame names them. -/
structure ShPacket where
  port      : Nat
  ipv6      : Bool
  srcIp     : BitVec 128
  srcPort   : Nat
  dstPort   : Nat
  ce        : Bool
  version   : BitVec 4
  flags     : BitVec 4
  conn      : BitVec 24
  load      : BitVec 8
  entropy   : BitVec 16
  psn       : BitVec 32
  msgId     : BitVec 32
  remote    : BitVec 64
  offset    : BitVec 32
  length    : BitVec 32
  payload   : List Byte
deriving DecidableEq, Repr

/-- How the program that a die runs ended: with a failure that a block of the die reports, or without one (R262, R279). -/
structure ProgramOutcome where
  die      : Nat
  block    : Nat
  failed   : Bool
deriving DecidableEq, Repr

/-- A page that the tiers copy and the Loft is read for: a page of a scene, or a layer of a weight set by its set number. -/
inductive PageRef where
  | scene (id : SceneId) (page : Nat)
  | weights (set layer : Nat)
deriving DecidableEq, Repr

/-- Pages, each with its company, whose data is found lost (R286, R289). -/
structure LostData where
  pages    : List (Nat × PageRef)
deriving DecidableEq, Repr

/-- What a failing row of Stage or Wings held in words that cannot be read (R818): 64-byte units of scratch objects
(handle, unit) and of streams' tails (handle, layer, unit), and copies of pages. -/
structure RowLoss where
  units    : List (Nat × Nat)
  tails    : List (Nat × Nat × Nat)
  data     : LostData
deriving DecidableEq, Repr

/-- How a Loft array read ended, stage by stage of R265. -/
inductive ReadOutcome where
  | hard
  | retried
  | rebuilt
  | failed
deriving DecidableEq, Repr

/-- What REPAIR, SCRUB_NOW and SELFTEST find in the hardware (R653 to R655). -/
structure MaintOutcome where
  /-- SCRUB_NOW: the blocks that did not read at once within the limit, as (die, block, how), and the pages found failed. -/
  found     : List (Nat × Nat × ReadOutcome)
  lost      : LostData
  /-- SELFTEST: free Wings rows tested (kind 1), and the elements found defective: physical clusters, stack + 8 × row, dies. -/
  tested    : Nat
  defective : List Nat
  /-- REPAIR kind 1: lanes that fail the retest at outputs of the router, as (output, lanes). -/
  lanes     : List (Nat × Nat)
deriving DecidableEq, Repr

/-- One row of spec/opcode_table.json per constructor. -/
inductive Instr where
  -- Paulou commands, 13_commands_store.md
  | nop (r : CmdRef)
  | identify (r : CmdRef)
  | getLog (r : CmdRef)
  | setFeature (r : CmdRef)
  | getFeature (r : CmdRef)
  | companyCreate (r : CmdRef)
  | companyDestroy (r : CmdRef)
  | companyRules (r : CmdRef)
  | admitCompany (r : CmdRef)
  | release (r : CmdRef)
  | modelRegister (r : CmdRef)
  | modelRetire (r : CmdRef)
  | streamOpen (r : CmdRef)
  | streamClose (r : CmdRef)
  | streamFork (r : CmdRef)
  | findPrefix (r : CmdRef)
  | appendScenes (r : CmdRef)
  | sealTail (r : CmdRef)
  | trim (r : CmdRef)
  -- Paulou commands, 14_commands_motion.md
  | pin (r : CmdRef)
  | unpin (r : CmdRef)
  | place (r : CmdRef)
  | migrate (r : CmdRef)
  | cue (r : CmdRef)
  | deliver (r : CmdRef)
  | cancelCue (r : CmdRef)
  | attend (r : CmdRef)
  | attendSparse (r : CmdRef)
  | sketchQuery (r : CmdRef)
  | weightsLoad (r : CmdRef)
  | weightsStream (r : CmdRef)
  | queueCreate (r : CmdRef)
  | queueDelete (r : CmdRef)
  | queueFlush (r : CmdRef)
  | queueWait (r : CmdRef)
  | xfer (r : CmdRef)
  | atomic (r : CmdRef)
  | clusterLoad (r : CmdRef)
  | clusterRun (r : CmdRef)
  | clusterHalt (r : CmdRef)
  | scrubNow (r : CmdRef) (o : MaintOutcome)
  | repair (r : CmdRef) (o : MaintOutcome)
  | selftest (r : CmdRef) (o : MaintOutcome)
  | fwDownload (r : CmdRef)
  | fwCommit (r : CmdRef)
  | quiesce (r : CmdRef)
  | healthCmd (r : CmdRef)
  -- control core instructions, 10_cluster_core.md; `c` is the logical cluster, `ecc` says that
  -- a word read gave an uncorrectable error (R469 code 10)
  | alu (c : Nat)
  | addi (c : Nat)
  | andi (c : Nat)
  | ori (c : Nat)
  | xori (c : Nat)
  | shi (c : Nat)
  | movi (c : Nat)
  | ldpc (c : Nat) (ecc : Bool)
  | cmp (c : Nat)
  | cmpi (c : Nat)
  | pred (c : Nat)
  | ldd (c : Nat) (ecc : Bool)
  | ldw (c : Nat) (ecc : Bool)
  | ldwu (c : Nat) (ecc : Bool)
  | ldh (c : Nat) (ecc : Bool)
  | ldhu (c : Nat) (ecc : Bool)
  | ldb (c : Nat) (ecc : Bool)
  | ldbu (c : Nat) (ecc : Bool)
  | std (c : Nat)
  | stw (c : Nat)
  | sth (c : Nat)
  | stb (c : Nat)
  | br (c : Nat)
  | call (c : Nat)
  | jr (c : Nat)
  | csrr (c : Nat)
  | csrw (c : Nat)
  | send (c : Nat)
  | sendAck (c : Nat)
  | recv (c : Nat)
  | mailboxArrival (src dst mbx : Nat)
  | put (c : Nat)
  | get (c : Nat)
  | sig (c : Nat)
  | waitc (c : Nat)
  | move (c : Nat)
  | page (c : Nat)
  | fence (c : Nat)
  | halt (c : Nat)
  | trap (c : Nat)
  | transferComplete (c id : Nat) (data : List Byte) (ecc : Bool)
  | waitcTimeout (c : Nat)
  -- engine instructions, 11_vector_tile_engine.md
  | vsetvl (c : Nat)
  | vop (c : Nat)
  | vops (c : Nat)
  | vun (c : Nat)
  | vcmp (c : Nat)
  | vmisc (c : Nat)
  | vld (c : Nat)
  | vst (c : Nat)
  | vscan (c : Nat)
  | tls (c : Nat)
  | tmac (c : Nat)
  | tred (c : Nat)
  | tbc (c : Nat)
  | tmov (c : Nat)
  | vchain (c : Nat)
  | vlane (c : Nat)
  | engineCommit (c : Nat)
  -- runs and clusters
  | runStart (r : CmdRef)
  | runTimeLimit (r : CmdRef)
  | runEnd (r : CmdRef)
  | clusterScrub (c company : Nat)
  | midnightScan
  | clusSignal (agent p : Nat) (part : Part) (v : BitVec 64)
  | mailboxFlush (agent p : Nat) (v : BitVec 32)
  -- queues, 12_paulou_queues.md
  | doorbell (agent q : Nat) (part : Part) (v : BitVec 64)
  | packetIntake (q : Nat) (words : List (BitVec 64))
  | fencedDispatch (r : CmdRef)
  | completionInterrupt (q : Nat)
  | queueWaitTimeout (r : CmdRef)
  | adminQueueEnable (agent : Nat) (v : BitVec 32)
  | adminQueueDisable (agent : Nat) (v : BitVec 32)
  -- registers
  | registerWrite (agent off size : Nat) (v : BitVec 64)
  | shutdownReq (agent : Nat) (v : BitVec 32)
  | safeOff
  | pd6Gate (agent : Nat) (v : BitVec 32)
  | pd6SwitchOff
  | pd6Ungate (agent : Nat) (v : BitVec 32)
  | epochWrite (agent : Nat) (v : BitVec 32)
  | arbCtrlWrite (agent j : Nat) (part : Part) (v : BitVec 64)
  | agentMapWrite (agent a : Nat) (v : BitVec 32)
  | lockWrite (agent off : Nat) (v : BitVec 32)
  | sanitize (agent : Nat) (v : BitVec 32)
  -- Dawn, Dusk and power
  | powerOn (supplyMv : BitVec 16)
  | dawn
  | dawnPhaseComplete (o : PhaseOutcome)
  | dawnPhaseTimeout
  | duskEnter (supplyMv : BitVec 16)
  | duskExit (supplyMv : BitVec 16)
  | holdupFlush (supplyMv : BitVec 16)
  | pd0HoldupExpiry
  | supplyRecovery (supplyMv : BitVec 16)
  | houseWatchdog
  | holdupMeasurement (us : BitVec 16)
  | railReading (beats : List (BitVec 16))
  | monitorFailure (region : Nat)
  | temperatureReading (temps : List (BitVec 8))
  | thermalRestart
  | powerReading (inputW supplyMv : BitVec 16)
  | quiesceNChange (low : Bool)
  | forceRoChange (high : Bool)
  | pinHoldoffExpiry (pin : Pin)
  -- CXL ports, 15_cxl_ports.md
  | cxlPortReset (port : Nat)
  | cxlLinkUp (port speed width : Nat)
  | linkRetrain (port speed width : Nat)
  | configRequest (port ld reg : Nat) (write : Option (BitVec 32))
  | cxlMemRead (agent : Nat) (dpa : BitVec 64) (hold : LineHold)
  | cxlMemWrite (agent : Nat) (dpa : BitVec 64) (data : List Byte) (poison : Bool)
  | unifiedLoftFill (id : Nat) (o : ReadOutcome)
  | unifiedLoadTimeout (id : Nat)
  | birsp (agent line : Nat) (dirty : Option (List Byte))
  | biSnoopTimeout (agent line : Nat)
  | fetchAdd (agent off size : Nat) (operand : BitVec 64)
  | swap (agent off size : Nat) (operand : BitVec 64)
  | cas (agent off size : Nat) (compare operand : BitVec 128)
  | hostReadTimeout (r : CmdRef)
  | ideCheckFailure (port : Nat) (cachemem : Bool)
  | tokenBucketRelease (agent : Nat)
  | ptmDialogue (port : Nat) (ok : Bool) (hostTime : BitVec 64) (delay : BitVec 16)
  | ptmValidTimeout (port : Nat)
  | doeDiscovery (port ld idx : Nat)
  | cdatRead (port ld entry : Nat)
  -- SPDM and IDE_KM, 17_companies_and_keys.md
  | getVersion (ep : Endpoint)
  | getCapabilities (ep : Endpoint)
  | negotiateAlgorithms (ep : Endpoint) (base hash dhe aead : BitVec 32)
  | getDigests (ep : Endpoint)
  | getCertificate (ep : Endpoint) (slot offset len : Nat)
  | challenge (ep : Endpoint) (slot : Nat) (nonce : BitVec 256)
  | getMeasurements (ep : Endpoint) (op : Nat) (signed : Bool) (nonce : BitVec 256)
  | keyExchange (ep : Endpoint) (slot reqSession : Nat) (exchange : List Byte)
  | finish (ep : Endpoint) (session : Nat) (verify : List Byte)
  | keyUpdate (ep : Endpoint) (session op : Nat)
  | endSession (ep : Endpoint) (session : Nat)
  | ideKmKeyProg (ep : Endpoint) (session : Nat) (cachemem rx : Bool) (keySet : Nat) (key : BitVec 256)
  | kSetGo (ep : Endpoint) (session : Nat) (cachemem rx : Bool) (keySet : Nat)
  | kSetStop (ep : Endpoint) (session : Nat) (cachemem rx : Bool) (keySet : Nat)
  -- fabric manager API
  | getLdInfo (port : Nat)
  | getLdAllocations (port : Nat)
  | getQosControl (port : Nat)
  | getQosStatus (port : Nat)
  | getQosAllocatedBw (port : Nat)
  | getQosBwLimit (port : Nat)
  | setLdAllocations (port : Nat)
  | setQosControl (port : Nat)
  | setQosAllocatedBw (port : Nat)
  | setQosBwLimit (port : Nat)
  -- MCTP and PLDM
  | setEndpointId (eid : BitVec 8)
  | getEndpointId
  | getMctpVersionSupport (msgType : BitVec 8)
  | getMessageTypeSupport
  | setEventReceiver (receiver : BitVec 8)
  | pollForPlatformEventMessage
  | pldmSensorRead (sensor : Nat)
  -- Ethernet and Stagehand, 16_stagehand.md
  | ethLinkChange (port : Nat) (up : Bool)
  | arp (port : Nat) (request : Bool) (target sender : BitVec 32)
  | neighborDiscovery (port : Nat) (solicit : Bool) (target sender : BitVec 128)
  | icmpEcho (port : Nat) (ipv6 : Bool) (target sender : BitVec 128) (payload : List Byte)
  | shWrite (p : ShPacket)
  | readReq (p : ShPacket)
  | readResp (p : ShPacket)
  | atomicAdd (p : ShPacket)
  | atomicCas (p : ShPacket)
  | atomicResp (p : ShPacket)
  | nak (p : ShPacket)
  | ack (p : ShPacket)
  | sync (p : ShPacket)
  | syncAck (p : ShPacket)
  | syncTimer (conn : Nat)
  | ackTimer (conn : Nat)
  | stagehandSend (conn : Nat)
  | retransmitTimeout (conn psn : Nat)
  | entropyRestore (conn entropy : Nat)
  | peerSilenceTimeout (conn : Nat)
  | connectionWaitTimeout (r : CmdRef)
  -- delivery and attention
  | cueNotBefore (r : CmdRef)
  | cueCutoff (r : CmdRef)
  | attendCutoff (r : CmdRef)
  | weightsLayerCutoff (r : CmdRef) (layer : Nat)
  | weightsSlotFree (r : CmdRef)
  | stagingComplete (company : Nat) (what : PageRef)
  | allotmentDispatch (c : Nat)
  -- the Loft medium, 06_the_loft_medium.md
  | writeBackStart
  | loftProgramComplete (o : ProgramOutcome)
  | journalRecordComplete
  | indexCheckpoint
  | stripeCloseTimer (half : Nat)
  | loftReadComplete (company : Nat) (what : PageRef) (o : ReadOutcome)
  | suspendExpiry (die : Nat)
  | patrolScrub (die block : Nat) (o : ReadOutcome) (lost : LostData)
  -- `moved`: the die's temperature has moved 8 °C since its last calibration; and since when (R266)
  | readRetryCalibration (die : Nat) (ok moved : Bool)
  | calibrationOverdue (die : Nat) (moved : Option Nat)
  | readDisturbRefresh (die block : Nat)
  | reclamation (die block : Nat)
  | staticWearLevelling (die cold worn : Nat)
  | dieFailure (die : Nat)
  | rebuildComplete (die : Nat)
  -- rule changes
  | rulesSwitch (r : CmdRef)
  | rulesGraceExpiry (company : Nat)
  | rulesDrainComplete (r : CmdRef)
  -- arbiters and events
  | backoffExpiry (cls inst requester : Nat) (item : ArbItem) (since : ArbSince)
  | quotaWindowEnd (cls inst : Nat) (since : ArbSince)
  | starvationFlag (cls inst requester : Nat) (item : ArbItem)
  | hbmRefresh (stack pc : Nat)
  | eventInterrupt (e : Nat)
  -- health
  | clusterFailure (p : Nat) (stageRow : Bool) (lost : RowLoss)
  | stageRowRepair (p row : Nat) (lost : RowLoss)
  | wingsRowRepair (stack row : Nat) (lost : RowLoss)
  -- `failing`: lanes of the link, of its 34, that no longer work (R113)
  | linkDeath (p dir failing : Nat)
  | unitFailure (stagehand : Bool)
  -- host reads and the medium
  | hostReadCompletion (r : CmdRef) (arrays : List (List Byte))
  | loftEraseComplete (die block : Nat) (failed : Bool)
  | memoryInfoValid (port : Nat)
  -- core exceptions of decode and fetch
  | illegalInstruction (c : Nat)
  | fetchFault (c : Nat)
  | signalArrival (src dst : Nat)
  -- Prompter
  -- pages of the batch whose sketch record could not be read, or not by the cutoff (R401, R422)
  | scoringBatchComplete (r : CmdRef) (unread : List Nat)
  -- frames and management
  | droppedFrame (port : Nat)
  | spdmUnsupportedRequest (ep : Endpoint) (code : BitVec 8)
  | pldmBaseRequest (command : BitVec 8)
deriving DecidableEq, Repr

end Sys2Proof
end

