-- ==== Sys2Proof/Config.lean ====
section
/-!
DEFINITION. What the spec leaves to each part, as constants with no body: nothing in Lean can evaluate them or prove
a value of them, so a claim about the model holds whatever they are. Each is named in a row of notes/assumptions/.
-/
namespace Sys2Proof.Config

/-- A value the spec leaves undefined, one per free number (notes/assumptions/2.md). -/
opaque freeWord : Nat → BitVec 64
/-- A byte of an undefined stretch of memory: free number and byte offset (notes/assumptions/2.md). -/
opaque freeByte : Nat → Nat → BitVec 8
/-- The salt drawn from the random bit generator (R164, R784; notes/assumptions/3.md). -/
opaque salt : Nat → BitVec 256
/-- The 64-byte AES-256-XTS key pair of a company, by the number of its draw (R784; notes/assumptions/3.md). -/
opaque dataKey : Nat → BitVec 512
/-- The initial PSN of a connection (R722, R759; notes/assumptions/3.md). -/
opaque initialPsn : Nat → BitVec 32
/-- e^x in FP32 as the engine returns it, used only within relative error 2^-22 (R364, R495, R506; notes/assumptions/5.md). -/
opaque expApprox : BitVec 32 → BitVec 32
/-- The same in FP16 and BF16, before the bound is applied (VUN EXP under a 16-bit etype). -/
opaque expApproxHalf : Bool → BitVec 16 → BitVec 16
/-- 1/√x in FP32, used only within relative error 2^-22 (VUN RSQRT; notes/assumptions/5.md). -/
opaque rsqrtApprox : BitVec 32 → BitVec 32
/-- The same in FP16 and BF16. -/
opaque rsqrtApproxHalf : Bool → BitVec 16 → BitVec 16
/-- The order in which attention adds the n terms of a sum (R364): path, mode, n, as a list of places
(notes/assumptions/6.md). -/
opaque sumOrder : Bool → Bool → Nat → List Nat
/-- SHA-384 of a byte string (R64, R790; notes/assumptions/7.md). -/
opaque sha384 : List (BitVec 8) → BitVec 384
/-- SHA-384 of a firmware image, given as its nonzero bytes by offset (R64; notes/assumptions/7.md). -/
opaque fwDigest : List (Nat × BitVec 8) → BitVec 384
/-- The signature over a transcript of the Alias key that the measurements of indices 2 to 4 give (R789;
notes/assumptions/7.md). -/
opaque sign : List (BitVec 384) → List Nat → BitVec 768
/-- The slot 0 certificate chain under the same measurements (R789; notes/assumptions/7.md). -/
opaque certChain : List (BitVec 384) → List (BitVec 8)
/-- The manifest (2), Dawn loader (3) and service firmware (4) of an image (R64, R790; notes/assumptions/7.md). -/
opaque fwPart : Nat → List (Nat × BitVec 8) → List (BitVec 8)
/-- Firmware images: the signature verifies, the security version, the version (R64; notes/assumptions/7.md). -/
opaque fwSigned : List (Nat × BitVec 8) → Bool
opaque fwSecVer : List (Nat × BitVec 8) → Nat
opaque fwVersion : List (Nat × BitVec 8) → BitVec 64
/-- An ID for a scene whose whole extendable output, 2^58 blocks of 64 bytes, is zero (R909; notes/assumptions/8.md). -/
opaque sceneIdBeyond : List (BitVec 8) → BitVec 128
/-- SPDM exchange data and verification of the requester's FINISH (R788; notes/assumptions/7.md). -/
opaque dheShare : Nat → BitVec 768
opaque finishOk : Nat → List (BitVec 8) → Bool
/-- Numbers in the records of log 0x02 that R825 names and does not state (notes/assumptions/81.md): the target of a block of a
die (kind 6) or of a unit (kind 9), and for a kind and a place the replacement, by its use of a spare, or none. -/
opaque recordTarget : Nat → Nat → Nat → Nat
opaque recordRepl : Nat → Nat → Option Nat → Nat

end Sys2Proof.Config
end

