-- ==== Sys2Proof/Machine/State.lean ====
section
/-!
DEFINITION. The state of the BZ160 as plain data: every register, queue, buffer, counter, mode and pin that the spec
gives the device, the queue of waiting commands, and the reset state of a module as shipped with no supply applied.

Numbers that software reads as words are bit vectors; counts, identifiers and times in ns are `Nat`. Collections of
numbered things are `KMap` (absent number: the default named at the accessor in Machine/Ops.lean).
-/
namespace Sys2Proof.Machine
open Sys2Proof

/-- Bytes of a RAM of the device by address: addresses rising, no entry zero; an unlisted byte reads zero (notes/assumptions/4.md). -/
abbrev Memory := List Host.Cell

/-- The three variants (R2). -/
inductive Variant where
  | f
  | m
  | l
deriving DecidableEq, Repr

/-- The tiers of R21. -/
inductive Tier where
  | stage
  | wings
  | loft
deriving DecidableEq, Repr

/-- The fuses (R1, R844, LOCK_FUSE) and what FUSE loads of them. -/
structure Fuses where
  variant    : Variant
  baseStep   : BitVec 8
  metalStep  : BitVec 8
  secVerMin  : BitVec 16
  debugOff   : Bool
  production : Bool
  /-- FUSE has completed since power-on: CAP_UNITS, CAP_ID steppings and LOCK_FUSE are loaded (R4, R19). -/
  loaded     : Bool
deriving DecidableEq, Repr

/-- DEV_STATUS, DEV_CTRL, DEV_TIME and the course of Dawn and of a shutdown (02_dawn_dusk_power.md). -/
structure DevBlk where
  fwSlot      : BitVec 2
  roMode      : Bool
  duskSeen    : Bool
  dawnPhase   : BitVec 4
  curUp       : Bool
  restart     : Bool
  shutdownReq : Bool
  /-- DEV_TIME in ns (R112). -/
  time        : BitVec 64
  /-- The QUIESCE command's entry is in force (R658, R659). -/
  quiesceCmd  : Bool
  /-- DEV_TIME at the start of the running Dawn, for PWR_DAWN_TIME. -/
  dawnStart   : BitVec 64
  /-- DEV_TIME at the start of the running phase (R63). -/
  phaseStart  : BitVec 64
  /-- Dawn attempts failed in a row with the slot in use (R63), and whether the other slot has been tried. -/
  attempts    : Nat
  otherSlot   : Bool
  /-- Dawn has stopped at its phase under R62 or R66. -/
  stopped     : Bool
  /-- The LOFT phase (or, under R61, a later measurement) wrote the checkpoint of this Dawn. -/
  checkpoint  : Bool
  /-- The hold-up flush ran and the device waits for the supply (R84), or for the PD0 sensor after a trip (R885). -/
  flushed     : Bool
  tripped     : Bool
  /-- The running orderly shutdown was started by a sanitize, so it restarts whatever DEV_CTRL.restart holds (R796). -/
  forceRestart : Bool
  /-- PD0 has come up with the supply, and phase 0 waits for a power-on (R52, R58). -/
  cold        : Bool
  /-- Power loss during an orderly shutdown leaves the class unclean; the shutdown record of R56. -/
  closeRecord : Bool
deriving DecidableEq, Repr

/-- The PWR block and the sideband pins. -/
structure PwrBlk where
  /-- PWR_DOMAIN.pd_on, bit k for PDk. -/
  on          : BitVec 7
  pd6Gate     : Bool
  supplyMv    : BitVec 16
  holdupWeak  : Bool
  safeOff     : Bool
  lastClean   : Bool
  inDusk      : Bool
  duskEntries : BitVec 16
  powerLosses : BitVec 16
  holdupUs    : BitVec 16
  dawnMs      : BitVec 32
  railMv      : BitVec 16
  tjC         : BitVec 8
  targetMiss  : Bool
  targetPs    : BitVec 16
  /-- The last rail value that R102 chose, to which the rail returns after Dusk (R105). -/
  railChosen  : BitVec 16
  thermC      : BitVec 8
  peakC       : BitVec 8
  inputW      : BitVec 16
  therm       : Bool
  /-- Levels last acted on (PWR_PINS) and levels last counted (R876, R877). -/
  quiesceIn   : Bool
  forceRo     : Bool
  quiesceCnt  : Bool
  forceRoCnt  : Bool
  /-- House time of each input's last acted change (R877). -/
  quiesceAt   : Option Nat
  forceRoAt   : Option Nat
  /-- Consecutive readings at or above trip_c (R884). -/
  tripReads   : Nat
  /-- House time since which input_w has stayed above limit_w (R887). -/
  overSince   : Option Nat
  /-- The rail is held or lowered under the input power limit (R104, R887). -/
  railHeld    : Bool
  /-- House time since which the supply has been below 9.6 V (R904). -/
  lossAt      : Option Nat
  /-- House time at which the present Dusk began (R90). -/
  duskSince   : Option Nat
  /-- House time of the last hold-up measurement (R85). -/
  holdupAt    : Nat
deriving DecidableEq, Repr

/-- The LOCK block (17_companies_and_keys.md). `…Written` says the WO1 field has had its first write since power-on. -/
structure LockBlk where
  tenancy        : Bool
  tenancyWritten : Bool
  fw             : Bool
  fwWritten      : Bool
  ide            : Bool
  ideWritten     : Bool
  sanitize       : BitVec 32
  sanitizeWritten : Bool
  violOffset     : BitVec 20
  violAgent      : BitVec 5
  violCount      : BitVec 8
  woViol         : Bool
  /-- RULE_VIOL_c: (cmd, port) per company (R775). -/
  ruleViol       : KMap (BitVec 32 × BitVec 32)
deriving DecidableEq, Repr

/-- One record of log 0x05 (R853). -/
structure EvtRec where
  time    : BitVec 64
  e       : Nat
  company : BitVec 8
  d0      : BitVec 64
  d1      : BitVec 64
deriving DecidableEq, Repr

/-- The EVT block (R848 to R853). -/
structure EvtBlk where
  cause  : BitVec 9
  mask   : BitVec 9
  coalUs : BitVec 16
  /-- EVT_ROUTE_e as written, nine registers. -/
  route  : List (BitVec 32)
  count  : List (BitVec 32)
  log    : List EvtRec
  /-- e has been posted since its last interrupt (R851). -/
  fresh  : BitVec 9
  /-- House time of e's last interrupt since the last reset. -/
  sentAt : KMap Nat
deriving DecidableEq, Repr

/-- One requester of an arbiter (R124 to R130). -/
structure ArbReq where
  requester : Nat
  /-- Drain class of its item, 0 to 5 (R134). -/
  cls       : Nat
  /-- The request is raised; false while in back-off (R127). -/
  raised    : Bool
  losses    : Nat
  /-- Grants in the current QUOTA window (R129); a starvation flag of this waiting episode (R130). -/
  grants    : Nat
  flagged   : Bool
  /-- Intake number of the command that its item belongs to (R147). -/
  item      : Option Nat
deriving DecidableEq, Repr

/-- One arbiter (R122). -/
structure Arbiter where
  reqs   : List ArbReq
  /-- Requester of the last grant (round-robin order of R124). -/
  last   : Nat
  /-- The winner that holds the resource and its remaining burst transfers (R125). -/
  held   : Option (Nat × Nat)
deriving DecidableEq, Repr

/-- The ARB block: six control registers, ARB_STARVE, ARB_STARVE_SRC_j, and the arbiters by class × 2^16 + number. -/
structure ArbBlk where
  ctrl   : List (BitVec 64)
  starve : BitVec 6
  src    : List (BitVec 32)
  arb    : KMap Arbiter
deriving DecidableEq, Repr

/-- One repair record of log 0x02 (R825). -/
structure HealthRec where
  life    : Nat
  kind    : Nat
  outcome : Nat
  target  : Nat
  repl    : Nat
deriving DecidableEq, Repr

/-- HEALTH and what it counts (18_health_and_repair.md). -/
structure HealthBlk where
  cause      : BitVec 32
  /-- Dead mesh links: (physical cluster, output 0 north, 1 east, 2 south, 3 west). -/
  deadLinks  : List (Nat × Nat)
  /-- Failing lanes of a mesh link, of its 32 and the 2 spare ones (R113), by 2 × its end with the lower number + 1 where it is
  vertical. -/
  lanes      : KMap Nat
  pprLeft    : List (BitVec 8)
  wingsRsv   : BitVec 10
  stageRows  : BitVec 16
  lifeS      : BitVec 64
  /-- ns of the running lifetime second. -/
  lifeNs     : Nat
  log        : List HealthRec
  stateAt    : Nat
  /-- HEALTH.state at the last change reported (R808). -/
  lastState  : BitVec 2
  /-- Regions whose delay monitor has failed (R152). -/
  monitorBad : BitVec 18
  /-- Defective physical clusters, in configuration flash (R812). -/
  repairMap  : List Nat
  prompterFailed  : Bool
  stagehandFailed : Bool
  /-- PLDM event receiver and events waiting for a poll (R827): (sensor, reading). -/
  receiver   : Option (BitVec 8)
  waiting    : List (Nat × Nat)
  /-- MCTP endpoint ID (R889). -/
  eid        : BitVec 8
deriving DecidableEq, Repr

/-- A block of a Loft die (R255, R266, R279). An unlisted block is good and erased, with no wear. -/
structure Blk where
  /-- Program/erase count. -/
  pe      : Nat
  /-- Word lines programmed since its last erase; 0 while it is erased. -/
  used    : Nat
  bad     : Bool
  /-- Foreground and background reads since it was programmed (R266). -/
  reads   : Nat
  /-- Its relocation is queued or under way (R297, R298); it is erased when no valid data is left in it. -/
  moving  : Bool
  /-- House time, by the lifetime count of HEALTH_LIFE in s, at which its first word line was programmed and it was last scrubbed. -/
  madeAt  : Nat
  scrubAt : Nat
deriving DecidableEq, Repr

/-- The program or erase that a die runs (R270). -/
inductive DieOp where
  /-- Member `member` of stripe `stripe` is programmed. -/
  | program (stripe member : Nat)
  /-- The rebuilt unit of that stripe and member is programmed (R293). -/
  | rebuild (stripe member : Nat)
  | erase (block : Nat)
deriving DecidableEq, Repr

/-- One Loft die, as LOFT_DIE_INFO, log 0x03 and R270 to R293 see it. -/
structure Die where
  spares    : Nat
  /-- 0 working, 2 failed and rebuilding, 3 failed and rebuilt; exclusion under R281 follows from the headroom. -/
  state     : Nat
  badBlocks : Nat
  calibAt   : Nat
  failedAt  : Nat
  /-- The program or erase in progress, how often it has been suspended, and since when it is (R271); an erase suspended for
  Dusk (R80, R296). -/
  op        : Option DieOp
  suspends  : Nat
  suspended : Bool
  suspendAt : Nat
  duskHeld  : Bool
  /-- Foreground reads queued at the die (R270). -/
  reads     : Nat
  /-- House time since which the die has not been idle (R274). -/
  busySince : Option Nat
  /-- The hold of R274, by the house time of its start. -/
  heldAt    : Option Nat
  blocks    : KMap Blk
  /-- The four open blocks, one in each plane, and the blocks that wait to be erased. -/
  open_     : List Nat
  erases    : List Nat
  /-- Lifetime seconds at which a program or erase failed on a block (R291). -/
  failTimes : List Nat
deriving DecidableEq, Repr

/-- A completion entry before it is posted: status and the three result words (R549). -/
structure Completion where
  tag    : Nat
  status : Nat
  r0     : BitVec 64
  r1     : BitVec 64
  r2     : BitVec 64
  urgent : Bool
deriving DecidableEq, Repr

/-- The PERF registers that no other block holds; every field saturates. -/
structure PerfBlk where
  beatEpoch       : BitVec 8
  /-- now_ps, min_ps, max_ps of regions 0 to 17 (R107). -/
  beatNow         : List (BitVec 16)
  beatMin         : List (BitVec 16)
  beatMax         : List (BitVec 16)
  loftLoads       : BitVec 32
  loftPoisoned    : BitVec 32
  unmapped        : BitVec 16
  poisonMedia     : BitVec 16
  poisonLate      : BitVec 16
  lateWings       : BitVec 16
  lateLoft        : BitVec 16
  lateRetry       : BitVec 16
  lateCalib       : BitVec 16
  suspends        : BitVec 16
  retentionMoves  : BitVec 16
  disturbMoves    : BitVec 16
  calibHolds      : BitVec 16
deriving DecidableEq, Repr

/-- The second half of the PERF registers. -/
structure PerfBlk2 where
  cueLate         : BitVec 16
  cueDegraded     : BitVec 16
  cueMissed       : BitVec 32
  ulbHits         : BitVec 64
  ulbMisses       : BitVec 32
  ulbInval        : BitVec 32
  attTooLarge     : BitVec 16
  attSplit        : BitVec 16
  attExcluded     : BitVec 32
  pagesScored     : BitVec 32
  spillFetches    : BitVec 16
  sketchFails     : BitVec 16
  scrubs          : BitVec 32
  cycles          : BitVec 16
  orphans         : BitVec 16
  badDoorbells    : BitVec 16
  waitCycles      : BitVec 16
  flushes         : BitVec 16
  spills          : BitVec 16
  shRetransmits   : BitVec 32
  shDropped       : BitVec 16
  shLost          : BitVec 16
  earlyReads      : BitVec 32
  earlyWrites     : BitVec 32
  sealedWrites    : BitVec 32
deriving DecidableEq, Repr

/-- One HDM decoder of a logical device (R681). -/
structure Decoder where
  base      : BitVec 64
  size      : BitVec 64
  skip      : BitVec 64
  dpa       : Nat
  ways      : Nat
  bi        : Bool
  committed : Bool
  notCommitted : Bool
deriving DecidableEq, Repr

/-- One vector of a logical device's MSI-X table with its bit of the pending-bit array (R568, R674). -/
structure MsixVec where
  addr    : BitVec 64
  data    : BitVec 32
  masked  : Bool
  pending : Bool
deriving DecidableEq, Repr

/-- One IDE stream of a port: key sets programmed per direction, the active set per direction, the state (R791, R697). -/
structure IdeStream where
  keysRx  : KMap Nat
  keysTx  : KMap Nat
  activeRx : Option Nat
  activeTx : Option Nat
  insecure : Bool
deriving DecidableEq, Repr

/-- One CXL port (15_cxl_ports.md, and PTM of 07_cues_and_delivery.md). -/
structure Port where
  /-- CXL_PORT_CFG as written, and as the last reset of the port took it (R676, R713). -/
  cfgLd      : BitVec 2
  cfgSkid    : Bool
  cfgMld     : Bool
  actLd      : BitVec 2
  actSkid    : Bool
  actMld     : Bool
  linkUp     : Bool
  speed      : BitVec 3
  width      : BitVec 4
  ideIo      : IdeStream
  ideMem     : IdeStream
  memInfo    : Bool
  memActive  : Bool
  /-- House time at which the port's last reset ended (R70). -/
  resetEnd   : Nat
  ptmEnable  : Bool
  ptmOfs     : BitVec 64
  ptmDelay   : BitVec 16
  ptmValid   : Bool
  ptmLast    : Option Nat
  /-- Decoder n of logical device d under 4 × d + n, and the bus master enable of each logical device. -/
  decoders   : KMap Decoder
  busMaster  : BitVec 4
  /-- MSI-X enable and function mask of each logical device, and vector v of logical device d under 2,048 × d + v (R568). -/
  msixOn     : BitVec 4
  msixMask   : BitVec 4
  msix       : KMap MsixVec
  /-- Header log of the RAS capability: agent and address of the last poisoned write (R707). -/
  headerLog  : Option (Nat × Nat)
  perfIde    : BitVec 16
  perfCto    : BitVec 16
  perfPoison : BitVec 16
  perfBi     : BitVec 16
deriving DecidableEq, Repr

/-- One host agent (R677, R678, R699). -/
structure Agent where
  /-- CXL_AGENT_MAP_a as written, and as in effect. -/
  map        : BitVec 32
  eff        : BitVec 32
  /-- Ports that must still be reset before the written map takes effect (R678). -/
  waitPorts  : List Nat
  burst      : BitVec 11
  rate       : BitVec 7
  /-- Bucket level in bytes and the house time it was last refilled to (R699). -/
  level      : Nat
  filledAt   : Nat
  /-- Transfers of so many bytes that wait on the bucket, oldest first, with the CXL.mem request held and its arrival (R700); device
  DMA holds none. -/
  waiting    : List (Nat × Option (Instr × Nat))
  company    : Nat
deriving DecidableEq, Repr

/-- A line of the snoop filter (R687). -/
structure SnoopLine where
  company   : Nat
  line      : Nat
  holders   : List Nat
  exclusive : Bool
deriving DecidableEq, Repr

/-- A coherent-window request that waits on snoops. -/
structure SnoopWait where
  agent   : Nat
  company : Nat
  line    : Nat
  /-- Place in the line and bytes of a write; none for a read. -/
  data    : Option (Nat × List Byte)
  hold    : LineHold
  /-- An inbound Stagehand operation that waits: connection, and its PSN or 2^32 + its message ID (R731). -/
  sh      : Option (Nat × Nat)
  /-- Company and line snooped: its own, or the oldest line of a full filter (R688). -/
  target  : Nat × Nat
  waitFor : List Nat
  since   : Nat
  arrival : Nat
deriving DecidableEq, Repr

/-- A UNIFIED load that waits on the Loft (R238). -/
structure LoftLoad where
  id      : Nat
  agent   : Nat
  company : Nat
  dpa     : Nat
  what    : PageRef
  offset  : Nat
  arrival : Nat
  /-- Dies whose array reads it needs. -/
  dies    : List Nat
  /-- It has had its answer, or none is due; the fetch goes on (R238, R704). -/
  answered : Bool
  sh      : Option (Nat × Nat)
deriving DecidableEq, Repr

/-- An SPDM session (R788). -/
structure SpdmSession where
  ep    : Endpoint
  id    : Nat
  /-- KEY_EXCHANGE done; FINISH done. -/
  up    : Bool
  epoch : Nat
deriving DecidableEq, Repr

/-- A window of a rule table (R765). -/
structure Window where
  kind   : Nat
  space  : Nat
  rights : BitVec 3
  scope  : BitVec 32
  base   : BitVec 64
  limit  : BitVec 64
deriving DecidableEq, Repr

/-- A connection entry of a rule table (R719). -/
structure ConnEntry where
  connId   : Nat
  ports    : BitVec 4
  peerConn : Nat
  ipv6     : Bool
  arrive   : Bool
  peerPort : Nat
  win      : Nat
  agent    : Nat
  counter  : Nat
  peerIp   : BitVec 128
deriving DecidableEq, Repr

/-- A rule table (R765). -/
structure RuleTable where
  windows  : List Window
  conns    : List ConnEntry
  cmdAllow : BitVec 256
  graceMs  : Nat
  lock     : Bool
deriving DecidableEq, Repr

/-- A company (17_companies_and_keys.md, R231, R597). -/
structure Company where
  /-- Salt (R164) and data-at-rest key (R784), as drawn; the key is none once its slot is erased. -/
  salt      : BitVec 256
  key       : Option Nat
  table     : RuleTable
  epoch     : BitVec 32
  ruleLock  : Bool
  stageRes  : Nat
  wingsRes  : Nat
  loftRes   : Nat
  unified   : Nat
  streamRes : Nat
  split     : Bool
  connLimit : Nat
  /-- Cluster programs by number (R649) and the PRESTAGE value in force (R340). -/
  programs  : KMap (List Byte)
  prestage  : BitVec 64
  /-- A COMPANY_DESTROY has been taken in (R614). -/
  dying     : Bool
deriving DecidableEq, Repr

/-- A registered model (R602, R603). -/
structure Model where
  fingerprint : BitVec 64
  layers   : Nat
  heads    : Nat
  dim      : Nat
  kvType   : Nat
  company  : Nat
  retiring : Bool
deriving DecidableEq, Repr

/-- A sealed scene of the index (R187) with its copies. Page l of each tier is present when entry l is true. -/
structure Scene where
  company  : Nat
  id       : SceneId
  parent   : SceneId
  model    : Nat
  depth    : Nat
  pages    : List (List Byte)
  sketches : List (List Byte)
  pins     : Nat
  lastUse  : Nat
  /-- House time of its creation record (R191). -/
  putAt    : Nat
  stage    : List Bool
  wings    : List Bool
  loft     : List Bool
  /-- Placement of PLACE (R225). -/
  placed   : Option Tier
  retired  : Bool
  sealSeq  : Nat
  /-- The creation record is complete (R189). -/
  recorded : Bool
  /-- Index slot (R187), from which the tweak of its pages is formed (R785). -/
  slot     : Nat
deriving DecidableEq, Repr

/-- An open stream (R27, R604). -/
structure Stream where
  company   : Nat
  model     : Nat
  translate : Nat
  tailStage : Bool
  chain     : List SceneId
  tailCount : Nat
  tailFps   : List (BitVec 64)
  tailPages : List (List Byte)
  tailSketches : List (List Byte)
  /-- 64-byte units of the tail's pages poisoned under R818, as (layer, unit). -/
  tailPoison : List (Nat × Nat)
  /-- The placement of a PLACE of the stream, and the scenes of its chain that it covers (R224, R225). -/
  placed    : Option Tier
  placedOn  : List SceneId
deriving DecidableEq, Repr

/-- A weight set (R639). -/
structure Weights where
  company : Nat
  name    : Nat
  layers  : List (List Byte)
  /-- Copies of each layer in a tier. -/
  wings   : List Bool
  stage   : List Bool
  loft    : List Bool
  placed  : Option Tier
  retired : Bool
  /-- The set number, from which the tweak of its chunks is formed (R785). -/
  setNum  : Nat
  /-- Intake number of the load that made it. -/
  madeBy  : Nat
  /-- Being loaded: not yet readable (R639, R640). -/
  pending : Bool
  /-- Replaced or removed, and kept for the commands that read it (R640, R663). -/
  old     : Bool
deriving DecidableEq, Repr

/-- A record of the journal (R188), formed and not yet written, with what it restores. -/
inductive JKind where
  | scenePut (sc : Scene)
  | sceneRemove (company : Nat) (id : SceneId)
  | sceneRetire (company : Nat) (id : SceneId) (retired : Bool)
  | companyPut (company : Nat) (v : Company) (agents : List Nat)
  | companyDestroy (company : Nat)
  | modelPut (num : Nat) (v : Option Model)
  | weightsPut (w : Weights)
  | weightsRemove (company : Nat) (name : Nat)
  | weightsRetire (company : Nat) (name : Nat)
deriving DecidableEq, Repr

/-- A journal record and the command (queue and intake number) that its completion completes, with the completion. -/
structure JRec where
  kind : JKind
  cmd  : Option (Nat × Completion)
deriving DecidableEq, Repr

/-- What the Loft encrypts as one data unit: a page footprint, or a 4 KiB chunk of a layer of a weight set (R263, R785). -/
inductive LoftObj where
  | page (company : Nat) (scene : SceneId) (layer : Nat)
  | chunk (company set layer chunk : Nat)
deriving DecidableEq, Repr

/-- A stretch of a data unit's ciphertext in a program unit, written for D0 item `item`: `len` bytes from byte `off` of the data
unit on, at byte `at_` of the program unit. The index names the copies with `home` (R298). -/
structure Span where
  obj  : LoftObj
  item : Nat
  off  : Nat
  len  : Nat
  at_  : Nat
  home : Bool
deriving DecidableEq, Repr

/-- How far a program unit has come: it gathers or waits in Wings outside the program buffer, lies in the buffer, is issued to
its die, or is programmed (R86, R908). -/
inductive UnitSt where
  | outside
  | buffered
  | issued
  | done
deriving DecidableEq, Repr

/-- A program unit of a stripe (R259): its ciphertext (zeros beyond what is listed), and once programmed the die, the block of each
plane and the word line that hold it. -/
structure LUnit where
  member : Nat
  parity : Bool
  die    : Nat
  blocks : List Nat
  line   : Nat
  st     : UnitSt
  spans  : List Span
  data   : List Byte
  /-- It cannot be rebuilt any more (R294). -/
  lost   : Bool
deriving DecidableEq, Repr

/-- A stripe (R259 to R261): its group, the member that holds the parity, the members that take part, the house time of its first
footprint, and its units. -/
structure Stripe where
  group   : Nat
  parity  : Nat
  members : List Nat
  openAt  : Nat
  closed  : Bool
  units   : List LUnit
deriving DecidableEq, Repr

/-- A footprint, or what is left of it, that waits in Wings outside the program buffer (R908), with the channel of R229. -/
structure Foot where
  obj  : LoftObj
  item : Nat
  chan : Nat
  off  : Nat
  data : List Byte
deriving DecidableEq, Repr

/-- Why footprints are written: a write-back (R221), the rewriting of a failed page (R285), a relocation (R266). -/
inductive ItemKind where
  | writeBack
  | rewrite
  | move
deriving DecidableEq, Repr

/-- A D0 item: footprints of one scene, or of weight set number `set`, being programmed (R221, R262). -/
structure D0Item where
  num     : Nat
  kind    : ItemKind
  company : Nat
  scene   : Option SceneId
  set     : Nat
  size    : Nat
deriving DecidableEq, Repr

/-- A unit of a failed die to be rebuilt (R293), and once it is handed to one the die that takes it. -/
structure Rebuilt where
  die    : Nat
  stripe : Nat
  member : Nat
  target : Option Nat
  issued : Bool
deriving DecidableEq, Repr

/-- A journal record as written: the record, the house time, and the two channels that hold its copies (R188, R264). -/
structure Written where
  kind : JKind
  at_  : Nat
  chA  : Nat
  chB  : Nat
deriving DecidableEq, Repr

/-- The Loft as a whole (06_the_loft_medium.md). -/
structure LoftBlk where
  roCause      : BitVec 2
  rebuildPct   : BitVec 8
  rebuildActive : Bool
  failedDies   : BitVec 11
  spareLeft    : BitVec 18
  pctUsed      : BitVec 16
  peMax        : BitVec 16
  peAvg        : BitVec 16
  /-- Whole units of 10^9 bytes, and the remainder (R277). -/
  gbWritten    : BitVec 64
  remainder    : Nat
  dieSel       : BitVec 10
  scrubDays    : BitVec 8
  calibMin     : BitVec 8
  rebuildShare : BitVec 8
  dies         : KMap Die
  /-- Records formed and not yet written, how many of them the running journal program writes (0: none runs), and the records
  written since the last checkpoint (R188, R190). -/
  journal      : List JRec
  jprog        : Nat
  written      : List Written
  /-- Time of the last checkpoint (R190). -/
  ckptAt       : Nat
  /-- Journal programs so far, and the channels whose SLC blocks hold records or checkpoints (R264). -/
  jcount       : Nat
  jchans       : BitVec 32
  /-- A power-loss marker stands in the journal (R82). -/
  lossMarker   : Bool
  /-- Stripes by number, the open stripe of each half, and stripes opened in each group (R258 to R261). -/
  stripes      : KMap Stripe
  openStripe   : KMap Nat
  nextStripe   : Nat
  groupCount   : KMap Nat
  /-- Write-back queue in order of seal (R221). -/
  wbQueue      : List (Nat × SceneId)
  /-- D0 items in order, their next number, and the footprints that wait outside the program buffer. -/
  d0           : List D0Item
  nextItem     : Nat
  feet         : List Foot
  /-- Dies being rebuilt, in order of failure, the units left to rebuild, and how many there were (R293). -/
  rebuilding   : List Nat
  rebuilds     : List Rebuilt
  rebuildTotal : Nat
  /-- The full scrub pass after a power-on runs, since this lifetime second (R267). -/
  scrubPass    : Option Nat
  /-- D0 items with a lower number were held when medium read-only mode began (R284). -/
  roItem       : Nat
deriving DecidableEq, Repr

/-- A scratch object (R209). -/
structure Scratch where
  company  : Nat
  size     : Nat
  stage    : Bool
  placed   : Bool
  mem      : Memory
  /-- 64-byte units poisoned under R818. -/
  poison   : List Nat
deriving DecidableEq, Repr

/-- What a mapping shows (R213). -/
inductive Viewed where
  | scene (id : SceneId)
  | stream (handle : Nat) (scenes : Nat)
  | weights (name : Nat)
  | scratch (handle : Nat)
deriving DecidableEq, Repr

/-- A mapping of an object into a company's window (R213). -/
structure Mapping where
  company : Nat
  what    : Viewed
  /-- The window: UNIFIED range or Wings window (false), Stage window (true). -/
  stage   : Bool
  offset  : Nat
  size    : Nat
deriving DecidableEq, Repr

/-- A pending QUEUE_WAIT, or the start condition of a transport queue (R555, R748). -/
structure QWait where
  tag     : Nat
  target  : Nat
  count   : Nat
  until_  : Option Nat
  abort   : Bool
  since   : Nat
  /-- False for a start condition, which posts no completion. -/
  posts   : Bool
deriving DecidableEq, Repr

/-- A queue pair (R531). -/
structure Queue where
  transport : Bool
  agent     : Nat
  company   : Nat
  sqBase    : Nat
  sqSize    : Nat
  cqBase    : Nat
  cqSize    : Nat
  vector    : Nat
  aggCount  : Nat
  aggTime   : Nat
  conn      : Nat
  sqTail    : Nat
  head      : Nat
  cqHead    : Nat
  cqTail    : Nat
  phase     : Bool
  spill     : List Completion
  compCount : Nat
  intCount  : Nat
  intFirst  : Option Nat
  intDue    : Bool
  wait      : Option QWait
  /-- Its rings fail the table in force; it is deleted when COMPANY_RULES completes (R780). -/
  ringsBad  : Bool
  /-- A QUEUE_DELETE (intake number) waits for its commands (R564). -/
  deleting  : Option Nat
  /-- The queue takes in packets (queue 0: QCFG_ACTRL.enable, R570). -/
  enabled   : Bool
  /-- Slots of a packet whose header has been read and whose later slots are not yet published (R543). -/
  needs     : Nat
deriving DecidableEq, Repr

/-- A loaded Prompter table (R412). -/
structure Table where
  company  : Nat
  bytes    : List Byte
  /-- Tables lie in table memory in the order of their loads; what lies beyond it is spilled (R418). -/
  order    : Nat
deriving DecidableEq, Repr

/-- A command packet taken in and not completed. -/
structure Taken where
  queue      : Nat
  tag        : Nat
  company    : Nat
  opcode     : Nat
  words      : List (BitVec 64)
  fence      : Bool
  urgent     : Bool
  seq        : Nat
  time       : Nat
  dispatched : Bool
  /-- The host arrays the command names have been read (HOST_READ_COMPLETION), in packet order. -/
  fetched    : Bool
  arrays     : List (List Byte)
  /-- Host reads outstanding, as (address, bytes), and the house time at which they were sent (R706). -/
  want       : List (Nat × Nat)
  readAt     : Nat
  /-- The status with which it is refused, found at intake: BUSY_RETRY or READ_ONLY_MODE (R69, R88, R97, R141, R283). -/
  refused    : Option Nat
  /-- The command has run and waits for what completes it. -/
  running    : Bool
  /-- Scenes it holds references on (R179). -/
  reads      : List SceneId
  /-- Weight sets it reads, by set number (R663). -/
  sets       : List Nat
  /-- Chains of its company's streams at intake, for a command that covers them as they then stood (R224, R357, R389, R459). -/
  chains     : KMap (List SceneId)
  /-- ATTEND_BUDGET at intake (R371, R372). -/
  budget     : Nat
  /-- The program image of a CLUSTER_RUN as its company held it at intake (R649). -/
  image      : Option (List Byte)
  /-- The Prompter table that it names, as its company held it at intake (R416, R417). -/
  table      : Option Table
  /-- A CANCEL_CUE has found it before it ran (R335). -/
  cancelled  : Bool
  /-- Scene items or layers that its miss bitmap covers, once they are known, where the bitmap's address is one that it may write
  (R333). -/
  items      : Option Nat
  /-- DEV_PTM_OFS_k of its agent's port at intake, when DEV_PTM_STAT_k.valid was 1 (R308, R310). -/
  ptm        : Option (BitVec 64)
deriving DecidableEq, Repr

/-- One scene item of a CUE or DELIVER (R314, R333). -/
structure CueItem where
  scene      : SceneId
  layerFirst : Nat
  layerCount : Nat
  dest       : Nat
  offset     : Nat
  /-- Distance between two layers of the item in the destination region. -/
  stride     : Nat
  /-- Its Stagehand message has been started; a CXL item is delivered in the step that writes it. -/
  sent       : Bool
  delivered  : Bool
  missed     : Bool
deriving DecidableEq, Repr

/-- A destination descriptor (R312). -/
structure CueDest where
  stagehand : Bool
  conn      : Nat
  agent     : Nat
  base      : Nat
  length    : Nat
deriving DecidableEq, Repr

/-- A CUE or DELIVER in flight (R318 to R335). -/
structure CueOp where
  seq       : Nat
  isCue     : Bool
  items     : List CueItem
  dests     : List CueDest
  notBefore : Nat
  deadline  : Option Nat
  guard     : Nat
  deadlineMode : Bool
  layout    : Bool
  bitmap    : Nat
  /-- Has not_before passed, has the cutoff passed, has CANCEL_CUE found it. -/
  begun     : Bool
  cutDone   : Bool
  cancelled : Bool
  /-- The last address written behind each agent (R325). -/
  last      : KMap Nat
deriving DecidableEq, Repr

/-- One stream of a length table, with the chain as it stood at intake (R357, R389). -/
structure AttRow where
  handle : Nat
  start  : Nat
  count  : Nat
  chain  : List SceneId
  /-- Translation mode of the stream under the command's translate field (R336). -/
  mode   : Nat
deriving DecidableEq, Repr

/-- An ATTEND or ATTEND_SPARSE in flight (08_near_store_attention.md). -/
structure AttOp where
  seq      : Nat
  model    : Nat
  layer    : Nat
  g        : Nat
  r        : Nat
  hpa      : Nat
  qType    : Nat
  outBf16  : Bool
  layout   : Bool
  scale    : BitVec 32
  deadlineMode : Bool
  deadline : Option Nat
  guard    : Nat
  rows     : List AttRow
  queries  : List Byte
  outputs  : Nat
  stats    : Nat
  bitmap   : Nat
  split    : Bool
  /-- Allotments not yet taken, those being run (cluster, allotment), and those done. -/
  todo     : List Nat
  active   : List (Nat × Nat)
  /-- Page numbers excluded under R380, and pages not kept (R385). -/
  excluded : List Nat
  dropped  : List Nat
  cutDone  : Bool
  /-- ATTEND_SPARSE: table, sketch queries, keep counts, selection bitmap address, pages scored so far. -/
  sparse   : Bool
  /-- The number of the table, and the table as it stood at intake (R417). -/
  table    : Nat
  tbl      : Table
  sketchQ  : List Byte
  /-- keep_n, keep_first and keep_last (R384). -/
  keep     : Nat × Nat × Nat
  selection : Nat
  scores   : List (BitVec 16)
deriving DecidableEq, Repr

/-- A SKETCH_QUERY in flight (R420). -/
structure SketchOp where
  seq     : Nat
  table   : Nat
  tbl     : Table
  model   : Nat
  layer   : Nat
  rows    : List AttRow
  sketchQ : List Byte
  scores  : List (BitVec 16)
  addr    : Nat
deriving DecidableEq, Repr

/-- A WEIGHTS_STREAM in flight (R327). -/
structure WsOp where
  seq      : Nat
  layers   : List (List Byte)
  first    : Nat
  slots    : Nat
  slotSize : Nat
  ring     : Nat
  stagehand : Bool
  target   : Nat
  consumed : Nat
  base     : Nat
  period   : Nat
  guard    : Nat
  deadlineMode : Bool
  bitmap   : Nat
  /-- Layers of which writing has begun, those delivered and those missed. -/
  sent     : List Nat
  delivered : List Nat
  missed   : List Nat
  lateness : Nat
  /-- The number of the set (R663), and the last address written behind each agent (R325). -/
  set      : Nat
  last     : KMap Nat
deriving DecidableEq, Repr

/-- A buffer of a cluster run (R650). -/
structure RunBuf where
  kind   : Nat
  addr   : Nat
  write  : Bool
  read   : Bool
  length : Nat
  /-- Chain of a stream buffer, as it stood at intake (R459). -/
  chain  : List SceneId
  model  : Nat
  /-- Number of the weight set that its name stood for at intake (R663). -/
  set    : Nat
deriving DecidableEq, Repr

/-- A CLUSTER_RUN in flight (R461 to R467). -/
structure RunOp where
  seq      : Nat
  company  : Nat
  image    : List Byte
  row0     : Nat
  rows     : Nat
  col0     : Nat
  cols     : Nat
  args     : List (BitVec 64)
  bufs     : List RunBuf
  limit    : Nat
  translate : Nat
  started  : Option Nat
  timedOut : Bool
  halted   : Bool
  /-- Ended by a flush (ABORTED_FLUSH), a reset or a rule change: the status to complete with. -/
  aborted  : Option Nat
  /-- The first fault: house time, logical cluster, code, pc, info. -/
  fault    : Option (Nat × Nat × Nat × Nat × Nat)
  internal : Bool
deriving DecidableEq, Repr

/-- A mailbox message (R447). -/
structure Msg where
  src  : Nat
  data : List Byte
deriving DecidableEq, Repr

/-- A message, signal or acknowledgement on the mesh. -/
inductive MeshItem where
  | mail (src dst mbx : Nat) (data : List Byte) (rd : Nat)
  | ack (src dst mbx rd status : Nat)
  /-- The PUTs of src numbered below upTo land first (R455). -/
  | signal (src dst counter : Nat) (amount : BitVec 64) (upTo : Nat)
deriving DecidableEq, Repr

/-- The kinds of transfer. -/
inductive XferKind where
  | put
  | get
  | moveIn
  | moveOut
  | page
deriving DecidableEq, Repr

/-- A PUT, GET, MOVE or PAGE issued and not landed (R444, R452 to R459). -/
structure Transfer where
  id       : Nat
  kind     : XferKind
  /-- Offset in the issuing cluster's working area, and the length in bytes. -/
  here     : Nat
  len      : Nat
  /-- Logical cluster of a PUT or GET, or buffer of a MOVE or PAGE; offset there. -/
  peer     : Nat
  offset   : Nat
  counter  : Nat
  /-- The counter is the target's (R454). -/
  atTarget : Bool
  /-- Bytes read at issue, and offsets of them stored to since, whose bytes are then not defined (R456). -/
  data     : List Byte
  touched  : List Nat
  scene    : SceneId
  layer    : Nat
  pc       : Nat
  /-- The fault that its page's failure raises as it ends (R469, R485). -/
  failed   : Option Nat
deriving DecidableEq, Repr

/-- The engine of a cluster (R487, R518). -/
structure Engine where
  v        : List (BitVec 16384)
  t        : List (BitVec 32768)
  m        : List (BitVec 1024)
  vl       : Nat
  etype    : Nat
  flagsOn  : Bool
  vflags   : BitVec 5
  cs       : List (BitVec 32)
  chain    : List (BitVec 64)
  chainLen : BitVec 32
  laneLen  : BitVec 32
  lanePtr  : BitVec 7
  laneStore : List (BitVec 32)
deriving DecidableEq, Repr

/-- An engine instruction in the queue (R511), with the result its shadow state holds until commit (R512). -/
structure EngEntry where
  pc     : Nat
  eng    : Engine
  flags  : BitVec 5
  writes : List Host.Cell
  rd     : Option (Nat × BitVec 64)
  fault  : Option Nat
  memory : Bool
deriving DecidableEq, Repr

/-- The control core of a cluster (R431, R442). -/
structure Core where
  s        : List (BitVec 64)
  p        : BitVec 8
  pc       : BitVec 16
  cnt      : List (BitVec 64)
  cntSrc   : List (BitVec 8)
  mbxCfg   : List (BitVec 5)
  mbx      : List (List Msg)
  /-- Clusters that have sent to mailbox k since run start, and those whose next SEND returns FLUSHED (R566). -/
  senders  : List (List Nat)
  flushed  : List (List Nat)
  /-- Scalar registers waiting for a SEND status or an engine result. -/
  pendRd   : List Nat
  waitFor  : BitVec 64
  waitRd   : Nat
  waitAt   : Nat
  waitUntil : Option Nat
  rank     : Nat
deriving DecidableEq, Repr

/-- A physical cluster (R121, R431, R447, R817 and the cluster window). -/
structure Cluster where
  mapState  : BitVec 2
  logical   : BitVec 8
  st        : BitVec 4
  company   : Nat
  waitCnt   : BitVec 4
  faultPc   : BitVec 16
  faultInfo : BitVec 12
  faultCode : BitVec 8
  sigAmount : BitVec 32
  sigCounter : BitVec 4
  dbgItem   : BitVec 6
  core      : Core
  eng       : Engine
  engQ      : List EngEntry
  imem      : List (BitVec 32)
  imageLen  : Nat
  /-- The working area. With workFree none, an unlisted byte reads zero; at a run's start its contents are not defined
  (R463): then every byte stored is listed, and an unlisted byte reads as a free value of that number. -/
  work      : Memory
  workFree  : Option Nat
  /-- Intake number of the run that holds the cluster. -/
  run       : Option Nat
  xfers     : List Transfer
  /-- Transfers issued in the run. -/
  issued    : Nat
  rowsUsed  : Nat
  /-- The working-area bound W the run started with (R483). -/
  wlimit    : Nat
  dirty     : Bool
deriving DecidableEq, Repr

/-- An Ethernet port (R715 to R717). -/
structure EthPort where
  cfg     : BitVec 64
  addrs   : List Byte
  linkUp  : Bool
  fecLock : Bool
  gw      : Bool
deriving DecidableEq, Repr

/-- A data packet sent and not acknowledged. -/
structure SentPkt where
  opcode  : Nat
  pkt     : ShPacket
  firstAt : Nat
  sentAt  : Nat
  retries : Nat
  lost    : Bool
deriving DecidableEq, Repr

/-- An inbound message being placed (R729). -/
structure InMsg where
  msgId   : Nat
  opcode  : Nat
  length  : Nat
  /-- Address of its first byte. -/
  remote  : Nat
  /-- Stretches of the message that have arrived, as (offset, bytes). -/
  spans   : List (Nat × Nat)
  epoch   : BitVec 32
  notify  : Bool
  /-- A NAK has ended it: what still arrives of it is not placed (R732). -/
  ended   : Bool
deriving DecidableEq, Repr

/-- An inbound read whose data are being gathered (R740). -/
structure InRead where
  msgId   : Nat
  psn     : BitVec 32
  remote  : Nat
  length  : Nat
  land    : Nat
  epoch   : BitVec 32
  failed  : Bool
deriving DecidableEq, Repr

/-- An outbound message: its bytes, and the command or cue item it belongs to. -/
structure OutMsg where
  msgId  : Nat
  opcode : Nat
  remote : Nat
  data   : List Byte
  length : Nat
  sent   : Nat
  owner  : Option Nat
  item   : Nat
  /-- Where a read or atomic response lands: (kind 1 host, 3 scratch; handle; address). -/
  land   : Nat × Nat × Nat
  got    : Nat
  /-- Byte o of the message belongs at remote + o / chunk × stride + o mod chunk; chunk 0: at remote + o. -/
  chunk  : Nat
  stride : Nat
  /-- Payload bytes per packet on each Ethernet port, as at its start (R758). -/
  psize  : List Nat
deriving DecidableEq, Repr

/-- A Stagehand connection (R721 to R745). -/
structure Conn where
  company  : Nat
  entry    : ConnEntry
  /-- 0 CONFIGURED, 1 SYNCING, 2 UP, 3 LOST. -/
  state    : Nat
  syncSeen : Bool
  ackSeen  : Bool
  initPsn  : BitVec 32
  nextPsn  : BitVec 32
  expPsn   : BitVec 32
  /-- PSNs received at or after the expected one (R728). -/
  seen     : List (BitVec 32)
  unacked  : Nat
  unackedAt : Nat
  window   : Nat
  winPsn   : BitVec 32
  sent     : List SentPkt
  outMsgs  : List OutMsg
  inMsgs   : List InMsg
  nextMsg  : Nat
  srtt     : Nat
  rttvar   : Nat
  rate     : Nat
  removed  : List (Nat × Nat)
  nextEnt  : Nat
  nextPort : Nat
  lastRx   : Nat
  ceSeen   : Bool
  /-- Inbound WRITE packets whose bytes wait on snoops, and reads being gathered. -/
  held     : List ShPacket
  inReads  : List InRead
deriving DecidableEq, Repr

/-- An XFER or ATOMIC in flight (R647, R648). -/
structure NetOp where
  seq    : Nat
  conn   : Nat
  atomic : Bool
  op     : Nat
  msg    : Option Nat
  since  : Nat
  length : Nat
  done   : Nat
  local_ : Nat × Nat × Nat
  remote : Nat
  data   : List Byte
  w3     : BitVec 64
  w4     : BitVec 64
deriving DecidableEq, Repr

/-- A ULB entry (R337): scene by company and ID. -/
structure UlbEntry where
  company : Nat
  scene   : SceneId
deriving DecidableEq, Repr

/-- A firmware slot of the slot flash (R64). -/
structure FwSlot where
  image    : Memory
  /-- 0 empty, 1 verified, 2 failed verification (log 0x04). -/
  state    : Nat
  measure  : BitVec 384
deriving DecidableEq, Repr

/-- One command error record of log 0x01 (R592). -/
structure ErrRec where
  time    : BitVec 64
  queue   : Nat
  tag     : Nat
  opcode  : Nat
  company : Nat
  status  : Nat
  r0      : BitVec 64
  r1      : BitVec 64
  r2      : BitVec 64
  w1      : BitVec 64
  w2      : BitVec 64
  w3      : BitVec 64
deriving DecidableEq, Repr

/-- A COMPANY_RULES between intake and completion (R776 to R780). -/
structure RulesOp where
  seq      : Nat
  company  : Nat
  /-- The new table; from the switch on, the table that it replaced, by which earlier accesses are still checked. -/
  table    : RuleTable
  switched : Bool
  switchAt : Nat
  newEpoch : BitVec 32
  /-- The table's journal record is complete. -/
  recorded : Bool
  /-- Commands with a lower intake number were taken in before the switch (R777). -/
  cut      : Nat
deriving DecidableEq, Repr

/-- What the Loft journal, its checkpoints and the Loft's pages hold: what a Dawn restores (R41, R60, R188). -/
structure Disk where
  companies : KMap Company
  agents    : KMap Nat
  models    : KMap Model
  scenes    : List Scene
  weights   : List Weights
deriving DecidableEq, Repr

/-- The configuration flash of PD0: handle count (R42), saved features (R594), active slot, sanitize marker, QCFG (R570). -/
structure Flash where
  handles   : Nat
  tenancy   : Bool
  bandwidth : Bool
  activeSlot : Bool
  marker    : Bool
  asq       : BitVec 64
  acq       : BitVec 64
  actrl     : BitVec 32
  /-- Saved ETH_PORT_n (value, addresses) and PRESTAGE values by company (R594). -/
  eth       : KMap (BitVec 64 × List Byte)
  prestage  : KMap (BitVec 64)
deriving DecidableEq, Repr

/-- What the device sends to the outside world, newest first in `State.out`. -/
inductive Out where
  | completion (queue index : Nat) (w0 w1 w2 w3 : BitVec 64)
  | msix (agent vector : Nat)
  | hostWrite (agent addr : Nat) (data : List Byte)
  | hostRead (agent addr len : Nat)
  | aer (port : Nat)
  | memData (agent : Nat) (dpa : Nat) (data : List Byte) (devLoad : Nat)
  | memPoison (agent : Nat) (dpa : Nat) (devLoad : Nat)
  | memAck (agent : Nat) (dpa : Nat) (devLoad : Nat)
  | biSnoop (agent line : Nat) (shared : Bool)
  | unsupported (agent : Nat)
  | configRetry (port ld : Nat)
  | configData (port ld reg : Nat) (v : BitVec 32)
  | atomicValue (agent : Nat) (v : BitVec 128)
  | doe (port ld : Nat) (body : List Nat)
  | spdm (ep : Endpoint) (code : BitVec 8) (body : List Nat)
  | ideKm (ep : Endpoint) (code status : Nat)
  | fm (port cmd rc : Nat) (body : List Nat)
  | mctp (cmd : Nat) (body : List Nat)
  | pldm (cmd : Nat) (body : List Nat)
  | frame (port kind : Nat) (body : List Nat)
  | packet (egress opcode : Nat) (p : ShPacket)
deriving DecidableEq, Repr

/-- A page copy being made in Wings or Stage through a Loft read (R234, R243). -/
structure PageCopy where
  company : Nat
  what    : PageRef
  stage   : Bool
  /-- The commands that wait for it, by intake number, each with the house time since which it waits (R243); the first asked for
  it, and with none it is the device's own. -/
  waiters : List (Nat × Nat)
  /-- Its read has gone out (R230), to these dies (R265, R292), and how the read has ended. -/
  issued  : Bool
  dies    : List Nat
  ended   : Option ReadOutcome
  /-- An overdue calibration held it up (R243, R274). -/
  held    : Bool
  /-- Its read is a background read: made by pre-staging (R342). -/
  background : Bool
  /-- Pre-staging copies it on to Stage working area (R341). -/
  onward : Bool
  /-- Its room was taken when it was asked for (PLACE, MIGRATE); other copies find room as they land (R234). -/
  allocated : Bool
deriving DecidableEq, Repr

/-- Delivery, attention and transport work in flight. -/
structure Work where
  cues    : List CueOp
  atts    : List AttOp
  sketches : List SketchOp
  wstreams : List WsOp
  runs    : List RunOp
  nets    : List NetOp
  rules   : List RulesOp
  loads   : List LoftLoad
  mesh    : List MeshItem
  staging : List PageCopy
  /-- Pages that passed through a transient buffer for the commands that wait for them (R234). -/
  transient : List (Nat × PageRef)
  /-- Copies of pages in Stage working area, made by pre-staging (R223, R341). -/
  working : List (Nat × PageRef)
  /-- Scenes, with their companies, whose sketch records the device holds as the last it read from the Loft, the latest first (R400). -/
  records : List (Nat × SceneId)
  /-- Completions that wait until earlier commands have ended (QUEUE_FLUSH, QUEUE_DELETE, QUIESCE), by intake number. -/
  drains  : KMap Completion
  /-- Commands all of whose bytes have been written and that wait for reads of the last addresses, by intake number, with the agents
  read from (R325). -/
  flushes : KMap (Completion × List Nat)
deriving DecidableEq, Repr

/-- References that a closed or trimmed stream of a company still holds, until the earlier commands on it (by intake number) have
completed (R43, R173). -/
structure Lingering where
  company : Nat
  scenes  : List SceneId
  waits   : List Nat
deriving DecidableEq, Repr

/-- The objects the House core keeps. -/
structure Store where
  companies : KMap Company
  models    : KMap Model
  streams   : KMap Stream
  scenes    : List Scene
  weights   : List Weights
  scratch   : KMap Scratch
  maps      : List Mapping
  tables    : KMap Table
  lingering : List Lingering
  /-- Count of stream handles issued (R42), and of seals made. -/
  handles   : Nat
  seals     : Nat
  /-- Handles issued since the count was last recorded (R42). -/
  issued    : Nat
  tenancy   : Bool
  bandwidth : Bool
  /-- The network held in the Prompter's fetch buffer: the order of its table's load, and its number (R419). -/
  fetchBuf  : Option (Nat × Nat)
deriving DecidableEq, Repr

/-- The whole device. `pending` is the queue of commands that wait, first in, first out. -/
structure State where
  pending  : List Instr
  fuses    : Fuses
  dev      : DevBlk
  pwr      : PwrBlk
  lock     : LockBlk
  evt      : EvtBlk
  arb      : ArbBlk
  health   : HealthBlk
  loft     : LoftBlk
  perf     : PerfBlk
  perf2    : PerfBlk2
  ports    : KMap Port
  agents   : KMap Agent
  snoops   : List SnoopLine
  snoopWaits : List SnoopWait
  coherent : KMap Memory
  /-- The atomic window: counter at window offset 8 × k (R690). -/
  atomics  : KMap (BitVec 64)
  sessions : List SpdmSession
  /-- Endpoints whose SPDM version and algorithms have been negotiated. -/
  spdm     : List (Endpoint × Nat)
  /-- Measurement blocks 1 to 5 as last set (R790). -/
  measures : List (BitVec 384)
  eth      : KMap EthPort
  shSpray  : BitVec 15
  shSel    : BitVec 24
  conns    : KMap Conn
  queues   : KMap Queue
  taken    : List Taken
  nextSeq  : Nat
  /-- Round-robin position and packets taken in the present turn (R545). -/
  turn     : Nat × Nat
  errLog   : List ErrRec
  work     : Work
  store    : Store
  clusters : KMap Cluster
  ulb      : KMap (List UlbEntry)
  fw       : KMap FwSlot
  disk     : Disk
  flash    : Flash
  out      : List Out
  /-- MODEL'S OWN field: the number of the next free value (notes/assumptions/2.md). -/
  free     : Nat
deriving DecidableEq, Repr

/-! Values of the parts at reset: the register tables of spec/, and where they give none the values that
notes/assumptions/1.md names. -/

def Engine.fresh : Engine :=
  { v := List.replicate 32 0, t := List.replicate 16 0, m := List.replicate 8 0, vl := 0, etype := 0,
    flagsOn := false, vflags := 0, cs := List.replicate 4 0, chain := List.replicate 16 0, chainLen := 0,
    laneLen := 0, lanePtr := 0, laneStore := List.replicate 128 0 }

def Core.fresh : Core :=
  { s := List.replicate 32 0, p := 0, pc := 0, cnt := List.replicate 16 0, cntSrc := List.replicate 16 0xFF,
    mbxCfg := List.replicate 4 0, mbx := List.replicate 4 [], senders := List.replicate 4 [],
    flushed := List.replicate 4 [], pendRd := [], waitFor := 0, waitRd := 0, waitAt := 0, waitUntil := none,
    rank := 0 }

def Cluster.fresh : Cluster :=
  { mapState := 0, logical := 0xFF, st := 0, company := 0, waitCnt := 0, faultPc := 0, faultInfo := 0,
    faultCode := 0, sigAmount := 0, sigCounter := 0, dbgItem := 0, core := Core.fresh, eng := Engine.fresh,
    engQ := [], imem := [], imageLen := 0, work := [], workFree := none, run := none, xfers := [], issued := 0, rowsUsed := 0,
    wlimit := 1572864, dirty := false }

/-- A good erased block. -/
def Blk.fresh : Blk :=
  { pe := 0, used := 0, bad := false, reads := 0, moving := false, madeAt := 0, scrubAt := 0 }

/-- A die as shipped: full spares (R280, R903). -/
def Die.fresh : Die :=
  { spares := 128, state := 0, badBlocks := 0, calibAt := 0, failedAt := 0, op := none, suspends := 0, suspended := false,
    suspendAt := 0, duskHeld := false, reads := 0, busySince := none, heldAt := none,
    blocks := [], open_ := [], erases := [], failTimes := [] }

def IdeStream.off : IdeStream := { keysRx := [], keysTx := [], activeRx := none, activeTx := none, insecure := false }

/-- A vector after a reset is masked, as PCIe has it (PRESUMED, notes/assumptions/30.md). -/
def MsixVec.fresh : MsixVec := { addr := 0, data := 0, masked := true, pending := false }

def Port.fresh : Port :=
  { cfgLd := 0, cfgSkid := false, cfgMld := false, actLd := 0, actSkid := false, actMld := false, linkUp := false,
    speed := 0, width := 0, ideIo := IdeStream.off, ideMem := IdeStream.off, memInfo := false, memActive := false,
    resetEnd := 0, ptmEnable := false, ptmOfs := 0, ptmDelay := 0, ptmValid := false, ptmLast := none,
    decoders := [], busMaster := 0, msixOn := 0, msixMask := 0, msix := [], headerLog := none, perfIde := 0, perfCto := 0, perfPoison := 0, perfBi := 0 }

/-- Host agent a as shipped: on port a mod 8, logical device a div 8, 256 × 64 KiB burst at 64 GB/s, of company 0. -/
def Agent.shipped (a : Nat) : Agent :=
  let map : BitVec 32 := BitVec.ofNat 32 (0x80000000 + 8 * (a % 8) + a / 8 % 4)
  { map := map, eff := map, waitPorts := [], burst := 0x100, rate := 0x40, level := 0x100 * 65536, filledAt := 0,
    waiting := [], company := 0 }

def Queue.fresh : Queue :=
  { transport := false, agent := 0, company := 0, sqBase := 0, sqSize := 64, cqBase := 0, cqSize := 64, vector := 0,
    aggCount := 0, aggTime := 0, conn := 0, sqTail := 0, head := 0, cqHead := 0, cqTail := 0, phase := true,
    spill := [], compCount := 0, intCount := 0, intFirst := none, intDue := false, wait := none, ringsBad := false,
    deleting := none, enabled := false, needs := 1 }

def Arbiter.fresh : Arbiter := { reqs := [], last := 0, held := none }

def EthPort.fresh : EthPort :=
  { cfg := 0, addrs := List.replicate 64 0, linkUp := false, fecLock := false, gw := false }

def FwSlot.fresh : FwSlot := { image := [], state := 0, measure := 0 }

/-- The empty table of a new company (R770). -/
def RuleTable.empty : RuleTable := { windows := [], conns := [], cmdAllow := 0, graceMs := 0, lock := false }

/-- Company 0's table as shipped (R770). -/
def RuleTable.shipped : RuleTable :=
  { RuleTable.empty with
    cmdAllow := BitVec.allOnes 256
    windows :=
      [ { kind := 0, space := 0, rights := 7, scope := 0xFFFFFFFF, base := 0, limit := 0xFFFFFFFFFFFFFFFF },
        { kind := 2, space := 0, rights := 7, scope := 0xFFFFFFFF, base := 0x410000000000,
          limit := 0x410003FFFFFF } ] }

/-- A company with nothing of its own (R597). -/
def Company.fresh : Company :=
  { salt := 0, key := none, table := RuleTable.empty, epoch := 0, ruleLock := false, stageRes := 0, wingsRes := 0,
    loftRes := 0, unified := 0, streamRes := 0, split := false, connLimit := 0, programs := [], prestage := 0,
    dying := false }

def Company.zero : Company := { Company.fresh with table := RuleTable.shipped, key := some 0 }

/-- The ARB reset values of R142, in the order of the offsets. -/
def ArbBlk.resetCtrl : List (BitVec 64) :=
  [0x003F00FF1F001005, 0x0FFF0FFF0700043D, 0x000F003F0F000800, 0x007F01FF3F00080D, 0x000F003F0F000800,
   0x03FF0FFF0301021D]

def DevBlk.reset : DevBlk :=
  { fwSlot := 0, roMode := false, duskSeen := false, dawnPhase := 0, curUp := false, restart := false,
    shutdownReq := false, time := 0, quiesceCmd := false, dawnStart := 0, phaseStart := 0, attempts := 0,
    otherSlot := false, stopped := false, checkpoint := false, flushed := false, tripped := false,
    forceRestart := false, cold := false, closeRecord := true }

def PwrBlk.reset : PwrBlk :=
  { on := 0, pd6Gate := false, supplyMv := 0, holdupWeak := false, safeOff := false, lastClean := true,
    inDusk := false, duskEntries := 0, powerLosses := 0, holdupUs := 0, dawnMs := 0, railMv := 0, tjC := 0,
    targetMiss := false, targetPs := 0x02BC, railChosen := 0, thermC := 0x64, peakC := 0, inputW := 0,
    therm := false, quiesceIn := false, forceRo := false, quiesceCnt := false, forceRoCnt := false,
    quiesceAt := none, forceRoAt := none, tripReads := 0, overSince := none, railHeld := false, lossAt := none,
    duskSince := none, holdupAt := 0 }

def LockBlk.reset : LockBlk :=
  { tenancy := false, tenancyWritten := false, fw := false, fwWritten := false, ide := false, ideWritten := false,
    sanitize := 0, sanitizeWritten := false, violOffset := 0, violAgent := 0, violCount := 0, woViol := false,
    ruleViol := [] }

def EvtBlk.reset : EvtBlk :=
  { cause := 0, mask := 0x1FF, coalUs := 0x03E8, route := List.replicate 9 0x80000000, count := List.replicate 9 0,
    log := [], fresh := 0, sentAt := [] }

def ArbBlk.reset : ArbBlk := { ctrl := ArbBlk.resetCtrl, starve := 0, src := List.replicate 6 0, arb := [] }

def HealthBlk.reset : HealthBlk :=
  { cause := 0, deadLinks := [], lanes := [], pprLeft := List.replicate 8 192, wingsRsv := 512, stageRows := 0, lifeS := 0,
    lifeNs := 0, log := [], stateAt := 0, lastState := 0, monitorBad := 0, repairMap := [], prompterFailed := false,
    stagehandFailed := false, receiver := none, waiting := [], eid := 0 }

def LoftBlk.reset : LoftBlk :=
  { roCause := 0, rebuildPct := 0, rebuildActive := false, failedDies := 0, spareLeft := 131072, pctUsed := 0,
    peMax := 0, peAvg := 0, gbWritten := 0, remainder := 0, dieSel := 0, scrubDays := 7, calibMin := 0x0A,
    rebuildShare := 0x0A, dies := [], journal := [], jprog := 0, written := [], ckptAt := 0, jcount := 0,
    jchans := 0, lossMarker := false, stripes := [], openStripe := [], nextStripe := 0, groupCount := [], wbQueue := [],
    d0 := [], nextItem := 0, feet := [], rebuilding := [], rebuilds := [], rebuildTotal := 0, scrubPass := none, roItem := 0 }

def PerfBlk.reset : PerfBlk :=
  { beatEpoch := 0, beatNow := List.replicate 18 0, beatMin := List.replicate 18 0, beatMax := List.replicate 18 0,
    loftLoads := 0, loftPoisoned := 0, unmapped := 0, poisonMedia := 0, poisonLate := 0, lateWings := 0,
    lateLoft := 0, lateRetry := 0, lateCalib := 0, suspends := 0, retentionMoves := 0, disturbMoves := 0,
    calibHolds := 0 }

def PerfBlk2.reset : PerfBlk2 :=
  { cueLate := 0, cueDegraded := 0, cueMissed := 0, ulbHits := 0, ulbMisses := 0, ulbInval := 0, attTooLarge := 0,
    attSplit := 0, attExcluded := 0, pagesScored := 0, spillFetches := 0, sketchFails := 0, scrubs := 0, cycles := 0,
    orphans := 0, badDoorbells := 0, waitCycles := 0, flushes := 0, spills := 0, shRetransmits := 0, shDropped := 0,
    shLost := 0, earlyReads := 0, earlyWrites := 0, sealedWrites := 0 }

def Work.reset : Work :=
  { cues := [], atts := [], sketches := [], wstreams := [], runs := [], nets := [], rules := [], loads := [],
    mesh := [], staging := [], transient := [], working := [], records := [], drains := [], flushes := [] }

def Store.reset : Store :=
  { companies := [(0, Company.zero)], models := [], streams := [], scenes := [], weights := [], scratch := [],
    maps := [], tables := [], lingering := [], handles := 0, seals := 0, issued := 0, tenancy := false, bandwidth := false,
    fetchBuf := none }

def Disk.reset : Disk :=
  { companies := [(0, Company.zero)], agents := [], models := [], scenes := [], weights := [] }

def Flash.reset : Flash :=
  { handles := 0, tenancy := false, bandwidth := false, activeSlot := false, marker := false, asq := 0, acq := 0,
    actrl := 0, eth := [], prestage := [] }

/-- The module as shipped, unpowered: every register at the value its table gives for reset, nothing pending. -/
def State.reset : State :=
  { pending := [],
    fuses := { variant := .f, baseStep := 1, metalStep := 1, secVerMin := 0, debugOff := false, production := true,
               loaded := false },
    dev := DevBlk.reset, pwr := PwrBlk.reset, lock := LockBlk.reset, evt := EvtBlk.reset, arb := ArbBlk.reset,
    health := HealthBlk.reset, loft := LoftBlk.reset, perf := PerfBlk.reset, perf2 := PerfBlk2.reset,
    ports := [], agents := [], snoops := [], snoopWaits := [], coherent := [], atomics := [], sessions := [],
    spdm := [], measures := List.replicate 5 0, eth := [], shSpray := 0x0100, shSel := 0, conns := [], queues := [(0, Queue.fresh)], taken := [],
    nextSeq := 0, turn := (0, 0), errLog := [], work := Work.reset, store := Store.reset, clusters := [],
    ulb := [], fw := [(0, { FwSlot.fresh with state := 1 })], disk := Disk.reset, flash := Flash.reset, out := [],
    free := 0 }

/-- Reasons a step stops with a fault. -/
inductive Fault where
  /-- Raised by a meaning whose command names a thing no BZ160 has (a ninth CXL port, a line that is not 64 bytes):
  no such request can reach the device, so the stop is safe. -/
  | noSuchThing
deriving DecidableEq, Repr

/-- Reasons a step gives no meaning. -/
inductive Refusal where
  /-- Raised by an arm of `exec` for a command not modelled yet: safe. -/
  | notModelled (mnemonic : String)
deriving DecidableEq, Repr

end Sys2Proof.Machine
end

