-- ==== Sys2Proof/Machine/Bits.lean ====
section
/-!
DEFINITION. Bit fields, little-endian bytes (R902), the keyed collections and the byte memories that every other file
of the machine uses.
-/
namespace Sys2Proof.Machine
open Sys2Proof

/-- Bits hi..lo of a 64-bit word as a number. -/
def fld (w : Word64) (hi lo : Nat) : Nat := w.toNat / 2 ^ lo % 2 ^ (hi + 1 - lo)

/-- Bit k of a word. -/
def bit {n : Nat} (w : BitVec n) (k : Nat) : Bool := w.getLsbD k

def b2n (b : Bool) : Nat := if b then 1 else 0

/-- A number as a 64-bit word, modulo 2^64. -/
def w64 (n : Nat) : Word64 := BitVec.ofNat 64 n
def w32 (n : Nat) : Word32 := BitVec.ofNat 32 n

/-- Counting up to the largest value of the register (a saturating field, R857). -/
def satAdd {n : Nat} (x : BitVec n) (k : Nat) : BitVec n := BitVec.ofNat n (min (2 ^ n - 1) (x.toNat + k))
def satInc {n : Nat} (x : BitVec n) : BitVec n := satAdd x 1

/-- k bytes of a number, least significant first (R902). -/
def leBytes : Nat → Nat → List Byte
  | 0, _ => []
  | k + 1, n => BitVec.ofNat 8 (n % 256) :: leBytes k (n / 256)

/-- The number that bytes hold, least significant first (R902). -/
def leNat : List Byte → Nat
  | [] => 0
  | b :: r => b.toNat + 256 * leNat r

/-- n bytes of a byte string from an offset; bytes beyond its end read zero. -/
def slice (l : List Byte) (off n : Nat) : List Byte :=
  let got := (l.drop off).take n
  got ++ List.replicate (n - got.length) 0

def leAt (l : List Byte) (off k : Nat) : Nat := leNat (slice l off k)

/-- Overwrite bytes of a byte string at an offset, extending it with zeros where it is short. -/
def splice (l : List Byte) (off : Nat) (d : List Byte) : List Byte :=
  l.take off ++ List.replicate (off - l.length) 0 ++ d ++ l.drop (off + d.length)

def roundUp (n k : Nat) : Nat := (n + k - 1) / k * k

/-- Entry k of a list replaced. -/
def setAt {α : Type} : List α → Nat → α → List α
  | [], _, _ => []
  | _ :: r, 0, x => x :: r
  | y :: r, k + 1, x => y :: setAt r k x

def modAt {α : Type} (l : List α) (k : Nat) (f : α → α) : List α :=
  match l, k with
  | [], _ => []
  | y :: r, 0 => f y :: r
  | y :: r, k + 1 => y :: modAt r k f

/-- The number of the first entry of which p holds. -/
def indexWhere {α : Type} (p : α → Bool) : List α → Option Nat
  | [] => none
  | x :: r => if p x then some 0 else (indexWhere p r).map (· + 1)

/-- k halved counts: fuel for a loop over a list. -/
def upto (n : Nat) : List Nat := List.range n

/-! Keyed collections: keys strictly rising. -/

def kget {α : Type} : KMap α → Nat → Option α
  | [], _ => none
  | (k, v) :: r, n => if k = n then some v else kget r n

def kset {α : Type} : KMap α → Nat → α → KMap α
  | [], n, x => [(n, x)]
  | (k, v) :: r, n, x =>
    if n < k then (n, x) :: (k, v) :: r
    else if n = k then (n, x) :: r
    else (k, v) :: kset r n x

def kdel {α : Type} : KMap α → Nat → KMap α
  | [], _ => []
  | (k, v) :: r, n => if k = n then r else (k, v) :: kdel r n

def kgetD {α : Type} (m : KMap α) (n : Nat) (d : α) : α := (kget m n).getD d

/-- Replace the entry of a key by a function of it, a default standing for an absent one. -/
def kmodD {α : Type} (m : KMap α) (n : Nat) (d : α) (f : α → α) : KMap α := kset m n (f (kgetD m n d))

/-- Change an entry that is present. -/
def kmod {α : Type} (m : KMap α) (n : Nat) (f : α → α) : KMap α :=
  match kget m n with
  | some x => kset m n (f x)
  | none => m

def khas {α : Type} (m : KMap α) (n : Nat) : Bool := (kget m n).isSome

/-- Change every entry. -/
def kmap {α : Type} (m : KMap α) (f : Nat → α → α) : KMap α := m.map fun p => (p.1, f p.1 p.2)

/-- The least number from 0 to n − 1 that has no entry. -/
def kfree {α : Type} (m : KMap α) (n : Nat) : Option Nat := (upto n).find? fun k => !khas m k

/-! Byte memories: addresses strictly rising, no entry zero; an unlisted byte reads zero (notes/assumptions/4.md). -/

def Memory.read : Memory → Nat → Byte
  | [], _ => 0
  | (k, v) :: r, a => if k = a then v else Memory.read r a

def Memory.erase : Memory → Nat → Memory
  | [], _ => []
  | (k, v) :: r, a => if k = a then r else (k, v) :: Memory.erase r a

def Memory.insert : Memory → Nat → Byte → Memory
  | [], a, b => [(a, b)]
  | (k, v) :: r, a, b =>
    if a < k then (a, b) :: (k, v) :: r
    else if a = k then (a, b) :: r
    else (k, v) :: Memory.insert r a b

/-- Write one byte; writing zero removes the entry, so equal memories are equal lists. -/
def Memory.write (m : Memory) (a : Nat) (b : Byte) : Memory :=
  if b = 0 then Memory.erase m a else Memory.insert m a b

def Memory.writes (m : Memory) : Nat → List Byte → Memory
  | _, [] => m
  | a, b :: r => Memory.writes (Memory.write m a b) (a + 1) r

def Memory.reads (m : Memory) (a : Nat) : Nat → List Byte
  | 0 => []
  | n + 1 => Memory.read m a :: Memory.reads m (a + 1) n

def Memory.number (m : Memory) (a n : Nat) : Nat := leNat (Memory.reads m a n)

/-- The canonical form. -/
def Memory.wf : Memory → Bool
  | [] => true
  | [(_, v)] => v != 0
  | (k, v) :: (k', v') :: r => v != 0 && (decide (k < k') && Memory.wf ((k', v') :: r))

end Sys2Proof.Machine
end

