-- ==== Sys2Proof/Machine/Blake3.lean ====
section
/-!
DEFINITION. The keyed BLAKE3 hash over one chunk, as R162 and R909 use it for scene IDs.
-/
namespace Sys2Proof.Machine
open Sys2Proof

/-- The initial chaining words of BLAKE3. -/
def blakeIV : List Word32 := [0x6A09E667, 0xBB67AE85, 0x3C6EF372, 0xA54FF53A]

/-- The permutation of the message words between rounds. -/
def blakePerm : List Nat := [2, 6, 3, 10, 7, 0, 4, 13, 1, 11, 12, 5, 9, 14, 15, 8]

/-- The quarter-round on places a, b, c, d of the state with two message words. -/
def blakeG (v : List Word32) (a b c d : Nat) (x y : Word32) : List Word32 :=
  let va := v.getD a 0 + v.getD b 0 + x
  let vd := (v.getD d 0 ^^^ va).rotateRight 16
  let vc := v.getD c 0 + vd
  let vb := (v.getD b 0 ^^^ vc).rotateRight 12
  let va2 := va + vb + y
  let vd2 := (vd ^^^ va2).rotateRight 8
  let vc2 := vc + vd2
  let vb2 := (vb ^^^ vc2).rotateRight 7
  setAt (setAt (setAt (setAt v a va2) b vb2) c vc2) d vd2

def blakeRound (v m : List Word32) : List Word32 :=
  let w (k : Nat) := m.getD k 0
  let v := blakeG v 0 4 8 12 (w 0) (w 1)
  let v := blakeG v 1 5 9 13 (w 2) (w 3)
  let v := blakeG v 2 6 10 14 (w 4) (w 5)
  let v := blakeG v 3 7 11 15 (w 6) (w 7)
  let v := blakeG v 0 5 10 15 (w 8) (w 9)
  let v := blakeG v 1 6 11 12 (w 10) (w 11)
  let v := blakeG v 2 7 8 13 (w 12) (w 13)
  blakeG v 3 4 9 14 (w 14) (w 15)

def blakeRounds : Nat → List Word32 → List Word32 → List Word32
  | 0, v, _ => v
  | n + 1, v, m => blakeRounds n (blakeRound v m) (blakePerm.map fun k => m.getD k 0)

/-- The compression function: chaining value, message block, counter, block length and flags to sixteen words. -/
def blakeCompress (cv m : List Word32) (counter len flags : Nat) : List Word32 :=
  let v := cv ++ blakeIV ++ [w32 counter, w32 (counter / 2 ^ 32), w32 len, w32 flags]
  let r := blakeRounds 7 v m
  (upto 16).map fun k => if k < 8 then r.getD k 0 ^^^ r.getD (k + 8) 0 else r.getD k 0 ^^^ cv.getD (k - 8) 0

/-- A block of at most 64 bytes as sixteen words. -/
def blakeBlock (b : List Byte) : List Word32 := (upto 16).map fun k => w32 (leAt b (4 * k) 4)

/-- Chain the blocks of one chunk but the last (flags: 16 keyed hash, 1 chunk start). -/
def blakeChain : Nat → List Word32 → List Byte → Bool → List Word32 × List Byte × Bool
  | 0, cv, b, first => (cv, b, first)
  | n + 1, cv, b, first =>
    if b.length ≤ 64 then (cv, b, first)
    else blakeChain n ((blakeCompress cv (blakeBlock (b.take 64)) 0 64 (if first then 17 else 16)).take 8)
           (b.drop 64) false

/-- Output block j (64 bytes) of the keyed hash of an input of at most 1,024 bytes (flags: 2 chunk end, 8 root). -/
def blakeOutput (key : BitVec 256) (input : List Byte) (j : Nat) : List Byte :=
  let cv0 := (upto 8).map fun k => w32 (key.toNat / 2 ^ (32 * k))
  let (cv, b, first) := blakeChain 16 cv0 input true
  ((blakeCompress cv (blakeBlock b) j b.length ((if first then 17 else 16) + 10)).map
    fun w => leBytes 4 w.toNat).flatten

/-- The first 16-byte piece of the output that is not all zero (R909), sought over the n output blocks from block j on. -/
def blakeId (key : BitVec 256) (input : List Byte) : Nat → Nat → Option SceneId
  | 0, _ => none
  | n + 1, j =>
    let out := blakeOutput key input j
    match (upto 4).find? fun k => leAt out (16 * k) 16 != 0 with
    | some k => some (BitVec.ofNat 128 (leAt out (16 * k) 16))
    | none => blakeId key input n (j + 1)

/-- Output blocks of BLAKE3: 2^64 bytes in all. -/
def blakeBlocks : Nat := 2 ^ 58

/-- A scene ID: salt, parent, model fingerprint, the sixteen token fingerprints (R162, R163, R909). It is never zero. -/
def sceneId (salt : BitVec 256) (parent : SceneId) (fp : Word64) (tokens : List Word64) : SceneId :=
  let input := leBytes 16 parent.toNat ++ leBytes 8 fp.toNat ++ (tokens.map fun t => leBytes 8 t.toNat).flatten
  (blakeId salt input blakeBlocks 0).getD (Config.sceneIdBeyond input ||| 1)

end Sys2Proof.Machine
end

