-- ==== Sys2Proof/Machine/Ops.lean ====
section
/-!
DEFINITION. The operations that many commands share: house time, free values, events (R850), the health state
(R806 to R808, R811), completion posting (R549 to R553, R567), queue waits, flush and deletion, and the journal.
-/
namespace Sys2Proof.Machine
open Sys2Proof

abbrev Res := Host.Outcome State Fault Refusal

/-- A meaning whose operands name things that exist; otherwise the command cannot reach the device. -/
def onlyIf (b : Bool) (s : State) : Res := if b then .next s else .fault .noSuchThing

/-- House time in ns (R112). -/
def now (s : State) : Nat := s.dev.time.toNat

/-- The tick of an idle step: while PD0 is on, one 40 ns period of the crystal and of the lifetime count (R112,
HEALTH_LIFE; notes/assumptions/9.md). -/
def tick (s : State) : State :=
  if !s.pwr.on.getLsbD 0 then s else
  let n := s.health.lifeNs + 40
  { s with
    dev := { s.dev with time := s.dev.time + 40 }
    health := { s.health with lifeS := s.health.lifeS + BitVec.ofNat 64 (n / 1000000000), lifeNs := n % 1000000000 } }

def emit (o : Out) (s : State) : State := { s with out := o :: s.out }

/-- The next free value (notes/assumptions/2.md). -/
def takeFree (s : State) : Word64 × State := (Config.freeWord s.free, { s with free := s.free + 1 })

/-! Defaults of the numbered things. -/

def port (s : State) (k : Nat) : Port := kgetD s.ports k Port.fresh
def agent (s : State) (a : Nat) : Agent := kgetD s.agents a (Agent.shipped a)
def die (s : State) (d : Nat) : Die := kgetD s.loft.dies d Die.fresh
def cluster (s : State) (p : Nat) : Cluster := kgetD s.clusters p Cluster.fresh
def ethPort (s : State) (k : Nat) : EthPort := kgetD s.eth k EthPort.fresh
def companyOf (s : State) (c : Nat) : Option Company := kget s.store.companies c
def queue (s : State) (q : Nat) : Option Queue := kget s.queues q

def modPort (k : Nat) (f : Port → Port) (s : State) : State := { s with ports := kmodD s.ports k Port.fresh f }
def modAgent (a : Nat) (f : Agent → Agent) (s : State) : State :=
  { s with agents := kmodD s.agents a (Agent.shipped a) f }
def modDie (d : Nat) (f : Die → Die) (s : State) : State :=
  { s with loft := { s.loft with dies := kmodD s.loft.dies d Die.fresh f } }
def modCluster (p : Nat) (f : Cluster → Cluster) (s : State) : State :=
  { s with clusters := kmodD s.clusters p Cluster.fresh f }
def modEth (k : Nat) (f : EthPort → EthPort) (s : State) : State := { s with eth := kmodD s.eth k EthPort.fresh f }
def modQueue (q : Nat) (f : Queue → Queue) (s : State) : State := { s with queues := kmod s.queues q f }
def modCompany (c : Nat) (f : Company → Company) (s : State) : State :=
  { s with store := { s.store with companies := kmod s.store.companies c f } }
def modConn (k : Nat) (f : Conn → Conn) (s : State) : State := { s with conns := kmod s.conns k f }
def modStream (h : Nat) (f : Stream → Stream) (s : State) : State :=
  { s with store := { s.store with streams := kmod s.store.streams h f } }
def modStore (f : Store → Store) (s : State) : State := { s with store := f s.store }
def modLoft (f : LoftBlk → LoftBlk) (s : State) : State := { s with loft := f s.loft }
def modWork (f : Work → Work) (s : State) : State := { s with work := f s.work }
def modPerf (f : PerfBlk → PerfBlk) (s : State) : State := { s with perf := f s.perf }
def modPerf2 (f : PerfBlk2 → PerfBlk2) (s : State) : State := { s with perf2 := f s.perf2 }
def modHealth (f : HealthBlk → HealthBlk) (s : State) : State := { s with health := f s.health }
def modPwr (f : PwrBlk → PwrBlk) (s : State) : State := { s with pwr := f s.pwr }
def modDev (f : DevBlk → DevBlk) (s : State) : State := { s with dev := f s.dev }

/-- The agents bound to a company (R764). -/
def agentsOf (s : State) (c : Nat) : List Nat := (upto 32).filter fun a => (agent s a).company == c

/-! Token buckets (R698 to R700). A transfer of the device's own waits for its bucket in time only: its bytes move in
the step that makes it, and what the bucket lacked stays charged (notes/assumptions/13.md). -/

/-- CXL_BW_AGENT_a.rate as it acts: 0 acts as 1, and above 64 as 64. -/
def effRate (a : Agent) : Nat := max 1 (min 64 a.rate.toNat)
/-- CXL_BW_AGENT_a.burst in bytes; 0 acts as 1, and above 1,024 as 1,024. -/
def effBurst (a : Agent) : Nat := 65536 * max 1 (min 1024 a.burst.toNat)
/-- Refill a bucket to the present: rate GB/s is rate bytes in each ns (R699). -/
def refill (t : Nat) (a : Agent) : Agent :=
  { a with level := min (effBurst a) (a.level + effRate a * (t - a.filledAt)), filledAt := t }

/-- n bytes in pieces of at most the burst (R700). -/
def pieces (burst : Nat) : Nat → Nat → List Nat
  | 0, _ => []
  | k + 1, n => if n == 0 then [] else if n ≤ burst then [n] else burst :: pieces burst k (n - burst)

/-- Charge device DMA of n bytes to agent a's bucket in LIMITED mode. -/
def dma (a n : Nat) (s : State) : State :=
  if !s.store.bandwidth then s else
  modAgent a (fun g =>
    let g := refill (now s) g
    (pieces (effBurst g) (n / effBurst g + 1) n).foldl (fun g p =>
      if g.waiting.isEmpty && p ≤ g.level then { g with level := g.level - p }
      else { g with waiting := g.waiting ++ [(p, none)] }) g) s

/-! Optional units (R1, R2, R4, R19). -/

def capUnits (s : State) : Nat :=
  if !s.fuses.loaded then 0 else
  match s.fuses.variant with
  | .f => 0xF
  | .m => 0x3
  | .l => 0x0

def hasAria (s : State) : Bool := capUnits s % 2 == 1
def hasPrompter (s : State) : Bool := capUnits s / 2 % 2 == 1
def hasStagehand (s : State) : Bool := capUnits s / 4 % 2 == 1
def hasEth (s : State) : Bool := capUnits s / 8 % 2 == 1
/-- PD6 is off at software's request (R87, R96). -/
def pd6Off (s : State) : Bool := !bit s.pwr.on 6
/-- PD6 is off or switching off: its commands complete with BUSY_RETRY (R88, R97). -/
def pd6Gated (s : State) : Bool := s.pwr.pd6Gate || pd6Off s

/-! Events. -/

/-- Post event e: its cause bit, its count and a log record, in one step (R850, R853). -/
def postEvent (e : Nat) (company : Nat) (d0 d1 : Word64) (s : State) : State :=
  { s with evt := { s.evt with
      cause := s.evt.cause ||| BitVec.ofNat 9 (2 ^ e)
      count := modAt s.evt.count e satInc
      fresh := s.evt.fresh ||| BitVec.ofNat 9 (2 ^ e)
      log := ({ time := s.dev.time, e := e, company := BitVec.ofNat 8 company, d0 := d0, d1 := d1 }
              :: s.evt.log).take 4096 } }

/-! Completions. -/

def okWith (r0 r1 r2 : Word64) : Completion := { tag := 0, status := 0, r0 := r0, r1 := r1, r2 := r2, urgent := false }
def okay : Completion := okWith 0 0 0
def status (st : Nat) : Completion := { okay with status := st }
def statusWith (st : Nat) (r0 : Word64) : Completion := { okay with status := st, r0 := r0 }

/-- BAD_FIELD at a bit offset of the packet, with the entry's reason code (R551). -/
def badAt (off reason : Nat) : Completion :=
  { okay with status := 0x102, r0 := w64 reason, r2 := w64 (0xFFFFFFFF * 2 ^ 32 + off) }
/-- BAD_FIELD in a host structure: the byte offset in it, and the packet field that names it (R551). -/
def badIn (byteOff reason loc : Nat) : Completion :=
  { okay with status := 0x102, r0 := w64 reason, r2 := w64 (byteOff * 2 ^ 32 + loc) }

/-- The ring has no free entry: one entry stays unused. -/
def ringFull (q : Queue) : Bool := (q.cqTail + 1) % q.cqSize == q.cqHead

/-- Write one entry to the completion ring and count it for the interrupt (R549, R567). -/
def writeEntry (qn : Nat) (c : Completion) (s : State) : State :=
  match queue s qn with
  | none => s
  | some q =>
    let nxt := (q.cqTail + 1) % q.cqSize
    let w3 := b2n q.phase * 2 ^ 63 + c.status * 2 ^ 32 + c.tag * 2 ^ 16 + q.head
    let due := q.aggCount < q.intCount + 1 || q.aggTime == 0 || 0x100 ≤ c.status || c.urgent
    let q' := { q with cqTail := nxt, phase := if nxt == 0 then !q.phase else q.phase,
                       intCount := q.intCount + 1,
                       intFirst := some (q.intFirst.getD (now s)), intDue := q.intDue || due }
    emit (.completion qn q.cqTail c.r0 c.r1 c.r2 (w64 w3)) { s with queues := kset s.queues qn q' }

/-- Spilled completions move to the ring in order as entries come free (R138). -/
def drainSpill (qn : Nat) : Nat → State → State
  | 0, s => s
  | n + 1, s =>
    match queue s qn with
    | none => s
    | some q =>
      match q.spill with
      | [] => s
      | c :: r =>
        if ringFull q then s
        else drainSpill qn n (writeEntry qn c { s with queues := kset s.queues qn { q with spill := r } })

/-- Post a completion to the ring, or to the overflow area when the ring has no free entry (R552, R137, R138); the
queue's completion count goes up either way (R553). -/
def postCompletion (qn : Nat) (c : Completion) (s : State) : State :=
  match queue s qn with
  | none => s
  | some q =>
    let q' := { q with compCount := q.compCount + 1 }
    let s' := { s with queues := kset s.queues qn q' }
    if ringFull q || !q.spill.isEmpty then
      { s' with queues := kset s.queues qn { q' with spill := q.spill ++ [c] },
                perf2 := { s.perf2 with spills := satInc s.perf2.spills } }
    else writeEntry qn c s'

/-- The record of log 0x01 for a completion of status 0x0100 or above, other than BUSY_RETRY (R592). -/
def logError (t : Taken) (c : Completion) (s : State) : State :=
  if c.status < 0x100 || c.status == 0x303 then s
  else { s with errLog := ({ time := s.dev.time, queue := t.queue, tag := t.tag, opcode := t.opcode,
                             company := t.company, status := c.status, r0 := c.r0, r1 := c.r1, r2 := c.r2,
                             w1 := t.words.getD 1 0, w2 := t.words.getD 2 0, w3 := t.words.getD 3 0 }
                           :: s.errLog).take 4096 }

/-- A weight set replaced or removed is freed, with its data in the Loft turning stale, once no command in flight reads it (R640,
R663). -/
def freeSets (s : State) : State :=
  let gone := (s.store.weights.filter fun w => w.old && !s.taken.any fun t => t.sets.contains w.setNum).map (·.setNum)
  let stale : LoftObj → Bool := fun o => match o with
    | .page _ _ _ => false
    | .chunk _ n _ _ => gone.contains n
  { s with
    store := { s.store with weights := s.store.weights.filter fun w => !gone.contains w.setNum }
    loft := { s.loft with
      feet := s.loft.feet.filter fun f => !stale f.obj
      stripes := if gone.isEmpty then s.loft.stripes else
        kmap s.loft.stripes fun _ p => { p with units := p.units.map fun u =>
          { u with spans := u.spans.filter fun a => !stale a.obj } } } }

/-- References of closed and trimmed streams go with the last earlier command on them (R43). -/
def freeLingering (s : State) : State :=
  { s with store := { s.store with
      lingering := s.store.lingering.filter fun g => g.waits.any fun n => s.taken.any (·.seq == n) } }

/-- A command's items leave an arbiter: their waiting episodes end, and a burst that one of them holds (R125, R147). -/
def withdraw (seq : Nat) (a : Arbiter) : Arbiter :=
  let mine := fun (r : ArbReq) => r.item == some seq
  { a with
    reqs := a.reqs.map fun r => if mine r then { r with raised := false, losses := 0, flagged := false, item := none } else r
    held := if a.held.any (fun h => a.reqs.any fun r => mine r && r.requester == h.1) then none else a.held }

/-- A command has ended. -/
def dropTaken (seq : Nat) (s : State) : State :=
  freeLingering (freeSets { s with
    taken := s.taken.filter fun t => t.seq != seq
    work := { s.work with flushes := kdel s.work.flushes seq }
    arb := { s.arb with arb := kmap s.arb.arb fun _ a => withdraw seq a } })

/-- A refusal by the rule table counts in RULE_VIOL_c.cmd (R775). -/
def countRefusal (company : Nat) (s : State) : State :=
  { s with lock := { s.lock with
      ruleViol := kmodD s.lock.ruleViol company (0, 0) fun v => (satInc v.1, v.2) } }

def countPortRefusal (company : Nat) (s : State) : State :=
  { s with lock := { s.lock with
      ruleViol := kmodD s.lock.ruleViol company (0, 0) fun v => (v.1, satInc v.2) } }

/-- The queue a command was taken in on, with its company (queue 0 is company 0's). -/
def queueCompany (s : State) (qn : Nat) : Nat := ((queue s qn).map (·.company)).getD 0

/-- The second detail word of EV_CUE_MISS: the lateness of CUE_MISSED, otherwise the count missed (R849), where the
command's entry puts it (R634, R636, R642). -/
def missDetail (op : Nat) (c : Completion) : Word64 :=
  if op == 0x40 || op == 0x41 then (if c.status == 0x401 then c.r1 else w64 (fld c.r0 63 32))
  else if op == 0x49 then (if c.status == 0x401 then c.r2 else w64 (fld c.r0 63 32))
  else if c.status == 0x401 then c.r1 else w64 (fld c.r0 31 0)

/-- EV_CUE_MISS and PERF_CUE for a completion with CUE_MISSED or OK_DEGRADED (R334); a command degraded only by
split-head mode posts nothing (R382). -/
def reportMiss (t : Taken) (c : Completion) (s : State) : State :=
  let d := missDetail t.opcode c
  if c.status == 0x401 then
    modPerf2 (fun p => { p with cueLate := satInc p.cueLate })
      (postEvent 4 t.company (w64 (c.status * 2 ^ 32 + t.tag * 2 ^ 16 + t.queue)) d s)
  else if c.status == 1 then
    modPerf2 (fun p => { p with
        cueDegraded := satInc p.cueDegraded
        cueMissed := if t.opcode == 0x40 || t.opcode == 0x41 then p.cueMissed else satAdd p.cueMissed d.toNat })
      (if d == 0 then s
       else postEvent 4 t.company (w64 (c.status * 2 ^ 32 + t.tag * 2 ^ 16 + t.queue)) d s)
  else s

/-- Complete a command: its entry is posted, errors are logged, refusals counted and late ones reported by
EV_CUE_MISS (R334, R554). What waits on the queue is looked at by `settle`. -/
def finishCore (t : Taken) (c : Completion) (s : State) : State :=
  let c := { c with tag := t.tag, urgent := t.urgent }
  let s := logError t c (dropTaken t.seq s)
  let s := if c.status == 0x201 then countRefusal (if t.queue == 0 && !(t.opcode == 0x50 && c.r1 != 0xFF) then 0 else t.company) s else s
  postCompletion t.queue c (reportMiss t c s)


end Sys2Proof.Machine
end

