-- ==== Sys2Proof/Machine/Ends.lean ====
section
/-!
DEFINITION. How commands end: the miss bitmap (R333), queue waits (R555 to R558), flushes and deletions (R562 to R564),
what an abort does to each kind of command in flight, the journal (R188), and the health state with its causes
(R806 to R808, R811).
-/
namespace Sys2Proof.Machine
open Sys2Proof

/-- A bitmap of ceil(items / 64) × 8 bytes with the listed bits set (R333). -/
def bitmapBytes (items : Nat) (set : List Nat) : List Byte :=
  (upto ((items + 63) / 64 * 8)).map fun b =>
    (upto 8).foldl (fun acc k => if set.contains (8 * b + k) then acc ||| BitVec.ofNat 8 (2 ^ k) else acc) 0

/-- CXL_AGENT_MAP_a in effect: the port and logical device of an agent. -/
def agentPort (s : State) (a : Nat) : Nat := (agent s a).eff.toNat / 8 % 8
def agentLd (s : State) (a : Nat) : Nat := (agent s a).eff.toNat % 4

/-- Logical devices that a port presents, from 1 to 4 (R676). -/
def ldCount (p : Port) : Nat := if p.actMld then p.actLd.toNat + 1 else 1

def agentValid (s : State) (a : Nat) : Bool :=
  decide (a < 32) && bit (agent s a).eff 31 && decide (agentLd s a < ldCount (port s (agentPort s a)))

/-- An agent exists when its map is valid, its port presents the logical device, and no lower agent names it (R677). -/
def agentExists (s : State) (a : Nat) : Bool :=
  agentValid s a &&
  !(upto a).any fun b => agentValid s b && agentPort s b == agentPort s a && agentLd s b == agentLd s a

/-- The agent that a logical device is: the lowest that names it (R677). -/
def agentOfLd (s : State) (k ld : Nat) : Option Nat :=
  (upto 32).find? fun a => agentValid s a && agentPort s a == k && agentLd s a == ld

def reachable (s : State) (a : Nat) : Bool := agentExists s a && (port s (agentPort s a)).linkUp

/-- A stream of IDE is secure once set going in both directions (R791). -/
def streamSecure (x : IdeStream) : Bool := !x.insecure && x.activeRx.isSome && x.activeTx.isSome

/-- CXL_PORT_STAT_k.ide: 0 off, 1 secure, 2 insecure, over both streams of the port (R696, R697, R791). -/
def portIde (p : Port) : Nat :=
  if p.ideIo.insecure || p.ideMem.insecure then 2
  else if streamSecure p.ideIo && streamSecure p.ideMem then 1 else 0

/-! Interrupts. -/

/-- The MSI-X table and the pending-bit array in BAR2 (R674; PRESUMED, notes/assumptions/30.md). -/
def msixTable : Nat := 0x4000
def msixPending : Nat := 0xC000

def msixVec (p : Port) (ld v : Nat) : MsixVec := kgetD p.msix (2048 * ld + v) MsixVec.fresh

def setMsix (k ld v : Nat) (f : MsixVec → MsixVec) (s : State) : State :=
  modPort k (fun p => { p with msix := kmodD p.msix (2048 * ld + v) MsixVec.fresh f }) s

/-- One MSI-X message of agent a: sent, kept as the vector's pending bit while the vector or the function is masked, and none while MSI-X
is off or the agent cannot be reached (R568). -/
def sendMsix (a v : Nat) (s : State) : State :=
  let k := agentPort s a
  let ld := agentLd s a
  if !reachable s a || !bit (port s k).msixOn ld then s
  else if bit (port s k).msixMask ld || (msixVec (port s k) ld v).masked then setMsix k ld v (fun x => { x with pending := true }) s
  else emit (.msix a v) s

/-- Pending vectors of a logical device that nothing masks any more are sent (R568). -/
def sendPending (k ld : Nat) (s : State) : State :=
  match agentOfLd s k ld with
  | none => s
  | some a =>
    ((port s k).msix.filter fun q => q.1 / 2048 == ld && q.2.pending && !q.2.masked).foldl (fun s q =>
      if bit (port s k).msixOn ld && !bit (port s k).msixMask ld then
        sendMsix a (q.1 % 2048) (setMsix k ld (q.1 % 2048) (fun x => { x with pending := false }) s)
      else s) s

/-- Requests other than configuration requests and DOE traffic are served for the agent (R677, R697, R792). -/
def ioServed (s : State) (a : Nat) : Bool :=
  reachable s a && portIde (port s (agentPort s a)) != 2 && (!s.lock.ide || portIde (port s (agentPort s a)) == 1)

/-- The host agent of a queue; 32, which no agent is, for a queue that is gone. -/
def queueAgent (s : State) (qn : Nat) : Nat := ((queue s qn).map (·.agent)).getD 32

/-- Write a miss bitmap for a command; with address 0 there is none, and after a reset only where it can be reached
(R333, R346). -/
def writeBitmap (t : Taken) (addr items : Nat) (set : List Nat) (s : State) : State :=
  if addr == 0 || !reachable s (queueAgent s t.queue) then s
  else emit (.hostWrite (queueAgent s t.queue) addr (bitmapBytes items set)) s

/-- The count of a list of items and the first of them, in the form of R634. -/
def countAndFirst (missed : List Nat) : Word64 := w64 (missed.length + missed.headD 0 * 2 ^ 32)

def undelivered (op : CueOp) : List Nat :=
  (upto op.items.length).filter fun i => !((op.items[i]?.map (·.delivered)).getD true)

/-- Statuses of an abort on which a CUE, DELIVER or WEIGHTS_STREAM writes its miss bitmap: ABORTED_FLUSH, ABORTED_RESET and
RULES_CHANGED (R333). -/
def bitmapOn (st : Nat) : Bool := st == 0x601 || st == 0x602 || st == 0x203

/-- End a CUE or DELIVER early: on an abort every item not delivered is set in the bitmap, on any other status none is written and
the result names none (R333, R634). -/
def endCue (t : Taken) (op : CueOp) (st : Nat) (s : State) : State :=
  let missed := undelivered op
  let s := modWork (fun w => { w with cues := w.cues.filter (·.seq != op.seq) }) s
  if bitmapOn st then
    finishCore t (statusWith st (countAndFirst missed)) (writeBitmap t op.bitmap op.items.length missed s)
  else finishCore t (status st) s

/-- The result of a WEIGHTS_STREAM: layers delivered, layers missed and the first of them (R642). -/
def layerResult (st delivered : Nat) (missed : List Nat) : Completion :=
  { status st with r0 := w64 (delivered + missed.length * 2 ^ 32), r1 := w64 (missed.headD 0) }

def endWeights (t : Taken) (op : WsOp) (st : Nat) (s : State) : State :=
  let missed := (upto op.layers.length).filter fun j => !op.delivered.contains j
  let s := modWork (fun w => { w with wstreams := w.wstreams.filter (·.seq != op.seq) }) s
  let s := if bitmapOn st then writeBitmap t op.bitmap op.layers.length missed s else s
  finishCore t (layerResult st op.delivered.length missed) s

/-- An abort of a command that has not run. The bitmap of one whose items are known has each of them set; while its list has not
been read the device knows none (R333; notes/assumptions/37.md). -/
def abortUnrun (st : Nat) (t : Taken) (s : State) : State :=
  match t.items with
  | none => finishCore t (status st) s
  | some n =>
    if !bitmapOn st then finishCore t (status st) s
    else if t.opcode == 0x49 then
      finishCore t (layerResult st 0 (upto n)) (writeBitmap t (t.words.getD 10 0).toNat n (upto n) s)
    else finishCore t (statusWith st (countAndFirst (upto n))) (writeBitmap t (t.words.getD 5 0).toNat n (upto n) s)

/-- Halt the clusters of a run at their present instructions (R464). -/
def haltRun (seq : Nat) (s : State) : State :=
  { s with clusters := kmap s.clusters fun _ c =>
      if c.run == some seq && (c.st == 2 || c.st == 3) then { c with st := 4, engQ := [] } else c }

/-- The logical clusters that an attention command's allotments hold fall idle (R462, CLUS_STATE). -/
def releaseAllots (cs : List Nat) (s : State) : State :=
  { s with clusters := kmap s.clusters fun _ c =>
      if c.st == 1 && (c.mapState == 0 || c.mapState == 3) && cs.contains c.logical.toNat then { c with st := 0 } else c }

def dropAtt (op : AttOp) (s : State) : State :=
  releaseAllots (op.active.map (·.1)) (modWork (fun w => { w with atts := w.atts.filter (·.seq != op.seq) }) s)

/-- The completion count of a QUEUE_WAIT's target (R646). -/
def waitCount (t : Taken) (s : State) : Word64 :=
  w64 (((queue s (fld (t.words.getD 1 0) 11 0)).map (·.compCount)).getD 0)

/-- What an abort does to one command of a queue, with the status st it ends with (R562, R575, R779, R811). -/
def abortOne (st : Nat) (t : Taken) (s : State) : State :=
  if !t.running then abortUnrun st t s else
  match t.opcode with
  | 0x38 | 0x39 =>
    match s.work.cues.find? (·.seq == t.seq) with
    | some op => endCue t op st s
    | none => s
  | 0x49 =>
    match s.work.wstreams.find? (·.seq == t.seq) with
    | some op => endWeights t op st s
    | none => s
  | 0x40 | 0x41 =>
    match s.work.atts.find? (·.seq == t.seq) with
    | some op => finishCore t (statusWith st (w64 (b2n op.split * 256))) (dropAtt op s)
    | none => s
  | 0x42 => finishCore t (status st)
      (modWork (fun w => { w with sketches := w.sketches.filter (·.seq != t.seq) }) s)
  | 0x61 =>
    match s.work.runs.find? (·.seq == t.seq) with
    | some r =>
      if r.started.isNone then
        finishCore t (status st) (modWork (fun w => { w with runs := w.runs.filter (·.seq != t.seq) }) s)
      else haltRun t.seq (modWork (fun w => { w with
        runs := w.runs.map fun x => if x.seq == t.seq then { x with aborted := some st } else x }) s)
    | none => s
  | 0x78 | 0x7A => finishCore t (status st) s
  | 0x53 => finishCore t (statusWith st (waitCount t s)) (modQueue t.queue (fun q => { q with wait := none }) s)
  | 0x58 => finishCore t (status st)
      (modWork (fun w => { w with nets := w.nets.filter (·.seq != t.seq) }) s)
  | _ => s

/-- Does an abort end this command with its own status (R562)? Every other dispatched command runs to its end. -/
def abortable (t : Taken) : Bool :=
  !t.dispatched || [0x38, 0x39, 0x49, 0x40, 0x41, 0x42, 0x61, 0x53, 0x58, 0x78, 0x7A].contains t.opcode

/-- Abort every command of which p holds, in order of intake; the number ended comes with it. -/
def abortAll (st : Nat) (p : Taken → Bool) (s : State) : State × Nat :=
  let hit := s.taken.filter fun t => p t && abortable t
  (hit.foldl (fun s t => abortOne st t s) s, hit.length)

/-- Flush queue y: published packets are discarded unread, its commands end with st (R562). -/
def flushQueue (y st : Nat) (keep : Nat) (s : State) : State × Nat × Nat :=
  match queue s y with
  | none => (s, 0, 0)
  | some q =>
    let slots := (q.sqTail + q.sqSize - q.head) % q.sqSize
    let s := { s with queues := kset s.queues y { q with head := q.sqTail, needs := 1, wait := if q.wait.any (·.posts) then q.wait else none } }
    let s := modPerf2 (fun p => { p with flushes := satInc p.flushes }) s
    let (s, n) := abortAll st (fun t => t.queue == y && t.seq != keep) s
    (s, slots, n)

/-- Delete a queue: its completions in the overflow area are discarded with it (R564). -/
def removeQueue (qn : Nat) (s : State) : State := { s with queues := kdel s.queues qn }

/-! Waits and drains. -/

/-- A wait that is over: its target has counted enough (R555), or is gone (R557). -/
def waitOver (s : State) : Option (Nat × QWait × Option Queue) :=
  s.queues.findSome? fun (n, q) =>
    match q.wait with
    | none => none
    | some w =>
      match queue s w.target with
      | none => some (n, w, none)
      | some x => if w.count ≤ x.compCount then some (n, w, some x) else none

/-- QUEUE_WAIT t completes; a status other than OK with abort_on_fail flushes its queue first, and result1 gives the slots discarded
(R558, R646). -/
def completeWait (t : Taken) (abort : Bool) (c : Completion) (s : State) : State :=
  if abort && c.status != 0 then
    let (s, slots, _) := flushQueue t.queue 0x601 t.seq s
    finishCore t { c with r1 := w64 slots } s
  else finishCore t c s

/-- End the wait of queue n with a completion; a status other than OK with abort_on_fail flushes the queue (R558). -/
def endWait (n : Nat) (w : QWait) (c : Completion) (s : State) : State :=
  let s := modQueue n (fun q => { q with wait := none }) s
  match s.taken.find? fun t => t.queue == n && t.opcode == 0x53 && t.running with
  | none => if w.abort && c.status != 0 then (flushQueue n 0x601 s.nextSeq s).1 else s
  | some t => completeWait t w.abort c s

/-- A command in flight reads this page of its company. -/
def readsPage (t : Taken) (c : Nat) : PageRef → Bool
  | .scene id _ => t.company == c && t.reads.contains id
  | .weights n _ => t.company == c && t.sets.contains n

/-- Every copy that a PLACE or MIGRATE creates is complete: it waits for no page, and with tier LOFT each of its scenes has
its Loft copy and creation record, and its weight set its Loft copy (R224). -/
def placeDone (s : State) (t : Taken) : Bool :=
  !(s.work.staging.any fun g => g.waiters.any (·.1 == t.seq))
  && (fld (t.words.getD 1 0) 57 56 != 3 ||
      (t.reads.all fun i => (s.store.scenes.find? fun x => x.company == t.company && x.id == i).all fun x => x.recorded)
      && s.store.weights.all fun w => !t.sets.contains w.setNum || w.loft.all id)

/-- A flush, deletion or draining QUIESCE whose earlier commands have ended (R562, R564, R659). -/
def drained (s : State) (t : Taken) : Bool :=
  match t.opcode with
  | 0x51 => !s.taken.any fun u => u.queue == fld (t.words.getD 1 0) 11 0
  | 0x52 => !s.taken.any fun u => u.queue == fld (t.words.getD 1 0) 11 0 && decide (u.seq < t.seq)
  | 0x7E => !s.taken.any fun u => u.queue != 0 && u.opcode != 0x53
  | 0x32 | 0x33 => placeDone s t
  | _ => false

def drainOver (s : State) : Option (Taken × Completion) :=
  s.work.drains.findSome? fun (seq, c) =>
    match s.taken.find? (·.seq == seq) with
    | some t => if drained s t then some (t, c) else none
    | none => none

/-- End everything that waits only for commands that have ended, one after another. -/
def settleN : Nat → State → State
  | 0, s => s
  | n + 1, s =>
    match waitOver s with
    | some (q, w, some x) => settleN n (endWait q w (okWith (w64 x.compCount) 0 0) s)
    | some (q, w, none) => settleN n (endWait q w (badAt 64 1) s)
    | none =>
      match drainOver s with
      | some (t, c) =>
        let s := modWork (fun w => { w with drains := kdel w.drains t.seq }) s
        let s := if t.opcode == 0x51 then removeQueue (fld (t.words.getD 1 0) 11 0) s else s
        settleN n (finishCore t c s)
      | none => s

def settle (s : State) : State := settleN (s.queues.length + s.taken.length) s

/-- Complete a command that is still in flight, and whatever waited only for it. One that has been ended meanwhile, by a
failure that its own step met (R811), completes no second time. -/
def finish (t : Taken) (c : Completion) (s : State) : State :=
  if s.taken.any fun u => u.seq == t.seq then settle (finishCore t c s) else s

/-! The journal. -/

/-- PD4 is on and no hold-up flush has run: the medium works. -/
def loftOn (s : State) : Bool := bit s.pwr.on 4 && !s.dev.flushed

/-- New Loft programs are held back: in Dusk (R80), and while the hold-up time is below 8,000 µs (R61, R86). -/
def bankHeld (s : State) : Bool := s.pwr.inDusk || decide (s.pwr.holdupUs.toNat < 8000)

/-- No new Loft program is issued: those held back, and any before the checkpoint that is the first of this Dawn (R61). -/
def programsHeld (s : State) : Bool := bankHeld s || !s.dev.checkpoint

/-- A journal program starts with every record formed, unless one runs or programs are held: records formed while it runs go
together into the next (R188). -/
def startJournal (s : State) : State :=
  modLoft (fun l => if l.jprog != 0 || !loftOn s || programsHeld s then l else { l with jprog := l.journal.length }) s

/-- Form a journal record (R188); the command it belongs to completes with it. -/
def formRecord (k : JKind) (cmd : Option (Nat × Completion)) (s : State) : State :=
  startJournal (modLoft (fun l => { l with journal := l.journal ++ [{ kind := k, cmd := cmd }] }) s)

/-- The command has run and completes with its journal record. -/
def holdFor (k : JKind) (t : Taken) (c : Completion) (s : State) : State :=
  formRecord k (some (t.seq, c))
    { s with taken := s.taken.map fun u => if u.seq == t.seq then { u with running := true } else u }

def setRunning (seq : Nat) (s : State) : State :=
  { s with taken := s.taken.map fun u => if u.seq == seq then { u with running := true } else u }

/-! Health. -/

/-- Free understudies (CLUS_MAP.state 1). -/
def freeUs (s : State) : Nat := (s.clusters.filter fun p => p.2.mapState == 1).length

def failedCauses : BitVec 32 := 0x001F0000
def lastActCauses : BitVec 32 := 0x0000000F

/-- HEALTH.state (R806). -/
def healthState (s : State) : BitVec 2 :=
  if s.health.cause &&& failedCauses != 0 then 3
  else if s.dev.roMode then 2
  else if s.health.cause &&& lastActCauses != 0 then 1
  else 0

/-- The HEALTH register. -/
def healthWord (s : State) : Word64 :=
  w64 (s.health.cause.toNat * 2 ^ 32 + s.health.deadLinks.length * 2 ^ 16 + freeUs s * 2 ^ 8 + (healthState s).toNat)

/-- A record of the health log, newest first, 1,024 kept (R825). -/
def healthRecord (kind outcome target repl : Nat) (s : State) : State :=
  modHealth (fun h => { h with log := ({ life := h.lifeS.toNat, kind := kind, outcome := outcome,
                                         target := target, repl := repl } :: h.log).take 1024 }) s

/-- A PLDM state sensor event: sent to the receiver, or kept for a poll (R827). -/
def pldmEvent (sensor reading : Nat) (s : State) : State :=
  match s.health.receiver with
  | some r => emit (.pldm 0x0A [r.toNat, sensor, reading]) s
  | none => modHealth (fun h => { h with waiting := h.waiting ++ [(sensor, reading)] }) s

/-- What follows a change of HEALTH.cause or HEALTH.state from the values before: one EV_HEALTH for all the changes of
one happening, and for a change of state a log record and a PLDM event (R808). The log gives such a record no outcome of
its own: it is a free value (notes/assumptions/2.md). -/
def reportHealth (cause0 : BitVec 32) (s : State) : State :=
  let st := healthState s
  if s.health.cause == cause0 && st == s.health.lastState then s else
  let s1 := postEvent 0 0xFF (healthWord s) s.health.lifeS s
  if st == s.health.lastState then s1 else
  let (f, s2) := takeFree s1
  let s3 := healthRecord 10 (f.toNat % 3) s.health.lastState.toNat st.toNat s2
  pldmEvent 1 (st.toNat + 1)
    (modHealth (fun h => { h with lastState := st, stateAt := h.lifeS.toNat }) s3)

/-- In service, a FAILED cause ends every dispatched command with INTERNAL (R811). -/
def failService (s : State) : State :=
  if healthState s == 3 && s.dev.curUp then
    let s := settle (abortAll 0x603 (fun t => t.running) s).1
    settle ((s.taken.filter fun t => t.dispatched && !(t.running && t.opcode == 0x61)).foldl
      (fun s t => finishCore t (status 0x603) { s with
        loft := { s.loft with journal := s.loft.journal.map fun r =>
          match r.cmd with
          | some (n, _) => if n == t.seq then { r with cmd := none } else r
          | none => r } }) s)
  else s

/-- The causes that thresholds set: US_LOW, SPARE_LOW, PPR_OUT, WEAR, LINK_DEAD and RO_MEDIUM (R807). -/
def thresholds (s : State) : Nat :=
  (if s.dev.dawnPhase == 7 && decide (freeUs s ≤ 2) then 1 else 0)
  + (if 5 * s.loft.spareLeft.toNat < 131072 then 2 else 0)
  + (if s.health.pprLeft.any (· == 0) then 4 else 0)
  + (if s.loft.roCause == 1 then 16 else 0)
  + (if 100 ≤ s.loft.pctUsed.toNat then 256 else 0)
  + (if s.health.deadLinks.isEmpty then 0 else 512)

/-- Set cause bits, and those whose threshold the same happening has reached: they make one report (R807, R808). -/
def raiseCause (bits : Nat) (s : State) : State :=
  let c0 := s.health.cause
  let was := healthState s
  let c1 := c0 ||| BitVec.ofNat 32 bits ||| BitVec.ofNat 32 (thresholds s)
  let s := reportHealth c0 (modHealth (fun h => { h with cause := c1 }) s)
  if was == 3 then s else failService s

/-- Bits 5 and 7 follow their source (R807). -/
def followers (s : State) : Nat := (if s.pwr.forceRo then 32 else 0) + (if s.pwr.holdupWeak then 128 else 0)

/-- Bring HEALTH.cause up to date after a happening and report the change once. -/
def syncHealth (s : State) : State :=
  let c0 := s.health.cause
  let was := healthState s
  let c1 := (c0 &&& BitVec.ofNat 32 0xFFFFFF5F) ||| BitVec.ofNat 32 (thresholds s) ||| BitVec.ofNat 32 (followers s)
  let s := reportHealth c0 (modHealth (fun h => { h with cause := c1 }) s)
  if was == 3 then s else failService s

/-- DEV_STATUS.quiesced (R658). -/
def quiesced (s : State) : Bool := s.dev.quiesceCmd || s.pwr.quiesceIn

/-- EV_QUIESCE on a change of DEV_STATUS.quiesced (R658). -/
def reportQuiesce (was : Bool) (s : State) : State :=
  if quiesced s == was then s
  else postEvent 6 0xFF (w64 (b2n s.dev.quiesceCmd * 4 + b2n s.pwr.quiesceIn * 2 + b2n (quiesced s))) 0 s

end Sys2Proof.Machine
end

