-- ==== Sys2Proof/Machine/Operands.lean ====
section
/-!
DEFINITION. The operand forms of a command packet: word fields, reserved bits and the first offending field (R14, R551),
host regions with their rule-table checks (R765 to R773), the order of checks (R583), and how a row finds the command
it runs.
-/
namespace Sys2Proof.Machine
open Sys2Proof

/-- Word k of a command's packet. -/
def word (t : Taken) (k : Nat) : Word64 := t.words.getD k 0

/-- Bits hi..lo as a mask. -/
def bits (hi lo : Nat) : Nat := 2 ^ (hi + 1) - 2 ^ lo

def low (w : Word64) : Nat := fld w 31 0
def high (w : Word64) : Nat := fld w 63 32

/-- The header bits that every command has: all but the reserved range [47:34] and cmd_field. -/
def headerBits : Nat := bits 33 0

abbrev Chk := Option Completion

/-- The first check that fails, in order (R583). -/
def firstOf : List Chk → Chk
  | [] => none
  | some c :: _ => some c
  | none :: r => firstOf r

/-- A possible BAD_FIELD: whether the field offends, its bit offset in the packet, and the reason code. -/
abbrev Bad := Bool × Nat × Nat

def bads (l : List Bad) : List Bad := l

def minBad : List Bad → Option (Nat × Nat)
  | [] => none
  | (b, off, reason) :: r =>
    match b, minBad r with
    | false, m => m
    | true, none => some (off, reason)
    | true, some (o, re) => if o < off then some (o, re) else some (off, reason)

/-- Of the fields that offend, the one whose least significant bit lies lowest is named (R551). -/
def badFields (l : List Bad) : Chk := (minBad l).map fun p => badAt p.1 p.2

def lowBit (n : Nat) : Nat := ((upto 64).find? fun k => n.testBit k).getD 0

/-- The nonzero reserved bits of a packet: all that the masks do not name, word by word. -/
def reservedBad (t : Taken) (masks : List Nat) : List Bad :=
  (upto t.words.length).map fun k =>
    let w := (word t k).toNat
    let m := if k == 0 then masks.getD 0 0 ||| headerBits else masks.getD k 0
    let excess := w - (w &&& m)
    (excess != 0, 64 * k + lowBit excess, 0)

/-! Rule tables. -/

/-- A region that a command needs: kind, right (1 read, 2 write, 4 atomic), the agent or connection, the address and
length, its place in a list, and the location of the field that gives it, in the form of R551. -/
structure Region where
  kind  : Nat
  right : Nat
  scope : Nat
  addr  : Nat
  len   : Nat
  idx   : Nat
  loc   : Nat

/-- Does a window cover byte a for the agent or connection with the right (R767, R771)? -/
def windowCovers (w : Window) (kind space right scope a : Nat) : Bool :=
  w.kind == kind && w.space == space && (w.rights.toNat &&& right) == right && w.base.toNat ≤ a && a ≤ w.limit.toNat
  && (if kind == 1 then w.scope.toNat == scope else bit w.scope scope)

/-- The furthest byte past a that windows covering a reach. -/
def coverEnd (ws : List Window) (kind space right scope a : Nat) : Nat :=
  ws.foldl (fun m w => if windowCovers w kind space right scope a then max m (w.limit.toNat + 1) else m) a

/-- The lowest byte of n bytes at a that no window allows (R771). -/
def firstRefused (ws : List Window) (kind space right scope : Nat) : Nat → Nat → Nat → Option Nat
  | 0, a, e => if a < e then some a else none
  | fuel + 1, a, e =>
    if e ≤ a then none else
    let nxt := coverEnd ws kind space right scope a
    if nxt == a then some a else firstRefused ws kind space right scope fuel nxt e

def tableOf (s : State) (c : Nat) : RuleTable := ((companyOf s c).map (·.table)).getD RuleTable.empty

/-- The table by which a command's accesses of company c are checked: the one in force at its intake (R776, R777). -/
def tableFor (t : Taken) (c : Nat) (s : State) : RuleTable :=
  match s.work.rules.find? fun o => o.company == c && o.switched && decide (t.seq < o.cut) with
  | some o => o.table
  | none => tableOf s c

def tableRefused (k : RuleTable) (kind space right scope a n : Nat) : Option Nat :=
  firstRefused k.windows kind space right scope (k.windows.length + 1) a (a + n)

def rangeRefused (s : State) (c kind space right scope a n : Nat) : Option Nat :=
  tableRefused (tableOf s c) kind space right scope a n

/-- The company whose table checks a command's regions (R769). -/
def checkCompany (t : Taken) : Nat := if t.queue == 0 then 0 else t.company

def refuse (g : Region) (a : Nat) : Completion :=
  { status 0x201 with
    r0 := w64 a
    r1 := w64 (g.kind + g.right * 256 + g.idx % 65536 * 65536)
    r2 := w64 g.loc }

/-- Check regions in order; the first refused one gives the PROTECTION completion (R772, R773). -/
def checkRegions (t : Taken) (s : State) : List Region → Chk
  | [] => none
  | g :: r =>
    match tableRefused (tableFor t (checkCompany t) s) g.kind 0 g.right g.scope g.addr g.len with
    | some a => some (refuse g a)
    | none => checkRegions t s r

/-- A region that would pass the top of the address space makes its field bad (R771). -/
def wraps (addr len : Nat) : Bool := 2 ^ 64 < addr + len

/-- Location of a packet field. -/
def atBit (off : Nat) : Nat := 0xFFFFFFFF * 2 ^ 32 + off
/-- Location in a host structure named by a packet field. -/
def inStruct (byte off : Nat) : Nat := byte * 2 ^ 32 + off

/-- A host region behind the issuing queue's agent (R584). -/
def hostRegion (t : Taken) (s : State) (right addr len off : Nat) : Region :=
  { kind := 0, right := right, scope := queueAgent s t.queue, addr := addr, len := len, idx := 0, loc := atBit off }

/-- May the opcode be issued (R768)? -/
def opcodeAllowed (t : Taken) (s : State) : Bool :=
  [0x01, 0x02, 0x05, 0x7F].contains t.opcode || (t.queue == 0 && t.opcode == 0x0A)
  || (tableFor t (checkCompany t) s).cmdAllow.getLsbD t.opcode

def opcodeCheck (t : Taken) (s : State) : Chk :=
  if opcodeAllowed t s then none else some { status 0x201 with r1 := 0xFF, r2 := w64 (atBit 0) }

/-! General checks (R583, step 1 and 2). -/

def restrictedSet : List Nat := [0x01, 0x02, 0x03, 0x05, 0x7F, 0x7C, 0x7D]
def bootSet : List Nat := [0x02, 0x03, 0x7F, 0x7C, 0x7D]

/-- Commands that need a Loft program whatever their fields (R283). -/
def loftCommands : List Nat := [0x08, 0x09, 0x0A, 0x10, 0x11, 0x18, 0x19, 0x48]

/-- Commands that PD6 serves: SKETCH_QUERY, ATTEND_SPARSE, and a SET_FEATURE that loads a table or enables pre-staging (R88). -/
def needsPd6 (opcode : Nat) (words : List Word64) : Bool :=
  let f := fld (words.headD 0) 63 48
  let v := words.getD 1 0
  opcode == 0x41 || opcode == 0x42 || (opcode == 0x04 && ((f == 0x20 && bit v 0) || (f == 0x21 && !bit v 8)))

/-- Commands that need a Loft program: those of the list, and PLACE or MIGRATE with tier LOFT (R283). -/
def needsLoft (opcode : Nat) (words : List Word64) : Bool :=
  loftCommands.contains opcode || ((opcode == 0x32 || opcode == 0x33) && fld (words.getD 1 0) 57 56 == 3)

/-- IDENTIFY with cns 1 to 3 before curtain up (R590). -/
def identifyEarly (s : State) (opcode : Nat) (words : List Word64) : Bool :=
  let cns := fld (words.headD 0) 63 48
  opcode == 0x02 && !s.dev.curUp && cns != 0 && decide (cns ≤ 3)

/-- The refusals that are found at intake: BUSY_RETRY before curtain up, in FAILED, or while PD6 is gated (R66, R69, R88, R97, R590, R811),
READ_ONLY_MODE (R141, R283). -/
def refusedAt (s : State) (opcode : Nat) (words : List Word64) : Option Nat :=
  let served :=
    if s.dev.curUp && healthState s != 3 then true
    else if s.dev.fwSlot == 3 then bootSet.contains opcode
    else restrictedSet.contains opcode
  if !served || identifyEarly s opcode words || (needsPd6 opcode words && pd6Gated s) then some 0x303
  else if s.dev.roMode && needsLoft opcode words then some 0x503
  else none

/-- Steps 1 and 2 of R583: what intake found, a failure since then, and PD6 gated before the command has been dispatched to the
Prompter (R88, R97, R811; notes/assumptions/109.md). -/
def generalCheck (t : Taken) (s : State) : Chk :=
  match t.refused with
  | some st => some (status st)
  | none =>
    if (healthState s == 3 && !restrictedSet.contains t.opcode) || (needsPd6 t.opcode t.words && pd6Gated s) then
      some (status 0x303)
    else none

/-- A command of a present unit that has failed (R824). -/
def unitFailed (s : State) (prompter : Bool) : Chk :=
  if (if prompter then s.health.prompterFailed else s.health.stagehandFailed) then some (status 0x603) else none

/-! Finding the command of a row. -/

/-- The stream handles that the word fields of a stream command name. -/
def streamsNamed (t : Taken) : List Nat :=
  match t.opcode with
  | 0x21 | 0x29 | 0x2A | 0x2B => [fld (word t 1) 31 0]
  | 0x22 => if fld (word t 1) 32 32 == 1 then [fld (word t 1) 31 0, fld (word t 2) 31 0] else [fld (word t 1) 31 0]
  | 0x30 | 0x31 => if fld (word t 1) 32 32 == 1 then [fld (word t 1) 31 0] else []
  | 0x32 | 0x33 => if fld (word t 1) 63 60 == 1 then [fld (word t 1) 31 0] else []
  | _ => []

/-- The chain of a stream as it stood when the command was taken in (R224, R357, R389). -/
def chainAt (t : Taken) (h : Nat) : List SceneId := (kget t.chains h).getD []

/-- Buffer b of a CLUSTER_RUN: the word of its address, and its kind (R650). -/
def bufWord (b : Nat) : Nat := 11 + 2 * b
def bufKind (t : Taken) (b : Nat) : Nat := fld (word t (bufWord b + 1)) 63 60

/-- Commands that name streams in a host array. -/
def listOps : List Nat := [0x38, 0x39, 0x40, 0x41, 0x42]

/-- Commands that cover chains as they stood at intake. -/
def chainOps : List Nat := listOps ++ [0x30, 0x31, 0x32, 0x33, 0x61]

/-- What a command reads of a stream, or of a scene by its ID: the handle, the first scene of the chain and how many; or the ID. -/
abbrev ReadPart := Nat × Nat × Nat × SceneId

/-- The parts that the list or length table of a command names, once it has been read (R312, R357), and the stream buffers of a run
(R459). -/
def readParts (t : Taken) : List ReadPart :=
  let b := t.arrays.headD []
  let rows := fun n => (upto n).map fun i =>
    let start := leAt b (16 * i + 8) 4
    let count := leAt b (16 * i + 12) 4
    (leAt b (16 * i) 4, start / 16, if count == 0 then 0 else (start + count - 1) / 16 - start / 16 + 1, (0 : SceneId))
  match t.opcode with
  | 0x38 | 0x39 =>
    let nd := fld (word t 2) 49 48 + 1
    (upto (fld (word t 2) 43 32 + 1)).map fun k =>
      let r := slice b (32 * (nd + k)) 32
      if leAt r 3 1 == 0 then (leAt r 4 4, leAt r 10 2, leAt r 8 2 + 1, 0) else (0, 0, 0, BitVec.ofNat 128 (leAt r 8 16))
  | 0x40 | 0x41 => rows (fld (word t 1) 31 16)
  | 0x42 => rows (fld (word t 1) 47 32)
  | 0x61 => ((upto 8).filter fun b => bufKind t b == 4).map fun b =>
      let h := low (word t (bufWord b))
      (h, 0, (chainAt t h).length, 0)
  | _ => []

/-- Handles of the streams that a command reads; a list not yet read may name any that was open at intake. -/
def streamsRead (t : Taken) : List Nat :=
  if t.opcode == 0x02 then (if fld (word t 0) 63 48 == 3 then [low (word t 2)] else [])
  else if listOps.contains t.opcode && !t.fetched then t.chains.map (·.1)
  else (readParts t).map (·.1)

/-- Scenes that a command reads (R179). -/
def scenesRead (t : Taken) : List SceneId :=
  ((readParts t).flatMap fun (h, first, n, id) => if h == 0 then [id] else ((chainAt t h).drop first).take n).eraseDups

def adminOps : List Nat := [0x08, 0x09, 0x0A, 0x10, 0x11, 0x18, 0x19, 0x50, 0x51, 0x78, 0x79, 0x7A, 0x7C, 0x7D, 0x7E]

/-- Commands that change a stream, and those of R661. -/
def streamOps : List Nat := [0x21, 0x22, 0x29, 0x2A, 0x2B]
def placeOps : List Nat := [0x30, 0x31, 0x32, 0x33]

/-- The objects of a PIN, UNPIN, PLACE or MIGRATE, each as a kind and a number: a scene, a stream, a weight set, a scratch
object, in PLACE's numbering; a range of a chain names its scenes (R661). -/
def objectsNamed (t : Taken) : List (Nat × Nat) :=
  let w := word t 1
  let id := (word t 2).toNat + (word t 3).toNat * 2 ^ 64
  match t.opcode with
  | 0x30 | 0x31 =>
    if bit w 32 then
      (((chainAt t (low w)).drop (fld (word t 2) 31 16)).take (fld (word t 2) 15 0 + 1)).map fun i => (0, i.toNat)
    else [(0, id)]
  | 0x32 | 0x33 =>
    match fld w 63 60 with
    | 0 => [(0, id)]
    | 1 => [(1, low w)]
    | 2 => [(2, (word t 2).toNat)]
    | 3 => if low w == 0 then [] else [(3, low w)]
    | _ => []
  | _ => []

/-- The model number that a MODEL_RETIRE, STREAM_OPEN or FIND_PREFIX names. -/
def modelNamed (t : Taken) : Option Nat :=
  match t.opcode with
  | 0x19 => some (fld (word t 0) 53 48)
  | 0x20 | 0x28 => some (fld (word t 1) 5 0)
  | _ => none

/-- A MODEL_RETIRE acts on its model in order of intake with the commands that open streams of it and look for its scenes (R603, R615). -/
def retireOrder (u t : Taken) : Bool :=
  (u.opcode == 0x19 || t.opcode == 0x19) && u.company == t.company && (modelNamed u).isSome && modelNamed u == modelNamed t

/-- Commands of the admin queue that find a company absent once its COMPANY_DESTROY has been taken in (R614). -/
def companyOps : List Nat := [0x02, 0x04, 0x05]

/-- Commands that start a Stagehand message. -/
def netOps : List Nat := [0x58, 0x59]

/-- Must u, taken in earlier and not yet run, run before t: a STREAM_CLOSE takes effect after the commands on its stream that were taken in
before it, and before the later ones (R43, R586, R603, R614, R615, R661, R665, R747)? -/
def holdsBack (u t : Taken) : Bool :=
  !u.running && decide (u.seq < t.seq) &&
  ((adminOps.contains u.opcode && adminOps.contains t.opcode && u.company == t.company)
   || (u.opcode == 0x09 && companyOps.contains t.opcode && t.queue == 0 && u.company == t.company)
   || retireOrder u t
   || (netOps.contains u.opcode && netOps.contains t.opcode && u.queue == t.queue)
   || ((streamOps.contains u.opcode || streamOps.contains t.opcode)
      && (streamsNamed u).any fun h => (streamsNamed t).contains h)
   || (t.opcode == 0x21 && u.company == t.company && (streamsRead u).any fun h => (streamsNamed t).contains h)
   || (u.opcode == 0x21 && u.company == t.company && (streamsRead t).any fun h => (streamsNamed u).contains h)
   || (placeOps.contains u.opcode && placeOps.contains t.opcode && u.company == t.company
      && (objectsNamed u).any fun o => (objectsNamed t).contains o))

/-- The command in flight that a reference names: the earliest of its tag (R538). -/
def takenRef (s : State) (r : CmdRef) : Option Taken := s.taken.find? fun t => t.queue == r.queue && t.tag == r.tag

/-- The command that a row of opcode op runs: dispatched, its host arrays read, not yet run, the earliest of its tag,
and held back by no earlier command. -/
def findRun (op : Nat) (r : CmdRef) (s : State) : Option Taken :=
  match s.taken.find? fun t => t.queue == r.queue && t.tag == r.tag && t.opcode == op && t.dispatched && t.fetched
                               && !t.running with
  | none => none
  | some t => if s.taken.any fun u => holdsBack u t then none else some t

/-- A command that has run and waits. -/
def findRunning (op : Nat) (r : CmdRef) (s : State) : Option Taken :=
  s.taken.find? fun t => t.queue == r.queue && t.tag == r.tag && t.opcode == op && t.running

/-- Run a command row: with no such command in flight the row does not come about and changes nothing. -/
def runRow (op : Nat) (r : CmdRef) (s : State) (body : Taken → State → State) : Res :=
  match findRun op r s with
  | some t => .next (body t s)
  | none => .next s

/-- Complete with the first check that fails, or go on. -/
def checked (t : Taken) (checks : List Chk) (s : State) (go : State → State) : State :=
  match firstOf checks with
  | some c => finish t c s
  | none => go s

/-- Host array k of a command, as read. -/
def hostArray (t : Taken) (k : Nat) : List Byte := t.arrays.getD k []

/-- Write bytes to host memory behind the issuing queue's agent. -/
def toHost (t : Taken) (addr : Nat) (d : List Byte) (s : State) : State :=
  if (queue s t.queue).isNone then s else
  emit (.hostWrite (queueAgent s t.queue) addr d) (dma (queueAgent s t.queue) d.length s)

end Sys2Proof.Machine
end

