-- ==== Sys2Proof/Machine/Xts.lean ====
section
/-!
DEFINITION. AES-256-XTS (R263, R784, R785): the block cipher of FIPS 197 with a 32-byte key, and the XTS mode of IEEE 1619 over
one data unit. Data units are whole footprints or 4 KiB chunks, so every one is a whole number of 16-byte blocks.
-/
namespace Sys2Proof.Machine
open Sys2Proof

/-- Multiplication by x in GF(2^8) of AES. -/
def xtime (a : Byte) : Byte := if a.getLsbD 7 then (a <<< 1) ^^^ 0x1B else a <<< 1

/-- Multiplication in that field, by the bits of the second factor from bit 7 down. -/
def gfMul (a b : Byte) : Byte :=
  (upto 8).foldl (fun r k => (if b.getLsbD (7 - k) then xtime r ^^^ a else xtime r)) 0

/-- The inverse, a^254; zero has none and stays zero. -/
def gfInv (a : Byte) : Byte :=
  let a2 := gfMul a a
  let a4 := gfMul a2 a2
  let a8 := gfMul a4 a4
  let a16 := gfMul a8 a8
  let a32 := gfMul a16 a16
  let a64 := gfMul a32 a32
  let a128 := gfMul a64 a64
  gfMul a128 (gfMul a64 (gfMul a32 (gfMul a16 (gfMul a8 (gfMul a4 a2)))))

/-- SubBytes of one byte. -/
def aesSub (a : Byte) : Byte :=
  let b := gfInv a
  b ^^^ b.rotateLeft 1 ^^^ b.rotateLeft 2 ^^^ b.rotateLeft 3 ^^^ b.rotateLeft 4 ^^^ 0x63

def xorBytes (a b : List Byte) : List Byte := List.zipWith (· ^^^ ·) a b

/-- Round constants of the key expansion. -/
def aesRcon (k : Nat) : Byte := (upto k).foldl (fun r _ => xtime r) 1

/-- Eight more words of the expanded key, after the eight last ones. -/
def aesExpand (k : Nat) (w : List (List Byte)) : List (List Byte) :=
  (upto 8).foldl (fun (out : List (List Byte)) i =>
    let prev := if i == 0 then w.getD 7 [] else out.getD (i - 1) []
    let t := if i == 0 then
        match prev with
        | a :: r => xorBytes ((r ++ [a]).map aesSub) [aesRcon k, 0, 0, 0]
        | [] => []
      else if i == 4 then prev.map aesSub else prev
    out ++ [xorBytes (w.getD i []) t]) []

/-- The 60 words of an expanded 32-byte key (seven expansions give 64; the last four are not used). -/
def aesKeys (key : List Byte) : List (List Byte) :=
  let w0 := (upto 8).map fun i => slice key (4 * i) 4
  ((upto 7).foldl (fun (p : List (List Byte) × List (List Byte)) k =>
    let w := aesExpand k p.2
    (p.1 ++ w, w)) (w0, w0)).1

def roundKey (ks : List (List Byte)) (r : Nat) : List Byte := (upto 4).flatMap fun i => ks.getD (4 * r + i) []

/-- ShiftRows: byte r of column c comes from column c + r. -/
def shiftRows (b : List Byte) : List Byte := (upto 16).map fun i => b.getD ((i + 4 * (i % 4)) % 16) 0

def mixColumn (c : List Byte) : List Byte :=
  (upto 4).map fun i =>
    xtime (c.getD i 0) ^^^ (xtime (c.getD ((i + 1) % 4) 0) ^^^ c.getD ((i + 1) % 4) 0)
      ^^^ c.getD ((i + 2) % 4) 0 ^^^ c.getD ((i + 3) % 4) 0

def mixColumns (b : List Byte) : List Byte := (upto 4).flatMap fun c => mixColumn (slice b (4 * c) 4)

/-- AES-256 of one 16-byte block: 14 rounds, the last one without MixColumns. -/
def aesBlock (ks : List (List Byte)) (b : List Byte) : List Byte :=
  let s := (upto 13).foldl (fun s r =>
    xorBytes (mixColumns (shiftRows (s.map aesSub))) (roundKey ks (r + 1))) (xorBytes b (roundKey ks 0))
  xorBytes (shiftRows (s.map aesSub)) (roundKey ks 14)

/-- A tweak times x in GF(2^128), byte 0 least significant. -/
def xtsDouble (t : BitVec 128) : BitVec 128 := if t.getLsbD 127 then (t <<< 1) ^^^ 0x87 else t <<< 1

def xtsTweaks : Nat → BitVec 128 → List (BitVec 128)
  | 0, _ => []
  | n + 1, t => t :: xtsTweaks n (xtsDouble t)

/-- AES-256-XTS encryption of a data unit: the first 32 bytes of the key encrypt the data, the last 32 the tweak. Byte i of the
result is byte i of the unit, so the length stays whatever the key is. -/
def xtsEncrypt (key : BitVec 512) (tweak : BitVec 128) (d : List Byte) : List Byte :=
  let kb := leBytes 64 key.toNat
  let k1 := aesKeys (kb.take 32)
  let t0 := BitVec.ofNat 128 (leNat (aesBlock (aesKeys (kb.drop 32)) (leBytes 16 tweak.toNat)))
  let n := (d.length + 15) / 16
  let ts := xtsTweaks n t0
  let blocks := (upto n).map fun i =>
    let t := leBytes 16 (ts.getD i 0).toNat
    xorBytes (aesBlock k1 (xorBytes (slice d (16 * i) 16) t)) t
  (upto d.length).map fun i => (blocks.getD (i / 16) []).getD (i % 16) 0

end Sys2Proof.Machine
end

