-- ==== Sys2Proof/Machine/Stripes.lean ====
section
/-!
DEFINITION. The array of the Loft (06_the_loft_medium.md): dies and their blocks (R255 to R257, R279 to R281), encrypted
footprints, stripes and the program buffer (R229, R258 to R263, R295, R908), what a die does next (R270 to R274), and where a
footprint lies and is read (R265, R292, R298).
-/
namespace Sys2Proof.Machine
open Sys2Proof

/-! Geometry (R255, R256, R258). -/

def dieOk (d : Nat) : Bool := decide (d < 1024)
def blockOk (b : Nat) : Bool := decide (b < 4096)
/-- Data of one program unit, 192 KiB, and the word lines of a block: 2,048 flash pages, three to a word line. -/
def unitBytes : Nat := 196608
def wordLines : Nat := 682

def dieChannel (d : Nat) : Nat := d / 32
def dieHalf (d : Nat) : Nat := d / 512
def dieGroup (d : Nat) : Nat := 32 * dieHalf d + d % 32
/-- The die of member i of group g. -/
def memberDie (g i : Nat) : Nat := 32 * (16 * (g / 32) + i) + g % 32
def groupDies (g : Nat) : List Nat := (upto 16).map (memberDie g)
def channelDies (c : Nat) : List Nat := (upto 32).map (32 * c + ·)

def dieWorks (s : State) (d : Nat) : Bool := decide ((die s d).state < 2)

/-! Blocks. -/

def blk (x : Die) (b : Nat) : Blk := kgetD x.blocks b Blk.fresh

def modBlk (d b : Nat) (f : Blk → Blk) (s : State) : State :=
  modDie d (fun x => { x with blocks := kmodD x.blocks b Blk.fresh f }) s

/-- Some data of the stripe is valid: a copy that the index names, or one being written. -/
def stripeLive (p : Stripe) : Bool := p.units.any fun u => !u.spans.isEmpty

/-- A unit holds valid data, or parity over some (R293). -/
def unitValid (p : Stripe) (u : LUnit) : Bool := if u.parity then stripeLive p else !u.spans.isEmpty

/-- Units programmed on a die, with their stripes' numbers. -/
def unitsOn (s : State) (d : Nat) : List (Nat × Stripe × LUnit) :=
  s.loft.stripes.flatMap fun p => (p.2.units.filter fun u => u.die == d && u.st == .done).map fun u => (p.1, p.2, u)

/-- Blocks of a die that hold valid data. -/
def validBlocks (s : State) (d : Nat) : List Nat :=
  (((unitsOn s d).filter fun q => unitValid q.2.1 q.2.2).flatMap fun q => q.2.2.blocks).eraseDups

/-- The D0 spare-block reserve (R279). -/
def reserveOf (x : Die) : Nat := min 8 x.spares

/-- Blocks of a die in the SLC set of its channel: 64 to a channel of 32 dies (R264). -/
def slcBlocks : Nat := 2

/-- A die's headroom: good blocks outside its reserve that hold no valid data (R281). The SLC blocks hold valid data once the
channel holds records or a checkpoint. -/
def headroom (s : State) (d : Nat) : Nat :=
  let x := die s d
  let good := 4096 - (x.blocks.filter (·.2.bad)).length
  good - reserveOf x - ((validBlocks s d).filter fun b => !(blk x b).bad).length
    - (if bit s.loft.jchans (dieChannel d) then slcBlocks else 0)

/-- A die may take new stripes (R281). -/
def takesStripes (s : State) (d : Nat) : Bool := (die s d).state == 0 && headroom s d != 0

/-- LOFT_DIE_INFO.state: a working die without headroom reads excluded (R281). -/
def dieState (s : State) (d : Nat) : Nat :=
  if (die s d).state == 0 && headroom s d == 0 then 1 else (die s d).state

/-- Erased blocks of a die outside its reserve and the SLC set. -/
def erasedBlocks (s : State) (d : Nat) : Nat :=
  let x := die s d
  4096 - slcBlocks - (x.blocks.filter fun p => p.2.bad || p.2.used != 0).length - reserveOf x

def blkErased (x : Die) (b : Nat) : Bool := !(blk x b).bad && (blk x b).used == 0 && !x.erases.contains b

/-- The blocks that a new set of open blocks takes: in each plane the lowest-numbered erased one (notes/assumptions/47.md). -/
def pickBlocks (x : Die) : List Nat :=
  (upto 4).filterMap fun p => (upto 1024).find? (fun k => blkErased x (1024 * p + k)) |>.map (1024 * p + ·)

/-- The blocks that the die's next program goes to: its open blocks, or a new set. With no erased block outside the reserve
only a program that may draw on the reserve has any (R284). -/
def targetBlocks (s : State) (d : Nat) (drawsReserve : Bool) : List Nat :=
  let x := die s d
  match x.open_ with
  | b :: r => b :: r
  | [] => if 4 ≤ erasedBlocks s d || (drawsReserve && reserveOf x != 0) then pickBlocks x else []

/-! Stripes and units. -/

def modStripe (k : Nat) (f : Stripe → Stripe) (s : State) : State :=
  modLoft (fun l => { l with stripes := kmod l.stripes k f }) s

def modUnit (k m : Nat) (f : LUnit → LUnit) (s : State) : State :=
  modStripe k (fun p => { p with units := p.units.map fun u => if u.member == m then f u else u }) s

def unitOf (p : Stripe) (m : Nat) : Option LUnit := p.units.find? (·.member == m)

/-- A unit is full, or its stripe has closed: its program can be issued. -/
def unitReady (p : Stripe) (u : LUnit) : Bool := p.closed || decide (unitBytes ≤ u.data.length)

/-- The program buffer holds no unit for the die (R908). -/
def slotFree (s : State) (d : Nat) : Bool :=
  !(s.loft.stripes.any fun p => p.2.units.any fun u => u.die == d && (u.st == .buffered || u.st == .issued))
  && !(s.loft.rebuilds.any fun r => r.target == some d)

/-- XOR of two units, the shorter one padded with zeros (R259, R261). -/
def xorUnits : List Byte → List Byte → List Byte
  | [], b => b
  | a, [] => a
  | x :: a, y :: b => (x ^^^ y) :: xorUnits a b

/-- The parity over the ciphertext of the data units (R259, R263). -/
def parityOf (p : Stripe) : List Byte := ((p.units.filter (!·.parity)).map (·.data)).foldl xorUnits []

/-- Members of a group that take part in its next stripe (R281, R295), and the one among them that holds its parity: member
s mod 16 in the s-th stripe of the group, counted from 0, or the next that takes part (R259; notes/assumptions/46.md). -/
def membersOf (s : State) (g : Nat) : List Nat := (upto 16).filter fun i => takesStripes s (memberDie g i)

def parityMember (s : State) (g : Nat) : Nat :=
  let n := kgetD s.loft.groupCount g 0
  (((upto 16).map fun i => (n + i) % 16).find? fun i => (membersOf s g).contains i).getD (n % 16)

/-- Mean program/erase count of a group's dies, as a sum over their blocks (R260). -/
def peSum (x : Die) : Nat := (x.blocks.map (·.2.pe)).sum
/-- LOFT_DIE_INFO.pe_avg and pe_max: the mean over the 4,096 blocks, rounded down, and the highest count; both fields saturate. -/
def peMean (x : Die) : Nat := min 65535 (peSum x / 4096)
def peMost (x : Die) : Nat := min 65535 ((x.blocks.map (·.2.pe)).foldl max 0)
def groupWear (s : State) (g : Nat) : Nat := ((groupDies g).map fun d => peSum (die s d)).sum

def lowestWear (s : State) : List Nat → Option Nat
  | [] => none
  | g :: r =>
    match lowestWear s r with
    | none => some g
    | some h => if groupWear s h < groupWear s g then some h else some g

/-- The channel that a footprint goes to: the one R229 names, or when all its dies have failed the next with a die that takes
new stripes (R295). -/
def servedChannel (s : State) (c : Nat) : Nat :=
  if (channelDies c).any (dieWorks s) then c
  else (((upto 31).map fun j => (c + j + 1) % 32).find? fun e => (channelDies e).any (takesStripes s)).getD c

def weak (s : State) : Bool := s.pwr.holdupWeak

/-- Bytes that member m's data unit of an open stripe can still take. A unit that is not yet in the program buffer begins only
when the buffer has room for it, but with a weak bank it gathers in Wings (R86, R908). -/
def unitRoom (s : State) (p : Stripe) (m : Nat) : Nat :=
  if p.closed || m == p.parity || !p.members.contains m then 0 else
  match unitOf p m with
  | some u => if u.st == .outside || u.st == .buffered then unitBytes - u.data.length else 0
  | none => if weak s || slotFree s (memberDie p.group m) then unitBytes else 0

/-- Put the first n bytes of a waiting footprint into member m's data unit of stripe k (R260). -/
def putPiece (k m n : Nat) (f : Foot) (s : State) : State :=
  let piece := fun (u : LUnit) => { u with
    data := u.data ++ f.data.take n
    spans := u.spans ++ [{ obj := f.obj, item := f.item, off := f.off, len := n, at_ := u.data.length, home := false }] }
  let rest := if f.data.length ≤ n then [] else [{ f with off := f.off + n, data := f.data.drop n }]
  let put := fun (p : Stripe) =>
    let u0 : LUnit := { member := m, parity := false, die := memberDie p.group m, blocks := [], line := 0,
                        st := if weak s then .outside else .buffered, spans := [], data := [], lost := false }
    { p with units := if (unitOf p m).isSome then p.units.map fun u => if u.member == m then piece u else u
                      else p.units ++ [piece u0] }
  modStripe k put (modLoft (fun l => { l with feet := l.feet.flatMap fun g => if g == f then rest else [g] }) s)

/-- An open stripe ends: the data units that nothing has reached are zeros, and the parity unit is formed (R259, R261). -/
def closeStripe (k : Nat) (s : State) : State :=
  let blank := fun (p : Stripe) (m : Nat) =>
    ({ member := m, parity := m == p.parity, die := memberDie p.group m, blocks := [], line := 0, st := .outside, spans := [],
       data := [], lost := false } : LUnit)
  let full := fun (p : Stripe) =>
    let missing := p.members.filter fun m => m != p.parity && (unitOf p m).isNone
    let p := { p with closed := true, units := p.units ++ missing.map (blank p) }
    { p with units := p.units ++ [{ blank p p.parity with data := parityOf p }] }
  modStripe k full (modLoft (fun l => { l with openStripe := l.openStripe.filter (·.2 != k) }) s)

/-- Every data unit of the open stripe is full (R261). -/
def stripeFull (p : Stripe) : Bool :=
  p.members.all fun m => m == p.parity || (unitOf p m).any fun u => decide (unitBytes ≤ u.data.length)

def closeIfFull (k : Nat) (s : State) : State :=
  match kget s.loft.stripes k with
  | some p => if stripeFull p then closeStripe k s else s
  | none => s

/-- The first piece of a waiting footprint goes into the open stripe of its channel's half, where that has room (R260). -/
def placeFoot (s : State) (f : Foot) : Option State :=
  let c := servedChannel s f.chan
  match kget s.loft.openStripe (c / 16) with
  | none => none
  | some k =>
    match kget s.loft.stripes k with
    | none => none
    | some p =>
      let n := min f.data.length (unitRoom s p (c % 16))
      if n == 0 then none else some (closeIfFull k (putPiece k (c % 16) n f s))

/-- The oldest footprint that waits for a half with no open stripe opens one: on the group of lowest wear among those in which its
channel has a data unit, or where none has on the group of lowest wear (R260; notes/assumptions/46.md). It waits while that
unit's die has no free unit in the program buffer (R908). -/
def openStripeFor (s : State) (h : Nat) : Option State :=
  if (kget s.loft.openStripe h).isSome then none else
  match s.loft.feet.find? fun f => servedChannel s f.chan / 16 == h with
  | none => none
  | some f =>
    let m := servedChannel s f.chan % 16
    let groups := ((upto 32).map (32 * h + ·)).filter fun g => 2 ≤ (membersOf s g).length
    let own := groups.filter fun g => (membersOf s g).contains m && parityMember s g != m
    match lowestWear s (if own.isEmpty then groups else own) with
    | none => none
    | some g =>
      if !own.isEmpty && !weak s && !slotFree s (memberDie g m) then none else
      let p : Stripe := { group := g, parity := parityMember s g, members := membersOf s g, openAt := now s, closed := false,
                          units := [] }
      some (modLoft (fun l => { l with
        stripes := kset l.stripes l.nextStripe p, openStripe := kset l.openStripe h l.nextStripe
        nextStripe := l.nextStripe + 1, groupCount := kmodD l.groupCount g 0 (· + 1) }) s)

/-- Units that wait outside the program buffer and can be programmed enter it as it has room; a weak bank keeps it empty (R86,
R908). -/
def handOver (s : State) : State :=
  if weak s then s else
  (s.loft.stripes.flatMap fun p => (p.2.units.filter fun u => u.st == .outside && unitReady p.2 u).map fun u => (p.1, u)).foldl
    (fun s q => if slotFree s q.2.die then modUnit q.1 q.2.member (fun u => { u with st := .buffered }) s else s) s

/-- Place what can be placed: one piece, or one new stripe, at a time. -/
def placeFeet : Nat → State → State
  | 0, s => s
  | n + 1, s =>
    match s.loft.feet.findSome? (placeFoot s) with
    | some t => placeFeet n (handOver t)
    | none =>
      match (upto 2).findSome? (openStripeFor s) with
      | some t => placeFeet n t
      | none => s

/-- Enough steps to place every waiting footprint: each fills a unit, ends a footprint or opens a stripe. -/
def feetFuel (s : State) : Nat :=
  4 * (s.loft.feet.length + (s.loft.feet.map (·.data.length)).sum / unitBytes + 8)

/-! What a die does next (R270). -/

/-- The die is idle from a change on, or has not been since a time (R274). -/
def noteIdle (t : Nat) (x : Die) : Die :=
  if x.op.isNone && x.reads == 0 then { x with busySince := none } else { x with busySince := some (x.busySince.getD t) }

/-- A hold for an overdue calibration is in force, for at most 1 ms (R274). -/
def onHold (s : State) (d : Nat) : Bool :=
  match (die s d).heldAt with
  | some t => decide (now s < t + 1000000)
  | none => false

/-- The die can run a foreground read: nothing runs on it that is not suspended, and it is not held (R270 to R272, R274). -/
def canRead (s : State) (d : Nat) : Bool :=
  loftOn s && dieWorks s d && ((die s d).op.isNone || (die s d).suspended || (die s d).duskHeld) && !onHold s d

/-- The oldest unit whose program the die can start: one in the buffer, or with a weak bank one taken from Wings at once (R86). -/
def readyUnit (s : State) (d : Nat) : Option (Nat × Nat) :=
  s.loft.stripes.findSome? fun p =>
    (p.2.units.find? fun u => u.die == d && unitReady p.2 u && (u.st == .buffered || (weak s && u.st == .outside))).map
      fun u => (p.1, u.member)

/-- In medium read-only mode the programs of stripes that hold data held when it began may draw on the reserve (R284). -/
def drawsReserve (s : State) (k : Nat) : Bool :=
  s.loft.roCause == 1 &&
  ((kget s.loft.stripes k).map fun p => p.units.any fun u => u.spans.any fun a => decide (a.item < s.loft.roItem)).getD false

/-- An idle die with no foreground read starts D0 work: a program, a rebuilt unit, an erase (R270, R293). -/
def kick (d : Nat) (s : State) : State :=
  let x := die s d
  if !loftOn s || !dieWorks s d || x.op.isSome || x.reads != 0 || onHold s d then s else
  let begin := fun (o : DieOp) (s : State) =>
    modDie d (fun x => noteIdle (now s) { x with op := some o, suspends := 0, suspended := false, duskHeld := false }) s
  let program : Option State := if programsHeld s then none else
    match readyUnit s d with
    | some (k, m) =>
      if (targetBlocks s d (drawsReserve s k)).isEmpty then none
      else some (begin (.program k m) (modUnit k m (fun u => { u with st := .issued }) s))
    | none =>
      match s.loft.rebuilds.find? fun r => r.target == some d && !r.issued with
      | some r =>
        if (targetBlocks s d false).isEmpty then none
        else some (begin (.rebuild r.stripe r.member) (modLoft (fun l => { l with
          rebuilds := l.rebuilds.map fun q => if q == r then { q with issued := true } else q }) s))
      | none => none
  match program with
  | some t => t
  | none =>
    match x.erases with
    | b :: _ => if s.pwr.inDusk then s else begin (.erase b) s
    | [] => s

/-- Dies with a program or an erase to start. -/
def dueDies (s : State) : List Nat :=
  ((s.loft.stripes.flatMap fun p => (p.2.units.filter fun u => u.st == .buffered || u.st == .outside).map (·.die))
    ++ s.loft.rebuilds.filterMap (·.target) ++ (s.loft.dies.filter fun p => !p.2.erases.isEmpty).map (·.1)).eraseDups

/-- Hand rebuilt units to dies of the failed die's channel, redirected as footprints are, that have headroom and a free place in
the buffer; the rebuild runs from curtain up on (R293, R295). -/
def feedRebuild (s : State) : State :=
  if !s.dev.curUp || weak s then s else
  s.loft.rebuilds.foldl (fun s r =>
    if r.target.isSome then s else
    match (channelDies (servedChannel s (dieChannel r.die))).find? fun d => takesStripes s d && slotFree s d with
    | some d => modLoft (fun l => { l with
        rebuilds := l.rebuilds.map fun q => if q == r then { q with target := some d } else q }) s
    | none => s) s

/-- Bring the buffer and the dies up to date after a change: footprints and units move as far as they can. -/
def pump (s : State) : State :=
  let s := handOver (placeFeet (feetFuel s) (handOver s))
  let s := feedRebuild s
  (dueDies s).foldl (fun s d => kick d s) s

/-- A foreground read reaches a die: it suspends a program or erase that has been suspended fewer than 2 times; a suspension for
Dusk serves it without counting (R271, R296). -/
def reachDie (d : Nat) (s : State) : State :=
  let x := die s d
  let hit := x.op.isSome && !x.suspended && !x.duskHeld && decide (x.suspends < 2)
  let s := modDie d (fun x => noteIdle (now s)
    (if hit then { x with reads := x.reads + 1, suspended := true, suspends := x.suspends + 1, suspendAt := now s }
     else { x with reads := x.reads + 1 })) s
  if hit then modPerf (fun p => { p with suspends := satInc p.suspends }) s else s

/-- One foreground read fewer is queued at the die; with none the suspended operation goes on, or the next begins (R270, R271). -/
def leaveDie (d : Nat) (s : State) : State :=
  kick d (modDie d (fun x => noteIdle (now s)
    { x with reads := x.reads - 1, suspended := x.suspended && x.reads != 1 }) s)

/-! Where a data unit lies. -/

/-- The places that the index names for a data unit. -/
def placesOf (s : State) (o : LoftObj) : List (Nat × Stripe × LUnit) :=
  s.loft.stripes.flatMap fun p =>
    (p.2.units.filter fun u => u.spans.any fun a => a.obj == o && a.home).map fun u => (p.1, p.2, u)

/-- The other members of a unit's stripe. -/
def peers (p : Stripe) (u : LUnit) : List LUnit := p.units.filter fun v => v.member != u.member

/-- A unit's own die serves reads of it. -/
def unitReads (s : State) (u : LUnit) : Bool := dieWorks s u.die && !u.lost

/-- Stage 3 of R265 can run: none of the stripe's other members is failed. -/
def peersRead (s : State) (p : Stripe) (u : LUnit) : Bool := !u.lost && (peers p u).all (unitReads s)

/-- Dies whose array reads a data unit needs: those that hold it, and for a failed one the other members of its stripe (R292). -/
def readDies (s : State) (o : LoftObj) : List Nat :=
  ((placesOf s o).flatMap fun q => if unitReads s q.2.2 then [q.2.2.die] else (peers q.2.1 q.2.2).map (·.die)).eraseDups

/-- A read of the data unit can end so (R265, R292, R294): without the rebuild only on working dies, with it only when no other
member is failed, and a lost unit only as failed. -/
def readCanEnd (s : State) (o : LoftObj) (r : ReadOutcome) : Bool :=
  let l := placesOf s o
  r == .failed || !l.isEmpty &&
  match r with
  | .hard => l.all fun q => unitReads s q.2.2
  | .retried => l.all fun q => unitReads s q.2.2
  | .rebuilt => l.all fun q => peersRead s q.2.1 q.2.2
  | .failed => true

/-- A read of a data unit counts toward the read disturb of its blocks (R266). -/
def countReads (o : LoftObj) (s : State) : State :=
  (placesOf s o).foldl (fun s q => q.2.2.blocks.foldl (fun s b =>
    modBlk q.2.2.die b (fun x => { x with reads := x.reads + 1 }) s) s) s

/-- The ciphertext of a data unit as it stands on the medium. -/
def cipherOf (s : State) (o : LoftObj) (n : Nat) : List Byte :=
  ((placesOf s o).flatMap fun q => (q.2.2.spans.filter fun a => a.obj == o && a.home).map fun a =>
    (a.off, slice q.2.2.data a.at_ a.len)).foldl (fun b p => splice b p.1 p.2) (List.replicate n 0)

/-! D0 items. -/

/-- Footprints go to the Loft as a D0 item (R134, R221); their programs are placed as the buffer has room. -/
def startItem (kind : ItemKind) (company : Nat) (scene : Option SceneId) (set size : Nat) (l : List (LoftObj × Nat × List Byte))
    (s : State) : State :=
  let n := s.loft.nextItem
  pump (modLoft (fun x => { x with
    nextItem := n + 1
    d0 := x.d0 ++ [{ num := n, kind := kind, company := company, scene := scene, set := set, size := size }]
    feet := x.feet ++ l.map fun p => { obj := p.1, item := n, chan := p.2.1, off := 0, data := p.2.2 } }) s)

/-- Every footprint of an item is programmed, and every stripe that holds one has its parity unit programmed (R262). -/
def itemDone (s : State) (n : Nat) : Bool :=
  !(s.loft.feet.any (·.item == n)) && s.loft.stripes.all fun p =>
    let here := p.2.units.filter fun u => u.spans.any (·.item == n)
    here.isEmpty || (p.2.closed && here.all (·.st == .done) && p.2.units.all fun u => !u.parity || (u.st == .done && !u.blocks.isEmpty))

/-- The index takes the copies of an item in place of older ones of the same data units, in one update (R298). -/
def switchHome (n : Nat) (s : State) : State :=
  let objs := s.loft.stripes.flatMap fun p => p.2.units.flatMap fun u => (u.spans.filter (·.item == n)).map (·.obj)
  let turn := fun (u : LUnit) => { u with
    spans := (u.spans.filter fun a => a.item == n || !(a.home && objs.contains a.obj)).map fun a =>
      if a.item == n then { a with home := true } else a }
  modLoft (fun l => { l with stripes := kmap l.stripes fun _ p => { p with units := p.units.map turn } }) s

/-- Copies of data units become stale, and footprints of them that wait are dropped (R268). -/
def dropData (gone : LoftObj → Nat → Bool) (s : State) : State :=
  modLoft (fun l => { l with
    feet := l.feet.filter fun f => !gone f.obj f.item
    stripes := kmap l.stripes fun _ p => { p with units := p.units.map fun u =>
      { u with spans := u.spans.filter fun a => !gone a.obj a.item } } }) s

/-- The D0 items of a scene or a set are given up. -/
def dropItems (which : D0Item → Bool) (s : State) : State :=
  let nums := (s.loft.d0.filter which).map (·.num)
  dropData (fun _ n => nums.contains n) (modLoft (fun l => { l with d0 := l.d0.filter fun x => !which x }) s)

/-- Stripes with no valid data are dropped once their programs are done (R293); blocks whose valid data has gone are erased, or
left when they are bad (R268, R279). A bad block is replaced once its data has gone (`retireBad`). -/
def dropStale (s : State) : State :=
  let s := modLoft (fun l => { l with
    stripes := l.stripes.filter fun p => !(p.2.closed && !stripeLive p.2 && p.2.units.all (·.st == .done))
    rebuilds := l.rebuilds.filter fun r => r.issued || ((kget l.stripes r.stripe).map stripeLive).getD false }) s
  s.loft.dies.foldl (fun s p =>
    let held := (unitsOn s p.1).flatMap fun q => q.2.2.blocks
    (p.2.blocks.filter fun q => q.2.moving && !q.2.bad && !held.contains q.1).foldl (fun s q =>
      modDie p.1 (fun x => if x.erases.contains q.1 then x else { x with erases := x.erases ++ [q.1] }) s) s) s

/-- Data of a scene in flight to the Loft or moving on it: a reference (R179). -/
def inFlight (s : State) (c : Nat) (id : SceneId) : Bool :=
  s.loft.d0.any fun x => x.company == c && x.scene == some id

/-! Relocation (R266, R279, R298). -/

/-- The data units with a copy that the index names in stripes that have a unit in the block: once it is erased those stripes could
not be rebuilt (notes/assumptions/47.md). -/
def dataNear (s : State) (d b : Nat) : List LoftObj :=
  let near := s.loft.stripes.filter fun p => p.2.units.any fun u => u.die == d && u.st == .done && u.blocks.contains b
  (near.flatMap fun p => p.2.units.flatMap fun u => (u.spans.filter (·.home)).map (·.obj)).eraseDups

/-- A data unit is already being written anew. -/
def beingMoved (s : State) (o : LoftObj) : Bool :=
  s.loft.feet.any (fun f => f.obj == o)
  || s.loft.stripes.any fun p => p.2.units.any fun u => u.spans.any fun a => a.obj == o && !a.home

/-- The channel of R229 for a page; the pages of a weight set go round the channels by layer and chunk (notes/assumptions/46.md). -/
def channelOf : LoftObj → Nat
  | .page _ id l => (id.toNat % 32 + l) % 32
  | .chunk _ _ l k => (l + k) % 32

/-- Bytes of a data unit on the medium. -/
def sizeOn (s : State) (o : LoftObj) : Nat :=
  ((placesOf s o).flatMap fun q => (q.2.2.spans.filter fun a => a.obj == o && a.home).map (·.len)).sum

/-- A relocated data unit: its ciphertext goes back to its channel unchanged (R785). -/
def movedFoot (s : State) (o : LoftObj) : LoftObj × Nat × List Byte := (o, channelOf o, cipherOf s o (sizeOn s o))

/-- The scene or weight set that a data unit belongs to. -/
def ownerOf : LoftObj → Nat × Option SceneId × Nat
  | .page c id _ => (c, some id, 0)
  | .chunk c n _ _ => (c, none, n)

/-- The data that hangs on a block goes elsewhere, one D0 item for each scene and weight set (R266, R298). -/
def moveData (d b : Nat) (s : State) : State :=
  let objs := (dataNear s d b).filter fun o => !beingMoved s o
  (objs.map ownerOf).eraseDups.foldl (fun s w =>
    let mine := objs.filter fun o => ownerOf o == w
    startItem .move w.1 w.2.1 w.2.2 0 (mine.map (movedFoot s)) s) s

/-- Queue the relocation of a block's valid data (R266, R297). -/
def relocate (d b : Nat) (s : State) : State :=
  if (blk (die s d) b).moving then s else
  let s := modDie d (fun x => { x with
    open_ := if x.open_.contains b then [] else x.open_, blocks := kmodD x.blocks b Blk.fresh fun y => { y with moving := true } }) s
  dropStale (moveData d b s)

end Sys2Proof.Machine
end

