-- ==== Sys2Proof/Machine/StoreOps.lean ====
section
/-!
DEFINITION. The store that the House core keeps: page layouts (R155 to R160), scenes, their references and removal
(R179 to R185), what each tier charges and how room is made (R231 to R235), and sealing (R38, R170, R171, R221).
-/
namespace Sys2Proof.Machine
open Sys2Proof

/-! Page layout. -/

/-- The size of an element in half-bytes (R155). -/
def elemHalves (kv : Nat) : Nat := if kv ≤ 1 then 4 else if kv ≤ 4 then 2 else 1

def dataBytes (m : Model) : Nat := 16 * m.heads * m.dim * elemHalves m.kvType
def scaleBytes (m : Model) : Nat :=
  if m.kvType ≤ 1 then 0 else if m.kvType ≤ 4 then 16 * m.heads else 4 * m.heads * m.dim
/-- The page footprint F (R156). -/
def footprint (m : Model) : Nat := roundUp (dataBytes m + scaleBytes m) 64
def sceneBytes (m : Model) : Nat := m.layers * footprint m

def modelOf (s : State) (k : Nat) : Option Model := kget s.store.models k
def modelD (s : State) (k : Nat) : Model :=
  (modelOf s k).getD { fingerprint := 0, layers := 0, heads := 0, dim := 0, kvType := 0, company := 0, retiring := false }

/-- Bytes of one (cache, head, position) vector, and its place in BY_HEAD or BY_POSITION order (R157). -/
def vecBytes (m : Model) : Nat := m.dim * elemHalves m.kvType / 2
def vecIndex (m : Model) (byPos : Bool) (h c p : Nat) : Nat :=
  if byPos then (p * m.heads + h) * 2 + c else (h * 2 + c) * 16 + p
/-- Bytes of the INT4 scales of one vector (R159). -/
def vecScaleBytes (m : Model) : Nat := if m.kvType == 5 then m.dim / 16 * 2 else 0

def vecOf (m : Model) (page : List Byte) (byPos : Bool) (h c p : Nat) : List Byte :=
  slice page (vecIndex m byPos h c p * vecBytes m) (vecBytes m)
def vecScalesOf (m : Model) (page : List Byte) (byPos : Bool) (h c p : Nat) : List Byte :=
  slice page (dataBytes m + vecIndex m byPos h c p * vecScaleBytes m) (vecScaleBytes m)

/-- Every (head, cache, position) in the order of a layout. -/
def vecOrder (m : Model) (byPos : Bool) : List (Nat × Nat × Nat) :=
  if byPos then
    (upto 16).flatMap fun p => (upto m.heads).flatMap fun h => (upto 2).map fun c => (h, c, p)
  else
    (upto m.heads).flatMap fun h => (upto 2).flatMap fun c => (upto 16).map fun p => (h, c, p)

/-- A page image in the other layout: the data, then the INT4 scales, in the vector order wanted; the per-head records
keep their order (R158, R159). -/
def convertPage (m : Model) (page : List Byte) (fromPos toPos : Bool) : List Byte :=
  if fromPos == toPos then page else
  let order := vecOrder m toPos
  let data := order.flatMap fun (h, c, p) => vecOf m page fromPos h c p
  let scales := if m.kvType == 5 then order.flatMap fun (h, c, p) => vecScalesOf m page fromPos h c p
                else slice page (dataBytes m) (scaleBytes m)
  slice (data ++ scales) 0 (footprint m)

/-- Take position p of a BY_HEAD image into a page; the per-head scale records come with position 0 (R608, R609). -/
def putPosition (m : Model) (page image : List Byte) (p : Nat) : List Byte :=
  let base := (upto m.heads).foldl (fun pg h => (upto 2).foldl (fun pg c =>
    let pg := splice pg (vecIndex m false h c p * vecBytes m) (vecOf m image false h c p)
    if m.kvType == 5 then
      splice pg (dataBytes m + vecIndex m false h c p * vecScaleBytes m) (vecScalesOf m image false h c p)
    else pg) pg) page
  if p == 0 && 2 ≤ m.kvType && m.kvType ≤ 4 then splice base (dataBytes m) (slice image (dataBytes m) (scaleBytes m))
  else base

/-! Scenes. -/

def findScene (s : State) (c : Nat) (id : SceneId) : Option Scene :=
  s.store.scenes.find? fun x => x.company == c && x.id == id

def modScene (c : Nat) (id : SceneId) (f : Scene → Scene) (s : State) : State :=
  modStore (fun st => { st with scenes := st.scenes.map fun x => if x.company == c && x.id == id then f x else x }) s

def allTrue (l : List Bool) : Bool := l.all id
def countTrue (l : List Bool) : Nat := (l.filter id).length
def pagesOf (n : Nat) (b : Bool) : List Bool := List.replicate n b

/-- A command holds a reference on a scene: it reads it, or its host arrays are still to be read and may name a stream that held it
at intake (R43, R179; notes/assumptions/103.md). -/
def refersTo (t : Taken) (c : Nat) (id : SceneId) : Bool :=
  t.company == c && (t.reads.contains id || (!t.fetched && t.chains.any fun p => p.2.contains id))

/-- References of a scene (R179): open streams, pins, commands that read it, write-back or relocation in flight. -/
def refCount (s : State) (x : Scene) : Nat :=
  (s.store.streams.filter fun p => p.2.company == x.company && p.2.chain.contains x.id).length
  + x.pins
  + (s.taken.filter fun t => refersTo t x.company x.id).length
  + b2n (inFlight s x.company x.id)
  + (s.store.lingering.filter fun g => g.company == x.company && g.scenes.contains x.id).length

/-- Children of a scene (R180). -/
def childCount (s : State) (x : Scene) : Nat :=
  (s.store.scenes.filter fun y => y.company == x.company && y.parent == x.id).length

/-- Removable: no reference and no child (R181). -/
def removable (s : State) (x : Scene) : Bool := refCount s x == 0 && childCount s x == 0

/-- Removal prefers the oldest last use, then the greater depth (R182). -/
def removeBefore (x y : Scene) : Bool := decide (x.lastUse < y.lastUse) || (x.lastUse == y.lastUse && decide (y.depth < x.depth))

/-- The first of a list by an order; of several that the order does not part, the one that stands first in the index: no rule says which of two
scenes of equal last use and depth goes first (R182; DESIGN CHOICE, notes/assumptions/122.md). -/
def pickFirst (before : Scene → Scene → Bool) : List Scene → Option Scene
  | [] => none
  | x :: r => match pickFirst before r with
    | none => some x
    | some y => if before y x then some y else some x

/-- An index change of a scene reaches all 16 Usher units (R338). -/
def invalidate (c : Nat) (id : SceneId) (s : State) : State :=
  { s with ulb := s.ulb.map fun p => (p.1, p.2.filter fun e => !(e.company == c && e.scene == id))
           perf2 := { s.perf2 with ulbInval := satInc s.perf2.ulbInval } }

/-- A data unit of the scene. -/
def pageOfScene (c : Nat) (id : SceneId) : LoftObj → Bool
  | .page k i _ => k == c && i == id
  | .chunk _ _ _ _ => false

/-- The copies of a scene's pages in Stage working area, and its sketch record as read from the Loft, are gone. -/
def dropWorking (c : Nat) (id : SceneId) (s : State) : State :=
  modWork (fun w => { w with
    records := w.records.filter (· != (c, id))
    working := w.working.filter fun p => match p.2 with
      | .scene i _ => !(p.1 == c && i == id)
      | .weights _ _ => true }) s

/-- Remove a scene from the index and every tier, its footprints in the Loft turning stale; a removal record follows when it had a
Loft copy (R184, R268). -/
def removeScene (c : Nat) (id : SceneId) (s : State) : State :=
  match findScene s c id with
  | none => s
  | some x =>
    let s := modStore (fun st => { st with
      scenes := st.scenes.filter fun y => !(y.company == c && y.id == id)
      maps := st.maps.filter fun m => !(m.company == c && m.what == .scene id) }) s
    let s := dropWorking c id (modLoft (fun l => { l with wbQueue := l.wbQueue.filter (· != (c, id)) }) s)
    let s := dropStale (dropData (fun o _ => pageOfScene c id o) s)
    let s := invalidate c id s
    if x.recorded || allTrue x.loft then formRecord (.sceneRemove c id) none s else s

/-! Charges (R231). -/

def weightBytes (w : Weights) : Nat := (w.layers.map (·.length)).sum
/-- Bytes of the layers of which a tier holds a copy. -/
def bytesIn (w : Weights) (has : List Bool) : Nat :=
  ((upto w.layers.length).map fun l => if has.getD l false then (w.layers.getD l []).length else 0).sum
/-- The set that a company's name stands for. -/
def findWeights (s : State) (c name : Nat) : Option Weights :=
  s.store.weights.find? fun w => w.company == c && w.name == name && !w.pending && !w.old
/-- A set by its number. -/
def findSet (s : State) (n : Nat) : Option Weights := s.store.weights.find? (·.setNum == n)
def footOf (s : State) (x : Scene) : Nat := footprint (modelD s x.model)

def tailAlloc (s : State) (t : Stream) : Nat := if t.tailCount == 0 then 0 else sceneBytes (modelD s t.model)

/-- Bytes of a page: a footprint, or a layer of a weight set. -/
def refBytes (s : State) (c : Nat) : PageRef → Nat
  | .scene id _ => ((findScene s c id).map (footOf s)).getD 0
  | .weights n l => ((findSet s n).map fun w => (w.layers.getD l []).length).getD 0

/-- Pages of a company being copied up into Stage or Wings. -/
def stagingBytes (s : State) (c : Nat) (stage : Bool) : Nat :=
  ((s.work.staging.filter fun g => g.company == c && g.stage == stage && g.allocated).map fun g => refBytes s c g.what).sum

def ofCompany (s : State) (c : Nat) : List Scene := s.store.scenes.filter (·.company == c)

def stageHeld (s : State) (c : Nat) : Nat :=
  ((ofCompany s c).map fun x => countTrue x.stage * footOf s x).sum
  + ((s.store.weights.filter fun w => w.company == c).map fun w => bytesIn w w.stage).sum
  + ((s.store.streams.filter fun p => p.2.company == c && p.2.tailStage).map fun p => tailAlloc s p.2).sum
  + ((s.store.scratch.filter fun p => p.2.company == c && p.2.stage).map (·.2.size)).sum
  + stagingBytes s c true

def chainMapBytes : Nat := 32768
def overflowBytes : Nat := 4194304

def wingsHeld (s : State) (c : Nat) : Nat :=
  ((ofCompany s c).map fun x => countTrue x.wings * footOf s x).sum
  + ((s.store.weights.filter fun w => w.company == c).map fun w => bytesIn w w.wings).sum
  + ((s.store.streams.filter fun p => p.2.company == c).map fun p => tailAlloc s p.2 + chainMapBytes).sum
  + ((s.store.scratch.filter fun p => p.2.company == c && !p.2.stage).map (·.2.size)).sum
  + stagingBytes s c false
  + (if c == 0 then 0 else (s.queues.filter fun p => p.1 != 0 && p.2.company == c).length * overflowBytes)

/-- The Loft copy of a scene is charged from the start of its write-back, that of a weight set from its load on (R221, R231). -/
def hasLoftRoom (s : State) (x : Scene) : Bool := x.loft.any id || inFlight s x.company x.id

def loftHeld (s : State) (c : Nat) : Nat :=
  ((ofCompany s c).map fun x => if hasLoftRoom s x then sceneBytes (modelD s x.model) else 0).sum
  + ((s.store.weights.filter fun w => w.company == c).map weightBytes).sum

def openStreams (s : State) (c : Nat) : Nat := (s.store.streams.filter fun p => p.2.company == c).length

def held (s : State) (t : Tier) (c : Nat) : Nat :=
  match t with
  | .stage => stageHeld s c
  | .wings => wingsHeld s c
  | .loft => loftHeld s c

def reserved (s : State) (t : Tier) (c : Nat) : Nat :=
  match companyOf s c, t with
  | none, _ => 0
  | some k, .stage => k.stageRes
  | some k, .wings => k.wingsRes
  | some k, .loft => k.loftRes

def room (s : State) (t : Tier) (c : Nat) : Nat := reserved s t c - held s t c

/-- Company and device-wide sums that IDENTIFY and ADMIT use (R21, R231). -/
def admittable : Tier → Nat
  | .stage => 251658240
  | .wings => 266287972352
  | .loft => 105553116266496

def sumReserved (s : State) (t : Tier) : Nat := (s.store.companies.map fun p => reserved s t p.1).sum
def sumStreams (s : State) : Nat := (s.store.companies.map fun p => p.2.streamRes).sum
def streamLimit : Nat := 4194304

/-- u of R371: the sum of all Stage reservations divided by 160, rounded up to a multiple of 4,096. -/
def sliceReserved (s : State) : Nat := roundUp ((sumReserved s .stage + 159) / 160) 4096
/-- W of R433, B of R371. -/
def stageBudget (s : State) : Nat := 1572864 - sliceReserved s

/-- The scene is placed in a tier: by a PLACE of its own, or of an open stream that covers it (R225). -/
def placedIn (s : State) (t : Tier) (x : Scene) : Bool :=
  x.placed == some t || s.store.streams.any fun p =>
    p.2.company == x.company && p.2.placed == some t && p.2.placedOn.contains x.id

/-- A device-made copy of a scene in Stage or Wings that has a copy in a lower tier (R222, R226, R232). -/
def droppable (s : State) (t : Tier) (x : Scene) : Bool :=
  match t with
  | .stage => x.stage.any id && !placedIn s .stage x && (allTrue x.wings || allTrue x.loft)
  | .wings => x.wings.any id && !placedIn s .wings x && allTrue x.loft
  | .loft => false

def dropCopy (t : Tier) (c : Nat) (id : SceneId) (s : State) : State :=
  invalidate c id (modScene c id (fun x =>
    match t with
    | .stage => { x with stage := x.stage.map fun _ => false }
    | .wings => { x with wings := x.wings.map fun _ => false }
    | .loft => x) s)

def droppableWeights (t : Tier) (w : Weights) : Bool :=
  !w.pending && !w.old &&
  match t with
  | .stage => w.stage.any id && w.placed != some .stage && (allTrue w.wings || allTrue w.loft)
  | .wings => w.wings.any id && w.placed != some .wings && allTrue w.loft
  | .loft => false

def modSet (n : Nat) (f : Weights → Weights) (s : State) : State :=
  modStore (fun st => { st with weights := st.weights.map fun w => if w.setNum == n then f w else w }) s

def dropWeights (t : Tier) (n : Nat) (s : State) : State :=
  modSet n (fun w =>
    match t with
    | .stage => { w with stage := w.stage.map fun _ => false }
    | .wings => { w with wings := w.wings.map fun _ => false }
    | .loft => w) s

/-- A mapping shows this object: its own, or one of a stream whose view holds the scene (R213, R214). -/
def shows (s : State) (m : Mapping) (v : Viewed) : Bool :=
  m.what == v ||
  match m.what, v with
  | .stream h n, .scene id => (((kget s.store.streams h).map (·.chain)).getD []).take n |>.contains id
  | _, _ => false

/-- In SPLIT visibility the mapped copy is neither moved nor dropped (R212). -/
def keptByMap (s : State) (t : Tier) (c : Nat) (v : Viewed) : Bool :=
  ((companyOf s c).map (·.split)).getD false &&
  s.store.maps.any fun m => m.company == c && m.stage == (t == .stage) && shows s m v

/-- The next thing that room-making drops: the oldest device-made copy of a scene, then of a weight set (R232, step 2).
Copies of the scenes in `keep` stay. -/
def nextDrop (s : State) (t : Tier) (c : Nat) (keep : List SceneId) : Option State :=
  match pickFirst removeBefore ((ofCompany s c).filter fun x =>
      droppable s t x && !keep.contains x.id && !keptByMap s t c (.scene x.id)) with
  | some x => some (dropCopy t c x.id s)
  | none =>
    match s.store.weights.find? fun w => w.company == c && droppableWeights t w && !keptByMap s t c (.weights w.name) with
    | some w => some (dropWeights t w.setNum s)
    | none => none

/-- Drop copies until there is enough, or none is left to drop. -/
def dropN (t : Tier) (c : Nat) (keep : List SceneId) (enough : State → Bool) : Nat → State → State
  | 0, s => s
  | k + 1, s =>
    if enough s then s else
    match nextDrop s t c keep with
    | some s' => dropN t c keep enough k s'
    | none => s

/-- The next scene that room-making removes (R232, step 3); in read-only mode never one with a Loft copy (R283). -/
def nextRemove (s : State) (c : Nat) (keep : List SceneId) : Option Scene :=
  pickFirst removeBefore ((ofCompany s c).filter fun x =>
    removable s x && !keep.contains x.id && !(s.dev.roMode && allTrue x.loft))

/-- The removable scenes counted until there is enough, the last one first; none when there is never enough. -/
def countRemovals (c : Nat) (keep : List SceneId) (enough : State → Bool) :
    Nat → List SceneId → State → Option (List SceneId)
  | 0, l, s => if enough s then some l else none
  | k + 1, l, s =>
    if enough s then some l else
    match nextRemove s c keep with
    | some x => countRemovals c keep enough k (x.id :: l) (removeScene c x.id s)
    | none => none

/-- A scene is charged to the tier, so that its removal gives room there. -/
def chargedIn (t : Tier) (x : Scene) : Bool :=
  match t with
  | .stage => x.stage.any id
  | .wings => x.wings.any id
  | .loft => x.loft.any id

/-- Of the scenes counted, those that room-making removes, the first one first: those that give room in the tier, and those
that must go before them, their descendants ("exactly what it needs"; R181, R232). -/
def neededRemovals (s : State) (t : Tier) (c : Nat) : List SceneId → List SceneId → List SceneId
  | [], need => need
  | i :: r, need =>
    match findScene s c i with
    | some x => if chargedIn t x || need.contains x.parent then neededRemovals s t c r (i :: need)
                else neededRemovals s t c r need
    | none => neededRemovals s t c r need

/-- Make room in a tier for a company until there is enough; none when the room counted is less (R232). -/
def makeRoomBy (t : Tier) (c : Nat) (keep : List SceneId) (removals : Bool) (enough : State → Bool) (s : State) :
    Option State :=
  let s := dropN t c keep enough (s.store.scenes.length + s.store.weights.length) s
  if enough s then some s
  else if !removals then none
  else match countRemovals c keep enough s.store.scenes.length [] s with
    | none => none
    | some l =>
      let s := (neededRemovals s t c l []).foldl (fun s i => removeScene c i s) s
      if enough s then some s else none

/-- Room for n bytes that leaves the scenes in `keep` as they are. -/
def makeRoomBeside (keep : List SceneId) (t : Tier) (c n : Nat) (s : State) : Option State :=
  makeRoomBy t c keep true (fun s => decide (n ≤ room s t c)) s

/-- Room for n bytes (R232). -/
def makeRoom (t : Tier) (c n : Nat) (s : State) : Option State := makeRoomBeside [] t c n s

/-- Room for a copy made by staging, pre-staging or a UNIFIED fetch: steps 1 and 2 of R232 only; the scenes that the command it is
made for reads keep theirs (R234; notes/assumptions/103.md). -/
def roomForCopy (owner : Option Nat) (t : Tier) (c n : Nat) (s : State) : Option State :=
  let own := (s.taken.filter fun v => some v.seq == owner).flatMap (·.reads)
  makeRoomBy t c own false (fun s => decide (n ≤ room s t c)) s

/-- Box Office's check before a command: would room be made (R33)? -/
def roomCheck (t : Tier) (c n : Nat) (s : State) : Chk := if (makeRoom t c n s).isSome then none else some (status 0x301)

/-- A tier copy has become less. -/
def fewer (a b : List Bool) : Bool := (upto a.length).any fun l => a.getD l false && !b.getD l false

/-- A copy that a scene or weight set has in s and has lost in u. -/
def losesCopy (s u : State) (c : Nat) (i : SceneId) : Bool :=
  match findScene s c i, findScene u c i with
  | some x, some y => fewer x.stage y.stage || fewer x.wings y.wings
  | _, _ => false
def losesSet (s u : State) (n : Nat) : Bool :=
  match findSet s n, findSet u n with
  | some x, some y => fewer x.stage y.stage || fewer x.wings y.wings
  | _, _ => false

/-- Room-making from s to u would drop a copy that a command of company c taken in before intake number n is reading: the drop
waits, and the allocation that needs the room waits with it (R247). -/
def dropWaits (n c : Nat) (s u : State) : Bool :=
  s.taken.any fun v => decide (v.seq < n) && v.company == c && v.running &&
    (v.reads.any (losesCopy s u c) || v.sets.any (losesSet s u))

def roomWaits (t : Taken) (s u : State) : Bool := dropWaits t.seq t.company s u

/-- The same for a copy that is landing: for the device's own every command in flight was taken in earlier. -/
def copyWaits (owner : Option Nat) (c : Nat) (s u : State) : Bool := dropWaits (owner.getD s.nextSeq) c s u

/-- Copies in Stage working area that pre-staging made: they have the slices that no run and no allotment holds, and the oldest go first
(R223, R341; notes/assumptions/121.md). -/
def trimWorking (s : State) : State :=
  let busy := (s.clusters.filter fun p => p.2.run.isSome || p.2.st == 1).length
  let bound := (160 - busy) * stageBudget s
  let bytes := fun (l : List (Nat × PageRef)) => (l.map fun p => refBytes s p.1 p.2).sum
  let n := s.work.working.length
  let gone := ((upto (n + 1)).find? fun k => decide (bytes (s.work.working.drop k) ≤ bound)).getD n
  modWork (fun w => { w with working := w.working.drop gone }) s

/-- F_blk of R370. -/
def blockBytes (md : Model) (hpe : Nat) : Nat :=
  hpe * (16 * md.dim * elemHalves md.kvType + (if md.kvType ≤ 1 then 0 else if md.kvType ≤ 4 then 16 else 4 * md.dim))

/-- N_A of R370. -/
def allotNeed (md : Model) (hpe q qe : Nat) : Nat :=
  2 * blockBytes md hpe + hpe * q * (md.dim * qe + 4 * (md.dim + 3)) + 2048

/-- Working area that a cluster gives to an allotment of a command (R370, R373). -/
def memberNeed (s : State) (o : AttOp) : Nat :=
  let md := modelD s o.model
  let hpe := max 1 o.hpa
  let q := o.g * o.r
  let qe := if o.qType == 2 then 1 else 2
  if o.split then blockBytes md hpe + hpe * ((q + 1) / 2) * (md.dim * qe + 4 * (md.dim + 3)) + 2048
  else allotNeed md hpe q qe

/-- Stage bytes that all companies hold. -/
def stageUse (s : State) : Nat := (s.store.companies.map fun p => stageHeld s p.1).sum

/-- A Stage placement that leads from s to v would take working area that an ATTEND taken in earlier than t uses: it waits
for that command (R371, R391). -/
def stageWaits (t : Taken) (s v : State) : Bool :=
  decide (stageUse s < stageUse v) &&
  s.work.atts.any fun o => decide (o.seq < t.seq) &&
    decide (1572864 < memberNeed s o + roundUp ((stageUse v + 159) / 160) 4096)

/-- The state v that command t leads to from s by way of the room made in u, once neither an earlier command's read nor its
working area holds it up (R247, R391). -/
def onceRoom (t : Taken) (s u v : State) : State := if roomWaits t s u || stageWaits t s v then s else v

/-- Go on in the room made, or wait. -/
def inRoomMade (t : Taken) (s : State) (made : Option State) (go : State → State) : State :=
  match made with
  | none => go s
  | some u => onceRoom t s u (go u)

/-! Sealing. -/

def sceneLimit : Nat := 2 ^ 30

/-- Room in the index for one more scene: at the limit the removable scene of oldest last use on the device goes (R185). -/
def indexRoom (s : State) : Option State :=
  if s.store.scenes.length < sceneLimit then some s else
  match pickFirst removeBefore (s.store.scenes.filter (removable s)) with
  | some x => some (removeScene x.company x.id s)
  | none => none

/-- Queue a sealed scene for write-back (R221), but in read-only mode (R283). -/
def queueWriteBack (c : Nat) (id : SceneId) (s : State) : State :=
  if s.dev.roMode then s else modLoft (fun l => { l with wbQueue := l.wbQueue ++ [(c, id)] }) s

/-- A free slot of the index: the lowest number that no scene holds (R187). -/
def freeSlot (s : State) : Nat :=
  ((upto (s.store.scenes.length + 1)).find? fun k => !(s.store.scenes.any (·.slot == k))).getD 0

/-- A company's scene as sealed from a stream's tail; its copies are device-made (R233). -/
def sealedScene (s : State) (t : Stream) (id : SceneId) : Scene :=
  let l := (modelD s t.model).layers
  { company := t.company, id := id, parent := t.chain.getLast?.getD 0, model := t.model, depth := t.chain.length + 1,
    pages := t.tailPages, sketches := t.tailSketches, pins := 0, lastUse := now s,
    putAt := 0, stage := pagesOf l t.tailStage, wings := pagesOf l true, loft := pagesOf l false,
    placed := none, retired := false, sealSeq := s.store.seals, recorded := false, slot := freeSlot s }

def emptyTail (t : Stream) : Stream :=
  { t with tailCount := 0, tailFps := [], tailPages := [], tailSketches := [], tailPoison := [] }

/-- The tail of stream h holds a poisoned unit: a command that reads it completes with MEDIA_UNCORRECTABLE (R818). -/
def tailPoisoned (h : Nat) (s : State) : Bool := ((kget s.store.streams h).map fun t => !t.tailPoison.isEmpty).getD false

/-- Why the tail of stream h cannot be sealed: a poisoned unit (R818), or an index without room (R185; the zero results are DEDUCED,
notes/assumptions/80.md). -/
def sealStatus (h : Nat) (s : State) : Nat := if tailPoisoned h s then 0x501 else 0x302

/-- Seal the full tail of stream h: reference the scene that has its ID, or make it and queue its write-back; none when
a unit of the tail is poisoned or the index has no room (R38, R171, R182, R185, R194, R221, R288, R818). -/
def sealTailOf (h : Nat) (s : State) : Option (SceneId × State) :=
  match kget s.store.streams h with
  | none => none
  | some t =>
    if tailPoisoned h s then none else
    let salt := ((companyOf s t.company).map (·.salt)).getD 0
    let id := sceneId salt (t.chain.getLast?.getD 0) (modelD s t.model).fingerprint t.tailFps
    let next := fun s => modStream h (fun t => { emptyTail t with chain := t.chain ++ [id] }) s
    match findScene s t.company id with
    | some x =>
      -- a duplicate: a retired scene takes the new pages as its content (R288)
      let s1 := modScene t.company id (fun y =>
        if y.retired then { sealedScene s t id with
            pins := y.pins, parent := y.parent, depth := y.depth, slot := y.slot, recorded := y.recorded, placed := y.placed }
        else { y with lastUse := now s }) s
      let s2 := if x.retired then
          modStore (fun st => { st with seals := st.seals + 1 })
            (queueWriteBack t.company id (dropWorking t.company id (dropStale (dropData (fun o _ => pageOfScene t.company id o) s1))))
        else s1
      some (id, next s2)
    | none =>
      match indexRoom s with
      | none => none
      | some s =>
        let s1 := modStore (fun st => { st with scenes := st.scenes ++ [sealedScene s t id], seals := st.seals + 1 }) s
        some (id, next (queueWriteBack t.company id s1))

/-- A tail page of zeros; a new tail's pages and sketches. -/
def blankPages (m : Model) : List (List Byte) := List.replicate m.layers (List.replicate (footprint m) 0)
def blankSketches (m : Model) : List (List Byte) := List.replicate m.layers (List.replicate 32 0)

/-- Position p writes every byte of 64-byte unit u of a page. -/
def writesUnit (m : Model) (image : List Byte) (p u : Nat) : Bool :=
  let laid := fun (b : Byte) => slice (putPosition m (List.replicate (footprint m) b) image p) (64 * u) 64
  laid 0 == laid 255

/-- Write one position into a stream's tail: its fingerprint, and its part of each layer's page image; a poisoned unit that it
writes in whole is poisoned no more (R168, R608, R818). -/
def putTail (h : Nat) (m : Model) (fp : Word64) (image : Nat → List Byte) (sketch : Nat → Option (List Byte)) (s : State) :
    State :=
  modStream h (fun t =>
    let pages := if t.tailCount == 0 then blankPages m else t.tailPages
    let sks := if t.tailCount == 0 then blankSketches m else t.tailSketches
    { t with
      tailCount := t.tailCount + 1
      tailFps := t.tailFps ++ [fp]
      tailPages := (upto m.layers).map fun l => putPosition m (pages.getD l []) (image l) t.tailCount
      tailPoison := if t.tailCount == 0 then [] else t.tailPoison.filter fun q => !writesUnit m (image q.1) t.tailCount q.2
      tailSketches := (upto m.layers).map fun l => (sketch l).getD (sks.getD l []) }) s

/-- The length of a stream (R27, R36). -/
def streamLength (t : Stream) : Nat := 16 * t.chain.length + t.tailCount

/-- An open stream of the company (R35, R585). -/
def openStream (s : State) (c h : Nat) : Option Stream := (kget s.store.streams h).filter fun t => t.company == c

/-- A stream that a command names, open when the command was taken in (R355, R357). -/
def streamAt (t : Taken) (s : State) (h : Nat) : Option Stream :=
  if khas t.chains h then openStream s t.company h else none

/-- A model number registered to the company and not retiring. -/
def openModel (s : State) (c k : Nat) : Option Model := (modelOf s k).filter fun m => m.company == c && !m.retiring

/-- Give a command references on the scenes it reads (R179). -/
def takeReads (seq : Nat) (ids : List SceneId) (s : State) : State :=
  { s with taken := s.taken.map fun t => if t.seq == seq then { t with reads := ids } else t }

end Sys2Proof.Machine
end

