-- ==== Sys2Proof/Machine/Admin.lean ====
section
/-!
DEFINITION. Administration commands of 13_commands_store.md: NOP, IDENTIFY, GET_LOG, SET_FEATURE, GET_FEATURE (R587 to
R596, R340, R414 to R418, R698, R717), and HEALTH and QUIESCE of 14_commands_motion.md (R658 to R660).
-/
namespace Sys2Proof.Machine
open Sys2Proof

/-- CRC-32 with the IEEE 802.3 polynomial, one bit at a time. -/
def crcBits : Nat → Word32 → Word32
  | 0, c => c
  | n + 1, c => crcBits n (if c.getLsbD 0 then (c >>> 1) ^^^ 0xEDB88320 else c >>> 1)

def crc32 (l : List Byte) : Word32 :=
  (l.foldl (fun c b => crcBits 8 (c ^^^ b.zeroExtend 32)) (0xFFFFFFFF : Word32)) ^^^ 0xFFFFFFFF

def modelCount (s : State) : Nat := s.store.models.length

/-! NOP. -/

/-- The checks of Nop, in their order (R583). -/
def nopChecks (t : Taken) (s : State) : List Chk :=
  [generalCheck t s, badFields (reservedBad t [0]), opcodeCheck t s]

/-- NOP completes with OK and zero results (R587). -/
def execNop (r : CmdRef) (s : State) : Res :=
  runRow 0x01 r s fun t s =>
    checked t (nopChecks t s) s (finish t okay)

/-! IDENTIFY. -/

/-- Device ID, and the steppings as CAP_ID has them (R844). -/
def capId (s : State) : Word32 :=
  if s.fuses.loaded then
    BitVec.ofNat 32 (s.fuses.baseStep.toNat * 2 ^ 24 + s.fuses.metalStep.toNat * 2 ^ 16 + 0x0160)
  else 0x0160

def fwImage (s : State) (k : Nat) : List (Nat × Byte) := (kgetD s.fw k FwSlot.fresh).image

/-- Device structure (cns 0); the second form is what a company other than 0 sees (R588, R589, R590). -/
def identifyDevice (s : State) (owner boot : Bool) : List Byte :=
  let head := leBytes 2 0x0160 ++ leBytes 2 ((capId s).toNat / 65536) ++ leBytes 4 (capUnits s)
    ++ leBytes 1 (b2n s.store.tenancy) ++ leBytes 1 (s.store.companies.length - 1) ++ leBytes 1 (modelCount s)
    ++ leBytes 1 s.dev.fwSlot.toNat
  if boot then slice head 0 4096 else
  let unres := fun t => admittable t - sumReserved s t
  let mid := leBytes 2 0x1F3A ++ leBytes 2 0 ++ leBytes 8 (Config.fwVersion (fwImage s 0)).toNat
    ++ leBytes 8 (Config.fwVersion (fwImage s 1)).toNat
    ++ leBytes 8 (admittable .stage) ++ leBytes 8 (admittable .wings) ++ leBytes 8 (admittable .loft)
  let own := if owner then
      leBytes 8 (unres .stage) ++ leBytes 8 (unres .wings) ++ leBytes 8 (unres .loft)
      ++ leBytes 4 (streamLimit - sumStreams s) ++ leBytes 4 streamLimit ++ leBytes 8 s.store.scenes.length
    else leBytes 40 0
  slice (head ++ mid ++ own ++ leBytes 2 (freeUs s) ++ leBytes 2 4096) 0 4096

/-- Company structure (cns 1). -/
def identifyCompany (s : State) (c : Nat) : List Byte :=
  let k := (companyOf s c).getD Company.fresh
  slice (leBytes 1 c ++ leBytes 1 (b2n k.split) ++ leBytes 2 0 ++ leBytes 4 k.epoch.toNat
    ++ leBytes 8 k.stageRes ++ leBytes 8 k.wingsRes ++ leBytes 8 k.loftRes ++ leBytes 8 k.unified
    ++ leBytes 4 k.streamRes ++ leBytes 4 (openStreams s c)
    ++ leBytes 8 (stageHeld s c) ++ leBytes 8 (wingsHeld s c) ++ leBytes 8 (loftHeld s c)
    ++ leBytes 8 (ofCompany s c).length
    ++ leBytes 8 ((s.store.models.filter fun p => p.2.company == c).map fun p => 2 ^ p.1).sum) 0 4096

/-- Model record k (cns 2). -/
def identifyModel (s : State) (see : Nat → Bool) (k : Nat) : List Byte :=
  match modelOf s k with
  | none => leBytes 64 0
  | some m =>
    if !see m.company then leBytes 64 0 else
    slice (leBytes 8 m.fingerprint.toNat ++ leBytes 1 m.layers ++ leBytes 1 m.heads ++ leBytes 2 m.dim
      ++ leBytes 1 m.kvType ++ leBytes 1 m.company ++ leBytes 1 (if m.retiring then 2 else 1) ++ leBytes 1 0
      ++ leBytes 4 (footprint m) ++ leBytes 8 (s.store.scenes.filter fun x => x.model == k).length) 0 64

/-- Stream structure (cns 3). -/
def identifyStream (h : Nat) (t : Stream) : List Byte :=
  slice (leBytes 4 h ++ leBytes 1 t.model ++ leBytes 1 (if t.translate == 2 then 2 else 1) ++ leBytes 1 (b2n t.tailStage)
    ++ leBytes 1 0 ++ leBytes 4 (streamLength t) ++ leBytes 4 t.chain.length
    ++ leBytes 16 (t.chain.getLast?.getD 0).toNat) 0 4096

/-- The checks of Identify, in their order (R583). -/
def identifyChecks (t : Taken) (s : State) : List Chk :=
  let cns := fld (word t 0) 63 48
  let buf := (word t 1).toNat
  let h := fld (word t 2) 31 0
  let strm := openStream s t.company h
  [generalCheck t s,
    badFields (reservedBad t [bits 63 48, bits 63 0, bits 31 0] ++
      bads [(3 < cns, 48, 0), (buf % 64 != 0 || wraps buf 4096, 64, 0),
       (cns == 1 && (companyOf s t.company).isNone, 10, 0), (cns == 3 && strm.isNone, 128, 0)]),
    opcodeCheck t s, checkRegions t s [hostRegion t s 2 buf 4096 64]]

/-- IDENTIFY (R588 to R590). On the admin queue a stream handle of any company may be named for that company. -/
def execIdentify (r : CmdRef) (s : State) : Res :=
  runRow 0x02 r s fun t s =>
    let cns := fld (word t 0) 63 48
    let buf := (word t 1).toNat
    let h := fld (word t 2) 31 0
    let strm := openStream s t.company h
    let owner := t.queue == 0 || t.company == 0
    checked t (identifyChecks t s) s fun s =>
      let body :=
        if cns == 0 then identifyDevice s owner (s.dev.fwSlot == 3)
        else if cns == 1 then identifyCompany s t.company
        else if cns == 2 then (upto 64).flatMap fun k => identifyModel s (fun c => owner || c == t.company) k
        else match strm with
          | some x => identifyStream h x
          | none => leBytes 4096 0
      finish t (okWith (w64 (capUnits s)) 0 0) (toHost t buf body s)

/-! GET_LOG. -/

def errRecBytes (e : ErrRec) : List Byte :=
  leBytes 8 e.time.toNat ++ leBytes 2 e.queue ++ leBytes 2 e.tag ++ leBytes 1 e.opcode ++ leBytes 1 e.company
  ++ leBytes 2 e.status ++ leBytes 8 e.r0.toNat ++ leBytes 8 e.r1.toNat ++ leBytes 8 e.r2.toNat
  ++ leBytes 8 e.w1.toNat ++ leBytes 8 e.w2.toNat ++ leBytes 8 e.w3.toNat

/-- Log 0x02: a 64-byte header and the repair records (R825). -/
def healthLogBytes (s : State) : List Byte :=
  let h := s.health
  slice (leBytes 8 h.stateAt ++ leBytes 4 h.cause.toNat ++ leBytes 1 (healthState s).toNat ++ leBytes 1 (freeUs s)
    ++ leBytes 1 h.deadLinks.length ++ leBytes 1 0 ++ leBytes 4 s.loft.spareLeft.toNat
    ++ leBytes 2 s.loft.failedDies.toNat ++ leBytes 2 s.loft.pctUsed.toNat ++ h.pprLeft
    ++ leBytes 2 h.wingsRsv.toNat ++ leBytes 2 h.log.length) 0 64
  ++ h.log.flatMap fun r => slice (leBytes 8 r.life ++ leBytes 1 r.kind ++ leBytes 1 r.outcome ++ leBytes 6 0
      ++ leBytes 8 r.target ++ leBytes 8 r.repl) 0 32

/-- Log 0x03: one record for each die (R826). -/
def loftLogBytes (s : State) : List Byte :=
  (upto 1024).flatMap fun d =>
    let x := die s d
    slice (leBytes 2 d ++ leBytes 1 (dieState s d) ++ leBytes 1 x.spares ++ leBytes 2 (peMean x) ++ leBytes 2 (peMost x)
      ++ leBytes 2 x.badBlocks ++ leBytes 2 (headroom s d) ++ leBytes 8 x.failedAt) 0 32

/-- Log 0x04: the firmware slot records (R592). -/
def fwLogBytes (s : State) : List Byte :=
  (upto 2).flatMap fun k =>
    let x := kgetD s.fw k FwSlot.fresh
    slice (leBytes 8 (Config.fwVersion x.image).toNat ++ leBytes 4 (Config.fwSecVer x.image) ++ leBytes 1 x.state
      ++ leBytes 1 (if b2n s.flash.activeSlot == k then 1 else 0) ++ leBytes 2 0 ++ leBytes 48 x.measure.toNat) 0 128

/-- Log 0x05: the event records (R853). -/
def evtLogBytes (s : State) : List Byte :=
  s.evt.log.flatMap fun e => leBytes 8 e.time.toNat ++ leBytes 1 e.e ++ leBytes 1 e.company.toNat ++ leBytes 6 0
    ++ leBytes 8 e.d0.toNat ++ leBytes 8 e.d1.toNat

def logBytes (s : State) (owner : Bool) (c log : Nat) : List Byte :=
  if log == 1 then (s.errLog.filter fun e => owner || e.company == c).flatMap errRecBytes
  else if log == 2 then healthLogBytes s
  else if log == 3 then loftLogBytes s
  else if log == 4 then fwLogBytes s
  else evtLogBytes s

/-- The checks of GetLog, in their order (R583). -/
def getLogChecks (t : Taken) (s : State) : List Chk :=
  let log := fld (word t 0) 63 48
  let buf := (word t 1).toNat
  let len := fld (word t 2) 31 0
  let off := (word t 3).toNat
  let owner := t.queue == 0 || t.company == 0
  [generalCheck t s,
    (if s.dev.fwSlot == 3 && (log == 3 || log == 5) then some (status 0x303) else none),
    badFields (reservedBad t [bits 63 48, bits 63 0, bits 31 0, bits 63 0] ++
      bads [(log == 0 || 5 < log || (!owner && 3 ≤ log), 48, 0), (buf % 64 != 0 || wraps buf len, 64, 0),
       (len % 64 != 0 || len < 64 || 1048576 < len, 128, 0), (off % 64 != 0, 192, 0)]),
    opcodeCheck t s, checkRegions t s [hostRegion t s 2 buf len 64]]

/-- GET_LOG (R591, R592, R622). -/
def execGetLog (r : CmdRef) (s : State) : Res :=
  runRow 0x03 r s fun t s =>
    let log := fld (word t 0) 63 48
    let buf := (word t 1).toNat
    let len := fld (word t 2) 31 0
    let off := (word t 3).toNat
    let owner := t.queue == 0 || t.company == 0
    checked t (getLogChecks t s) s fun s =>
      let all := logBytes s owner t.company log
      finish t (okWith (w64 (min len (all.length - off))) (w64 all.length) 0) (toHost t buf (slice all off len) s)

/-! Prompter tables (R412 to R418). -/

/-- A table's header fields. -/
def tblNets (b : List Byte) : Nat := leAt b 32 2
def tblNh (b : List Byte) : Nat := leAt b 10 1
def tblWidth (b : List Byte) (k : Nat) : Nat := let w := leAt b (12 + k) 1; if w == 0 then 256 else w
def tblAct (b : List Byte) (k : Nat) : Nat := leAt b (16 + k) 1
def tblRecord (b : List Byte) : Nat := leAt b 36 4

/-- Width of device layer k, from 0 to nh; the output unit is layer nh. -/
def netWidth (b : List Byte) (k : Nat) : Nat := if k == tblNh b then 1 else tblWidth b k
/-- Fan-in of device layer k (R413). -/
def netFanIn (b : List Byte) (k : Nat) : Nat := if k == 0 then 32 else tblWidth b (k - 1)
/-- Words of one unit's weights, and the words before unit u of layer k. -/
def unitWords (b : List Byte) (k : Nat) : Nat := (netFanIn b k + 15) / 16
def layerBase (b : List Byte) (k : Nat) : Nat := ((upto k).map fun j => netWidth b j * unitWords b j).sum
def recordWords (b : List Byte) : Nat := layerBase b (tblNh b + 1)

/-- The weight code i of unit u of layer k in network j. -/
def weightCode (b : List Byte) (j k u i : Nat) : Nat :=
  let wd := leAt b (64 + j * tblRecord b + 4 * (layerBase b k + u * unitWords b k + i / 16)) 4
  wd / 4 ^ (i % 16) % 4

/-- The byte of the table's first weight code that is 11, in record order (R415, R551). -/
def codeBad (b : List Byte) : Option Nat :=
  (upto (tblNets b)).findSome? fun j =>
    (upto (tblNh b + 1)).findSome? fun k =>
      (upto (netWidth b k)).findSome? fun u =>
        ((upto (netFanIn b k)).find? fun i => weightCode b j k u i == 3).map fun i =>
          64 + j * tblRecord b + 4 * (layerBase b k + u * unitWords b k + i / 16) + i % 16 / 4

/-- A check of a structure's field: whether it offends, and its byte offset. -/
abbrev FieldBad := Bool × Nat

/-- A reserved range of a structure: it offends at its lowest nonzero byte (R551). -/
def reservedRange (b : List Byte) (off n : Nat) : FieldBad :=
  match indexWhere (· != 0) (slice b off n) with
  | some k => (true, off + k)
  | none => (false, off)

/-- The first field that offends, the checks standing in increasing byte offset. -/
def firstBad (l : List FieldBad) : Option Nat := (l.find? (·.1)).map (·.2)

/-- The first byte offset of a table that breaks R412, R413 or R415, for a buffer of len bytes and the company's models. -/
def tableBad (s : State) (c : Nat) (b : List Byte) (len : Nat) : Option Nat :=
  let mdl := s.store.models.find? fun p => p.2.company == c && p.2.fingerprint.toNat == leAt b 24 8 && !p.2.retiring
  let l := (mdl.map (·.2.layers)).getD 0
  let header :=
    firstBad [(leAt b 0 4 != 0x4C425450, 0), (leAt b 4 2 != 1, 4), (1 < leAt b 6 1, 6),
     (leAt b 7 1 < 6 || 12 < leAt b 7 1, 7), (leAt b 8 1 < 6 || 12 < leAt b 8 1, 8),
     (leAt b 9 1 < leAt b 8 1 || 12 < leAt b 9 1, 9), (4 < tblNh b, 10), reservedRange b 11 1,
     (!(upto 4).all fun k => k < tblNh b || leAt b (12 + k) 1 == 0, 12),
     (!(upto 4).all fun k => if k < tblNh b then [0, 2, 3, 4, 5].contains (tblAct b k) else tblAct b k == 0, 16),
     (mdl.isNone, 24), (tblNets b != 1 && tblNets b != l, 32), reservedRange b 34 2,
     (tblRecord b != roundUp (4 * recordWords b) 64, 36),
     (leAt b 40 4 != 64 + tblNets b * tblRecord b || leAt b 40 4 != len, 40), reservedRange b 44 16,
     (leAt b 60 4 != (crc32 (b.take 60 ++ b.drop 64)).toNat, 60)]
  match header with
  | some o => some o
  | none => codeBad b

/-- Bytes of all loaded tables (R418, R425). -/
def tableTotal (s : State) : Nat := (s.store.tables.map fun p => p.2.bytes.length).sum

/-- The tables that take memory: those loaded, and each replaced or unloaded one that a command taken in still uses (R417, R426; DEDUCED,
notes/assumptions/129.md). -/
def tablesHeld (s : State) : List Table :=
  (s.store.tables.map (·.2) ++ s.taken.filterMap fun t => if t.refused.isNone then t.table else none).eraseDups

/-- Bytes of the tables that take memory (R426). -/
def tableBytes (l : List Table) : Nat := (l.map fun x => x.bytes.length).sum
def tableMemory : Nat := 4194304
def tableMost : Nat := 4718592

/-- Network j of a table lies beyond table memory, in which the tables held lie in the order of their loads (R418, R419, R426). -/
def netSpilled (s : State) (x : Table) (j : Nat) : Bool :=
  decide (tableMemory < tableBytes ((tablesHeld s).filter fun y => decide (y.order < x.order)) + 64 + (j + 1) * tblRecord x.bytes)

/-- A table as loaded for a company. -/
def ownTable (s : State) (c n : Nat) : Option Table := (kget s.store.tables n).filter fun x => x.company == c

/-- Tables of a company as a bitmap (R596). -/
def tableBitmap (s : State) (c : Nat) : Nat :=
  ((s.store.tables.filter fun p => p.2.company == c).map fun p => 2 ^ p.1).sum

/-! Features. -/

/-- The company a company feature applies to (R593). -/
def featureCompany (t : Taken) : Nat := t.company

/-- GET_FEATURE: the value in force; a feature of an absent or gated unit returns 0 (R593, R596). -/
def featureValue (s : State) (c f : Nat) : Word64 :=
  if f == 1 then w64 (b2n s.store.tenancy)
  else if f == 2 then w64 (b2n s.store.bandwidth)
  else if f == 0x20 then if hasPrompter s && !pd6Gated s then ((companyOf s c).map (·.prestage)).getD 0 else 0
  else if f == 0x21 then if hasPrompter s && !pd6Gated s then w64 (tableBitmap s c) else 0
  else if hasEth s then (ethPort s (f - 0x30)).cfg else 0

def knownFeature (f : Nat) : Bool := [1, 2, 0x20, 0x21, 0x30, 0x31, 0x32, 0x33].contains f

/-- The checks of GetFeature, in their order (R583). -/
def getFeatureChecks (t : Taken) (s : State) : List Chk :=
  let f := fld (word t 0) 63 48
  [generalCheck t s,
    badFields (reservedBad t [bits 63 48] ++
      bads [(!knownFeature f, 48, 0), ((f == 0x20 || f == 0x21) && (companyOf s t.company).isNone, 10, 0)]),
    opcodeCheck t s]

/-- GET_FEATURE (R596). -/
def execGetFeature (r : CmdRef) (s : State) : Res :=
  runRow 0x05 r s fun t s =>
    let f := fld (word t 0) 63 48
    checked t (getFeatureChecks t s) s fun s => finish t (okWith (featureValue s (featureCompany t) f) 0 0) s

/-- Bits of value that a feature defines. -/
def featureBits (f : Nat) : Nat :=
  if f == 1 || f == 2 then bits 0 0
  else if f == 0x20 then bits 31 16 + bits 1 0
  else if f == 0x21 then bits 8 0
  else bits 21 0

/-- Features that take data: the bytes they read, for a command's data_len. -/
def featureData (t : Taken) : Nat :=
  let f := fld (word t 0) 63 48
  if f == 0x21 && fld (word t 1) 8 8 == 0 then fld (word t 3) 31 0
  else if 0x30 ≤ f && f ≤ 0x33 then 64 else 0

/-- Put the feature into force; SET_FEATURE's save flag keeps it across power cycles (R594). -/
def applyFeature (c f : Nat) (v : Word64) (save : Bool) (data : List Byte) (s : State) : State :=
  if f == 1 then { s with store := { s.store with tenancy := bit v 0 }, flash := { s.flash with tenancy := bit v 0 } }
  else if f == 2 then
    { s with store := { s.store with bandwidth := bit v 0 }
             flash := { s.flash with bandwidth := if save then bit v 0 else s.flash.bandwidth } }
  else if f == 0x20 then
    let s := if save then { s with flash := { s.flash with prestage := kset s.flash.prestage c v } } else s
    modCompany c (fun k => { k with prestage := v }) s
  else if f == 0x21 then
    let n := fld v 7 0
    let order := 1 + (tablesHeld s).foldl (fun m x => max m x.order) 0
    let buf := s.store.fetchBuf.filter fun p => p.1 != order
    if bit v 8 then modStore (fun st => { st with tables := kdel st.tables n }) s
    else modStore (fun st => { st with
      tables := kset st.tables n { company := c, bytes := data, order := order }, fetchBuf := buf }) s
  else
    let s := if save then { s with flash := { s.flash with eth := kset s.flash.eth (f - 0x30) (v, data) } } else s
    modEth (f - 0x30) (fun e => { e with cfg := v, addrs := data }) s

/-- The checks of SetFeature, in their order (R583). -/
def setFeatureChecks (t : Taken) (s : State) : List Chk :=
  let f := fld (word t 0) 63 48
  let v := word t 1
  let buf := (word t 2).toNat
  let save := bit (word t 3) 63
  let dlen := fld (word t 3) 31 0
  let c := featureCompany t
  let need := featureData t
  let data := hostArray t 0
  let isTable := f == 0x21
  let n := fld v 7 0
  let heldByOther := match kget s.store.tables n with
    | some x => isTable && x.company != c
    | none => false
  let replaced := ((ownTable s c n).map fun x => x.bytes.length).getD 0
  let structBad : Chk :=
    if isTable && !bit v 8 then (tableBad s c data dlen).map fun o => badIn o 0 128
    else if need == 64 then
      (firstBad [reservedRange data 12 4, reservedRange data 48 16]).map fun o => badIn o 0 128
    else none
  [
    (if (f == 0x20 || isTable) then unitFailed s true else none),
    generalCheck t s,
    badFields (reservedBad t [bits 63 48, featureBits f, bits 63 0, bits 63 63 + bits 31 0] ++
      bads [(!knownFeature f, 48, 0), (isTable && save, 255, 0), (isTable && 15 < n, 64, 0),
       ((f == 0x20 || isTable) && (companyOf s c).isNone, 10, 0),
       (f == 0x20 && 4096 < fld v 31 16, 80, 0), (0x30 ≤ f && fld v 2 1 == 3, 65, 0),
       (need != 0 && (buf % 64 != 0 || wraps buf need), 128, 0), (need == 64 && dlen != 64, 192, 0)]),
    (if heldByOther then some (status 0x202) else none),
    opcodeCheck t s, checkRegions t s (if need == 0 then [] else [hostRegion t s 1 buf need 128]),
    structBad,
    (if isTable && !bit v 8 && tableMost < tableTotal s - replaced + data.length then some (status 0x104) else none),
    (if f == 1 && bit v 0 != s.store.tenancy then
      (if s.lock.tenancy then some (status 0x204)
       else if 1 < s.store.companies.length || s.taken.any (fun u => u.opcode == 0x09 && u.running) then some (status 0x303) else none) else none)]

/-- SET_FEATURE (R340, R414 to R418, R535, R593 to R595, R621, R698, R717, R795). -/
def execSetFeature (r : CmdRef) (s : State) : Res :=
  runRow 0x04 r s fun t s =>
    let f := fld (word t 0) 63 48
    let v := word t 1
    let save := bit (word t 3) 63
    let c := featureCompany t
    let data := hostArray t 0
    checked t (setFeatureChecks t s) s fun s =>
      let s := applyFeature c f v save data s
      finish t (okWith (featureValue s c f) 0 0) s

/-! HEALTH and QUIESCE. -/

/-- The checks of Health, in their order (R583). -/
def healthChecks (t : Taken) (s : State) : List Chk :=
  [generalCheck t s, badFields (reservedBad t [0]), opcodeCheck t s]

/-- HEALTH (R660). -/
def execHealth (r : CmdRef) (s : State) : Res :=
  runRow 0x7F r s fun t s =>
    checked t (healthChecks t s) s
      (finish t (okWith (healthWord s) (w64 s.loft.spareLeft.toNat) (w64 s.loft.pctUsed.toNat)))

/-- The checks of Quiesce, in their order (R583). -/
def quiesceChecks (t : Taken) (s : State) : List Chk :=
  [generalCheck t s, badFields (reservedBad t [0, bits 8 8 + bits 0 0] ++ bads [(t.company != 0, 10, 0)]),
             opcodeCheck t s]

/-- QUIESCE (R626, R658, R659, R667, R668). -/
def execQuiesce (r : CmdRef) (s : State) : Res :=
  runRow 0x7E r s fun t s =>
    let leave := bit (word t 1) 0
    let drain := bit (word t 1) 8
    checked t (quiesceChecks t s) s fun s =>
      let was := quiesced s
      let s := reportQuiesce was (modDev (fun d => { d with quiesceCmd := !leave }) s)
      let c := okWith (w64 (b2n (quiesced s))) 0 0
      if drain then
        settle (modWork (fun w => { w with drains := kset w.drains t.seq c }) (setRunning t.seq s))
      else finish t c s

end Sys2Proof.Machine
end

