-- ==== Sys2Proof/Machine/Motion.lean ====
section
/-!
DEFINITION. Placement commands and stored programs of 14_commands_motion.md: PIN, UNPIN, PLACE, MIGRATE, WEIGHTS_LOAD
and CLUSTER_LOAD (R206 to R218, R224 to R227, R627 to R633, R638 to R641, R649), and the copies that staging makes.
-/
namespace Sys2Proof.Machine
open Sys2Proof

def idOf (lo hi : Word64) : SceneId := BitVec.ofNat 128 (lo.toNat + hi.toNat * 2 ^ 64)

/-! PIN and UNPIN. -/

/-- The scenes a PIN or UNPIN names, of a chain as it stood at intake, or the BAD_FIELD it meets (R627 to R629). -/
def pinTargets (t : Taken) (s : State) : List SceneId × Chk :=
  if bit (word t 1) 32 then
    let h := low (word t 1)
    if (streamAt t s h).isNone then ([], some (badAt 64 2)) else
    let first := fld (word t 2) 31 16
    let n := fld (word t 2) 15 0 + 1
    if (chainAt t h).length < first + n then ([], some (badAt 128 2)) else (((chainAt t h).drop first).take n, none)
  else
    let id := idOf (word t 2) (word t 3)
    if (findScene s t.company id).isNone || id == 0 then ([], some (badAt 128 1)) else ([id], none)

def pinMasks (t : Taken) : List Nat :=
  if bit (word t 1) 32 then [0, bits 32 0, bits 31 0] else [0, bits 32 0, bits 63 0, bits 63 0]

def addPins (c : Nat) (ids : List SceneId) (f : Nat → Nat) (s : State) : State :=
  modStore (fun st => { st with scenes := st.scenes.map fun x =>
    if x.company == c && ids.contains x.id then { x with pins := f x.pins } else x }) s

/-- The checks of Pin, in their order (R583). -/
def pinChecks (t : Taken) (s : State) : List Chk :=
  let (ids, bad) := pinTargets t s
  [generalCheck t s, badFields (reservedBad t (pinMasks t)), bad, opcodeCheck t s,
    (if (ofCompany s t.company).any fun x => ids.contains x.id && 65535 ≤ x.pins then some (status 0x302) else none)]

/-- PIN (R627, R629). -/
def execPin (r : CmdRef) (s : State) : Res :=
  runRow 0x30 r s fun t s =>
    let ids := (pinTargets t s).1
    checked t (pinChecks t s)
      s fun s => finish t (okWith (w64 ids.length) 0 0) (addPins t.company ids (· + 1) s)

/-- The checks of Unpin, in their order (R583). -/
def unpinChecks (t : Taken) (s : State) : List Chk :=
  let (ids, bad) := pinTargets t s
  [generalCheck t s, badFields (reservedBad t (pinMasks t)), bad,
    (if (ofCompany s t.company).any fun x => ids.contains x.id && x.pins == 0 then some (badAt 128 3) else none),
    opcodeCheck t s]

/-- UNPIN (R628, R629). -/
def execUnpin (r : CmdRef) (s : State) : Res :=
  runRow 0x31 r s fun t s =>
    let ids := (pinTargets t s).1
    checked t (unpinChecks t s)
      s fun s => finish t (okWith (w64 ids.length) 0 0) (addPins t.company ids (· - 1) s)

/-! Copies up the tiers. -/

/-- Pages of n that a tier does not hold. -/
def absentIn (n : Nat) (has : List Bool) : List Nat := (upto n).filter fun l => !has.getD l false

/-- Missing pages of a scene, and missing layers of a weight set, in Stage or Wings. -/
def missingPages (x : Scene) (stage : Bool) : List Nat := absentIn x.pages.length (if stage then x.stage else x.wings)
def missingLayers (w : Weights) (stage : Bool) : List Nat := absentIn w.layers.length (if stage then w.stage else w.wings)

/-- A page has a copy above the Loft: in Stage, in Wings, or in Stage working area (R219, R223). -/
def pageAbove (s : State) (c : Nat) (what : PageRef) : Bool :=
  s.work.working.contains (c, what) ||
  match what with
  | .scene id l => ((findScene s c id).map fun x => x.stage.getD l false || x.wings.getD l false).getD false
  | .weights n l => ((findSet s n).map fun w => w.stage.getD l false || w.wings.getD l false).getD false

/-- The index names a Loft copy of the page. -/
def pageInLoft (s : State) (c : Nat) (what : PageRef) : Bool :=
  match what with
  | .scene id l => ((findScene s c id).map fun x => x.loft.getD l false).getD false
  | .weights n l => ((findSet s n).map fun w => w.loft.getD l false).getD false

/-- The scene or weight set of a page is retired (R286, R289). -/
def pageRetired (s : State) (c : Nat) (what : PageRef) : Bool :=
  match what with
  | .scene id _ => ((findScene s c id).map (·.retired)).getD false
  | .weights n _ => ((findSet s n).map (·.retired)).getD false

/-- A page's bytes. -/
def refData (s : State) (c : Nat) (what : PageRef) : List Byte :=
  match what with
  | .scene id l => ((findScene s c id).map fun x => x.pages.getD l []).getD []
  | .weights n l => ((findSet s n).map fun w => w.layers.getD l []).getD []

/-- Mark a page present in Stage or Wings. A new copy moves, drops and removes none, so no invalidation is sent (R338). -/
def setPage (c : Nat) (what : PageRef) (stage : Bool) (s : State) : State :=
  match what with
  | .scene id l => modScene c id (fun x =>
      if stage then { x with stage := setAt x.stage l true } else { x with wings := setAt x.wings l true }) s
  | .weights n l => modSet n (fun w =>
      if stage then { w with stage := setAt w.stage l true } else { w with wings := setAt w.wings l true }) s

/-- The data units of a page in the Loft: one for a page of a scene, one for every 4 KiB of a layer of a weight set (R785). -/
def unitsOfPage (s : State) (c : Nat) (what : PageRef) : List LoftObj :=
  match what with
  | .scene id l => [.page c id l]
  | .weights n l => (upto (((refData s c what).length + 4095) / 4096)).map (.chunk c n l ·)

/-- Dies whose array reads a page needs (R265, R292). -/
def pageDies (s : State) (c : Nat) (what : PageRef) : List Nat := ((unitsOfPage s c what).flatMap (readDies s)).eraseDups

/-- A die that a UNIFIED load does not wait for: it runs an operation that has been suspended twice, or is held for its calibration (R272,
R274). -/
def dieBlocked (s : State) (d : Nat) : Bool :=
  let x := die s d
  onHold s d || (x.op.isSome && !x.suspended && !x.duskHeld && decide (2 ≤ x.suspends))

/-- Dies whose array reads a UNIFIED load of a page needs: for a die that it does not wait for the other members of the stripe, when none of
them is failed or held (R272, R274, R292). -/
def loadDies (s : State) (c : Nat) (what : PageRef) : List Nat :=
  ((unitsOfPage s c what).flatMap fun o => (placesOf s o).flatMap fun q =>
    let around := (peers q.2.1 q.2.2).map (·.die)
    if !unitReads s q.2.2 then around
    else if dieBlocked s q.2.2.die && peersRead s q.2.1 q.2.2 && !(around.any (onHold s)) then around
    else [q.2.2.die]).eraseDups

/-- A UNIFIED load that reads from these dies can end so (R265): served by rebuild only when it does not read the data's own die. -/
def loadCanEnd (s : State) (c : Nat) (what : PageRef) (dies : List Nat) (o : ReadOutcome) : Bool :=
  (unitsOfPage s c what).all fun u => readCanEnd s u o
    && (o == .rebuilt || o == .failed || (placesOf s u).all fun q => dies.contains q.2.2.die)

/-- UNIFIED loads that wait for die d are served by the dies that `loadDies` names now. -/
def redirectLoads (d : Nat) (s : State) : State :=
  (s.work.loads.filter fun g => g.dies.contains d).foldl (fun s g =>
    let dies := loadDies s g.company g.what
    let s := modWork (fun w => { w with loads := w.loads.map fun h => if h.id == g.id then { h with dies := dies } else h }) s
    let s := (dies.filter fun e => !g.dies.contains e).foldl (fun s e => reachDie e s) s
    (g.dies.filter fun e => !dies.contains e).foldl (fun s e => leaveDie e s) s) s

/-- Reads of a command outstanding on a channel. -/
def readsOut (s : State) (q : Option Nat) (ch : Nat) : Nat :=
  (s.work.staging.filter fun g => g.issued && g.ended.isNone && g.waiters.head?.map (·.1) == q
    && g.dies.any fun d => dieChannel d == ch).length

/-- The read of a page copy goes out, unless its command has 8 reads outstanding on a channel (R230). A foreground read reaches its
dies (R271). -/
def issueRead (g : PageCopy) (s : State) : State :=
  let dies := pageDies s g.company g.what
  if dies.any fun d => 8 ≤ readsOut s (g.waiters.head?.map (·.1)) (dieChannel d) then s else
  let s := modWork (fun w => { w with staging := w.staging.map fun h => if h == g then { h with issued := true, dies := dies, held := dies.any (onHold s) } else h }) s
  if g.background then s else dies.foldl (fun s d => reachDie d s) s

/-- Send the reads that can go out. -/
def issueReads (s : State) : State := (s.work.staging.filter (!·.issued)).foldl (fun s g => issueRead g s) s

/-- The command waits for the copy from now on. A copy that pre-staging makes is adopted by a command that needs it, with no second
read (R353). -/
def joinCopy (q : Option Nat) (t : Nat) (background onward allocated : Bool) (g : PageCopy) : PageCopy :=
  { g with
    waiters := match q with
      | some n => if g.waiters.any (·.1 == n) then g.waiters else g.waiters ++ [(n, t)]
      | none => g.waiters
    background := g.background && (background || g.issued)
    onward := g.onward || onward
    allocated := g.allocated || allocated }

/-- Ask for a copy of a page through a Loft read, or join the one that is being made. -/
def askPage (q : Option Nat) (c : Nat) (what : PageRef) (stage background onward allocated : Bool) (s : State) : State :=
  let same := fun (g : PageCopy) => g.company == c && g.what == what && g.stage == stage
  if s.work.staging.any same then
    issueReads (modWork (fun w => { w with
      staging := w.staging.map fun g => if same g then joinCopy q (now s) background onward allocated g else g }) s)
  else
    let g : PageCopy :=
      { company := c, what := what, stage := stage, waiters := (q.map fun n => (n, now s)).toList, issued := false, dies := []
        ended := none, held := false, background := background, onward := onward, allocated := allocated }
    issueRead g (modWork (fun w => { w with staging := w.staging ++ [g] }) s)

/-- Copy a page into a tier: at once from a tier above the Loft, through a Loft read otherwise (R207, R265). -/
def copyPageUp (q c : Nat) (stage : Bool) (what : PageRef) (s : State) : State :=
  if pageAbove s c what then setPage c what stage s else askPage (some q) c what stage false false true s

def copyUp (q c : Nat) (id : SceneId) (stage : Bool) (s : State) : State :=
  match findScene s c id with
  | none => s
  | some x => (missingPages x stage).foldl (fun s l => copyPageUp q c stage (.scene id l) s) s

def bytesMissing (s : State) (c : Nat) (ids : List SceneId) (stage : Bool) : Nat :=
  (ids.map fun i => ((findScene s c i).map fun x => (missingPages x stage).length * footOf s x).getD 0).sum

/-! Mappings. -/

/-- Size of the window a view lies in: the UNIFIED range, or in SPLIT the Stage or Wings window (R210, R211). -/
def windowSize (s : State) (c : Nat) (stage : Bool) : Nat :=
  match companyOf s c with
  | none => 0
  | some k => if !k.split then k.unified else if stage then k.stageRes else k.wingsRes

/-- The lowest 2 MiB-aligned offset with room for a view. -/
def findOffset (ms : List Mapping) (size limit : Nat) : Nat → Nat → Option Nat
  | 0, _ => none
  | n + 1, off =>
    if limit < off + size then none else
    match ms.find? fun m => decide (m.offset < off + size) && decide (off < m.offset + m.size) with
    | none => some off
    | some m => findOffset ms size limit n (m.offset + m.size)

/-- The offset of a view, which the device chooses (R213): a free value where it leaves room for the view at a multiple of
2 MiB, otherwise the lowest with room; none where no offset has room (notes/assumptions/12.md). -/
def chooseOffset (ms : List Mapping) (size limit : Nat) (f : Word64) : Option Nat :=
  let off := 2097152 * (f.toNat % 2 ^ 43)
  if off + size ≤ limit && !(ms.any fun m => decide (m.offset < off + size) && decide (off < m.offset + m.size)) then some off
  else findOffset ms size limit (ms.length + 1) 0

def sameObject (a b : Viewed) : Bool :=
  match a, b with
  | .stream h _, .stream k _ => h == k
  | x, y => x == y

def unmap (c : Nat) (v : Viewed) (s : State) : State :=
  modStore (fun st => { st with maps := st.maps.filter fun m => !(m.company == c && sameObject m.what v) }) s

/-- Make or keep the mapping of an object in a window; none when the view finds no room (R213, R632). -/
def mapObject (c : Nat) (v : Viewed) (bytes : Nat) (stage : Bool) (s : State) : Option (Nat × State) :=
  let size := roundUp bytes 2097152
  match s.store.maps.find? fun m => m.company == c && m.what == v && m.stage == stage && m.size == size with
  | some m => some (m.offset, s)
  | none =>
    let s := unmap c v s
    let others := s.store.maps.filter fun m => m.company == c && m.stage == stage
    let (f, s) := takeFree s
    (chooseOffset others size (windowSize s c stage) f).map fun off =>
      (off, modStore (fun st => { st with maps := st.maps ++
        [{ company := c, what := v, stage := stage, offset := off, size := size }] }) s)

def isSplit (s : State) (c : Nat) : Bool := ((companyOf s c).map (·.split)).getD false

/-! PLACE and MIGRATE. -/

/-- What PLACE or MIGRATE names. -/
inductive PlaceObj where
  | scenes (ids : List SceneId)
  | stream (h : Nat)
  | weights (name : Nat)
  | scratch (h : Nat)
  | create
  | none

def placeObj (t : Taken) (s : State) : PlaceObj :=
  let o := fld (word t 1) 63 60
  let h := low (word t 1)
  let c := t.company
  if o == 0 then
    let id := idOf (word t 2) (word t 3)
    if (findScene s c id).isSome && id != 0 then .scenes [id] else .none
  else if o == 1 then if (openStream s c h).isSome then .stream h else .none
  else if o == 2 then if (findWeights s c (word t 2).toNat).isSome then .weights (word t 2).toNat else .none
  else if o == 3 then
    if h == 0 then .create
    else if ((kget s.store.scratch h).filter fun x => x.company == c).isSome then .scratch h else .none
  else .none

/-- Fields that PLACE and MIGRATE name: free, map and view_scenes are PLACE's only. -/
def placeMasks (place : Bool) : List Nat :=
  [0, bits 63 60 + bits 57 56 + (if place then bits 49 32 else 0) + bits 31 0, bits 63 0, bits 63 0]

/-- The location of the field that names the object. -/
def objField (t : Taken) : Nat := if fld (word t 1) 63 60 == 1 || fld (word t 1) 63 60 == 3 then 64 else 128

def scratchSizeOk (n : Nat) : Bool := n % 65536 == 0 && 65536 ≤ n && n ≤ 2 ^ 30

/-- The placement that a PLACE with a tier sets: 0 AUTO ends it. -/
def placeTier (tier : Nat) : Option Tier :=
  if tier == 1 then some .stage else if tier == 2 then some .wings else if tier == 3 then some .loft else none

/-- Set or end the placement of scenes placed by ID, or of a stream with the scenes it covers: each object has its own (R225). -/
def setPlaced (c : Nat) (ids : List SceneId) (h : Option Nat) (p : Option Tier) (s : State) : State :=
  let own := fun (x : Scene) => if x.company == c && ids.contains x.id then { x with placed := p } else x
  match h with
  | some k => modStream k (fun v => { v with placed := p, placedOn := if p.isSome then ids else [] }) s
  | none => modStore (fun st => { st with scenes := st.scenes.map own }) s

/-- Bytes needed in a tier for scenes and, for a stream, its tail's move. -/
def moveNeed (s : State) (c : Nat) (ids : List SceneId) (h : Option Nat) (stage : Bool) : Nat :=
  bytesMissing s c ids stage +
  match h.bind (kget s.store.streams) with
  | some v => if stage && !v.tailStage then tailAlloc s v else 0
  | none => 0

/-- Write back now: the scenes without a Loft copy go to the front of the write-back queue (R224 and its table). -/
def writeBackNow (c : Nat) (ids : List SceneId) (s : State) : State :=
  let need := ids.filter fun i => ((findScene s c i).map fun x => !allTrue x.loft && !inFlight s c i).getD false
  let rest := s.loft.wbQueue.filter fun p => !(p.1 == c && need.contains p.2)
  modLoft (fun l => { l with wbQueue := need.map (fun i => (c, i)) ++ rest }) s

/-- In SPLIT visibility a copy mapped through another object is neither moved nor dropped by a command of this one (R212). -/
def keptByOther (s : State) (t : Tier) (c : Nat) (own v : Viewed) : Bool :=
  isSplit s c && s.store.maps.any fun m =>
    m.company == c && m.stage == (t == .stage) && !sameObject m.what own && shows s m v

/-- MIGRATE of an object to the Loft drops the device-made copies of its scenes that have a Loft copy, one mapped through the object
too (R212, R224 and its table). -/
def dropAbove (c : Nat) (own : Viewed) (ids : List SceneId) (s : State) : State :=
  ids.foldl (fun s i =>
    let drop := fun (s : State) (t : Tier) =>
      match findScene s c i with
      | none => s
      | some x =>
        let has := if t == .stage then x.stage.any id else x.wings.any id
        if !allTrue x.loft || !has || placedIn s t x || keptByOther s t c own (.scene i) then s else dropCopy t c i s
    drop (drop s .stage) .wings) s

/-- Move scenes (and a stream's tail) to a tier: 1 STAGE, 2 WINGS, 3 LOFT. -/
def moveScenes (t : Taken) (ids : List SceneId) (h : Option Nat) (tier : Nat) (place : Bool) (s : State) : State :=
  let c := t.company
  let stage := tier == 1
  let s := if place then setPlaced c ids h (placeTier tier) s else s
  if tier == 1 || tier == 2 then
    let s := ids.foldl (fun s i => copyUp t.seq c i stage s) s
    match h with
    | some k => modStream k (fun v => { v with tailStage := stage }) s
    | none => s
  else if tier == 3 then
    let s := writeBackNow c ids s
    if place then s else dropAbove c (match h with | some k => .stream k 0 | none => .scene (ids.headD 0)) ids s
  else s

/-- Move the weight set with number n to a tier (R224 and its table). -/
def moveWeights (t : Taken) (n tier : Nat) (place : Bool) (s : State) : State :=
  match findSet s n with
  | none => s
  | some w =>
    let s := if place then modSet n (fun w => { w with placed := placeTier tier }) s else s
    if tier == 1 || tier == 2 then
      (missingLayers w (tier == 1)).foldl (fun s l => copyPageUp t.seq t.company (tier == 1) (.weights n l) s) s
    else if tier == 3 && !place && allTrue w.loft then
      let s := if w.placed == some .stage then s else dropWeights .stage n s
      if w.placed == some .wings then s else dropWeights .wings n s
    else s

def moveScratch (h tier : Nat) (place : Bool) (s : State) : State :=
  modStore (fun st => { st with scratch := kmod st.scratch h fun x => { x with
    stage := if tier == 1 then true else if tier == 2 then false else x.stage
    placed := if place then tier != 0 else x.placed } }) s

/-- The scenes of the object, and its weight set. -/
def objScenes (t : Taken) (o : PlaceObj) : List SceneId :=
  match o with
  | .scenes ids => ids
  | .stream h => chainAt t h
  | _ => []
def objSets (t : Taken) (o : PlaceObj) (s : State) : List Nat :=
  match o with
  | .weights n => ((findWeights s t.company n).map (·.setNum)).toList
  | _ => []

/-- Bytes that a move of the object takes in Stage or Wings. -/
def moveBytes (t : Taken) (o : PlaceObj) (stage : Bool) (s : State) : Nat :=
  let c := t.company
  match o with
  | .scenes ids => moveNeed s c ids none stage
  | .stream h => moveNeed s c (chainAt t h) (some h) stage
  | .weights n => ((findWeights s c n).map fun w => weightBytes w - bytesIn w (if stage then w.stage else w.wings)).getD 0
  | .scratch h => ((kget s.store.scratch h).map fun x => if x.stage == stage then 0 else x.size).getD 0
  | .create => (word t 2).toNat
  | .none => 0

/-- The room that a move takes in the tier it names; the copies of its own scenes stay (R232, R662). -/
def moveRoom (t : Taken) (o : PlaceObj) (tier : Nat) (s : State) : Option State :=
  if tier == 1 || tier == 2 then
    makeRoomBeside (objScenes t o) (if tier == 1 then .stage else .wings) t.company (moveBytes t o (tier == 1) s) s
  else some s

/-- A move to the Loft takes its room when its write-backs start (R221); here it is only counted. -/
def loftRoom (t : Taken) (o : PlaceObj) (s : State) : Option State :=
  let need := fun i => ((findScene s t.company i).map fun x =>
    if x.loft.any id || inFlight s t.company i then 0 else sceneBytes (modelD s x.model)).getD 0
  makeRoomBeside (objScenes t o) .loft t.company ((objScenes t o).map need).sum s

/-- NO_RESERVATION where a move finds no room. -/
def moveRoomCheck (t : Taken) (o : PlaceObj) (tier : Nat) (s : State) : Chk :=
  if (if tier == 3 then loftRoom t o s else moveRoom t o tier s).isSome then none else some (status 0x301)

/-- The viewed object and its bytes. -/
def viewOf (t : Taken) (o : PlaceObj) (s : State) : Viewed × Nat :=
  let c := t.company
  match o with
  | .scenes ids => let i := ids.headD 0
                   (.scene i, ((findScene s c i).map fun x => sceneBytes (modelD s x.model)).getD 0)
  | .stream h => let n := fld (word t 1) 47 32
                 (.stream h n, n * sceneBytes (modelD s (((kget s.store.streams h).map (·.model)).getD 64)))
  | .weights n => (.weights n, ((findWeights s c n).map weightBytes).getD 0)
  | .scratch h => (.scratch h, ((kget s.store.scratch h).map (·.size)).getD 0)
  | .create => (.scratch 0, (word t 2).toNat)
  | .none => (.scratch 0, 0)

/-- A move that reads a lost page ends as a STALL command, its result naming a scene (R242, R244, R286); no result word names a weight
set, and then they are 0 (notes/assumptions/107.md). -/
def failMove (t : Taken) (st : Nat) (what : PageRef) (s : State) : State :=
  let id : SceneId := match what with
    | .scene i _ => i
    | .weights _ _ => 0
  finish t { status st with r1 := id.truncate 64, r2 := (id >>> 64).truncate 64 }
    (modWork (fun w => { w with drains := kdel w.drains t.seq }) s)

/-- Pages that a move to Stage or Wings copies. -/
def movePages (t : Taken) (o : PlaceObj) (tier : Nat) (s : State) : List PageRef :=
  if tier != 1 && tier != 2 then [] else
  ((objScenes t o).flatMap fun i =>
    (((findScene s t.company i).map (missingPages · (tier == 1))).getD []).map (PageRef.scene i))
  ++ (objSets t o s).flatMap fun n =>
    (((findSet s n).map (missingLayers · (tier == 1))).getD []).map (PageRef.weights n)

/-- The first page of a retired scene or weight set that a move would read from the Loft (R286, R289). -/
def moveLost (t : Taken) (o : PlaceObj) (tier : Nat) (s : State) : Option PageRef :=
  (movePages t o tier s).find? fun p => pageRetired s t.company p && !pageAbove s t.company p

/-- End with the copies made, or wait for them (R224). -/
def finishMove (t : Taken) (o : PlaceObj) (c : Completion) (s : State) : State :=
  let sets := objSets t o s
  let s := { s with taken := s.taken.map fun u =>
    if u.seq == t.seq then { u with reads := objScenes t o, sets := sets } else u }
  settle (modWork (fun w => { w with drains := kset w.drains t.seq c }) (setRunning t.seq s))

def stageWindow (s : State) (c : Nat) (tier : Nat) : Bool := isSplit s c && tier == 1

/-- The move of PLACE or MIGRATE on its object. -/
def moveObj (t : Taken) (o : PlaceObj) (tier : Nat) (place : Bool) (s : State) : State :=
  match o with
  | .scenes ids => moveScenes t ids none tier place s
  | .stream h => moveScenes t (chainAt t h) (some h) tier place s
  | .weights _ => (objSets t o s).foldl (fun s n => moveWeights t n tier place s) s
  | .scratch h => moveScratch h tier place s
  | .create => s
  | .none => s

/-- The handle of a new scratch object, whose number no rule states: a free value other than 0 and the handles in use, or where
it is one of those the lowest handle that is not (R630, R631; notes/assumptions/26.md). -/
def chooseHandle (m : KMap Scratch) (f : Nat) : Nat :=
  if f != 0 && !khas m f then f else ((upto (m.length + 2)).find? fun h => h != 0 && !khas m h).getD 1

/-- A new scratch object, zero throughout (R209, R631). -/
def newScratch (c size : Nat) (stage : Bool) (s : State) : Nat × State :=
  let (f, s) := takeFree s
  let h := chooseHandle s.store.scratch (low f)
  (h, modStore (fun st => { st with
    scratch := kset st.scratch h { company := c, size := size, stage := stage, placed := true, mem := [], poison := [] } })
    s)

/-- The checks of Place, in their order (R583). -/
def placeChecks (t : Taken) (s : State) : List Chk :=
  let c := t.company
  let w := word t 1
  let o := placeObj t s
  let kind := fld w 63 60
  let tier := fld w 57 56
  let free := bit w 49
  let map := bit w 48
  let views := fld w 47 32
  let creating := match o with | .create => !free | _ => false
  let absent := match o with | .none => true | .create => free | _ => false
  let size := (word t 2).toNat
  let tierBad := (kind == 3 && tier == 3) || (creating && tier != 1 && tier != 2)
    || (map && isSplit s c && tier != 1 && tier != 2)
  let (what, bytes) := viewOf t o s
  let st := stageWindow s c tier
  [generalCheck t s,
    badFields (reservedBad t (placeMasks true) ++
      bads [(3 < kind, 124, 0), (kind ≤ 3 && absent, objField t, 1), (tierBad, 120, 2),
            (free && kind != 3, 113, 3), (map && free, 112, 3),
            ((if kind == 1 && map then views == 0 || 8192 < views else views != 0), 96, 3),
            (creating && !scratchSizeOk size, 128, 0)]),
    opcodeCheck t s,
    (if free then none else moveRoomCheck t o tier s),
    (if map && (mapObject c what bytes st s).isNone then some (status 0x301) else none),
    (if creating && 1048576 ≤ s.store.scratch.length then some (status 0x302) else none)]

/-- PLACE (R209, R213, R224 to R226, R630 to R632). -/
def execPlace (r : CmdRef) (s : State) : Res :=
  runRow 0x32 r s fun t s =>
    let c := t.company
    let w := word t 1
    let o := placeObj t s
    let tier := fld w 57 56
    let free := bit w 49
    let map := bit w 48
    let size := (word t 2).toNat
    let (what, bytes) := viewOf t o s
    let st := stageWindow s c tier
    checked t (placeChecks t s) s fun s =>
      if free then
        finish t okay (modStore (fun x => { x with scratch := kdel x.scratch (low w) }) (unmap c what s))
      else
      match moveLost t o tier s with
      | some p => failMove t 0x502 p s
      | none =>
      inRoomMade t s (moveRoom t o tier s) fun s =>
      match o with
      | .create =>
        let (h, s) := newScratch c size (tier == 1) s
        match (if map then mapObject c (.scratch h) size st s else none) with
        | some (off, s) => finish t (okWith (w64 h) (w64 off) 0) s
        | none => finish t (okWith (w64 h) 0 0) s
      | _ =>
        let s := moveObj t o tier true s
        match (if map then mapObject c what bytes st s else none) with
        | some (off, s) => finishMove t o (okWith 0 (w64 off) 0) s
        | none => finishMove t o okay (unmap c what s)

/-- In SPLIT visibility a mapped SINGLE_HOME object is mapped anew in the other window (R218, R633). One that stays where it is keeps its
offset, which the result repeats; none where the other window has no room for the view (R632; notes/assumptions/108.md). -/
def remap (c : Nat) (what : Viewed) (stage : Bool) (s : State) : Option (Nat × State) :=
  match s.store.maps.find? fun m => m.company == c && sameObject m.what what with
  | none => some (0, s)
  | some m =>
    if !isSplit s c then some (0, s)
    else if m.stage == stage then some (m.offset, s)
    else mapObject c m.what m.size stage (unmap c m.what s)

/-- The object has one home, and moves. -/
def movesHome (o : PlaceObj) (tier : Nat) : Bool :=
  tier != 3 && match o with
    | .scratch _ => true
    | .stream _ => true
    | _ => false

/-- The checks of Migrate, in their order (R583). -/
def migrateChecks (t : Taken) (s : State) : List Chk :=
  let o := placeObj t s
  let kind := fld (word t 1) 63 60
  let tier := fld (word t 1) 57 56
  let absent := match o with | .none => true | .create => true | _ => false
  [generalCheck t s,
    badFields (reservedBad t (placeMasks false) ++
      bads [(3 < kind, 124, 0), (kind ≤ 3 && absent, objField t, 1), (tier == 0 || (kind == 3 && tier == 3), 120, 2)]),
    opcodeCheck t s, moveRoomCheck t o tier s,
    (if movesHome o tier && (remap t.company (viewOf t o s).1 (tier == 1) s).isNone then some (status 0x301) else none)]

/-- MIGRATE (R218, R224, R227, R249, R633). -/
def execMigrate (r : CmdRef) (s : State) : Res :=
  runRow 0x33 r s fun t s =>
    let c := t.company
    let o := placeObj t s
    let tier := fld (word t 1) 57 56
    let (what, _) := viewOf t o s
    checked t (migrateChecks t s) s fun s =>
      match moveLost t o tier s with
      | some p => failMove t 0x502 p s
      | none =>
      inRoomMade t s (moveRoom t o tier s) fun s =>
      let s := moveObj t o tier false s
      let (off, s) := if movesHome o tier then (remap c what (tier == 1) s).getD (0, s) else (0, s)
      finishMove t o (okWith 0 (w64 off) 0) s

/-! WEIGHTS_LOAD. -/

/-- The weight set that a name stood for when the command was taken in (R663). -/
def setNamed (t : Taken) (s : State) (name : Nat) : Option Weights :=
  s.store.weights.find? fun w => w.company == t.company && w.name == name && t.sets.contains w.setNum

/-- Layer sizes as the table in host memory gives them, and where each layer starts in the data. -/
def layerSizes (b : List Byte) (n : Nat) : List Nat := (upto n).map fun k => leAt b (8 * k) 8

def splitLayers : List Nat → Nat → List Byte → List (List Byte)
  | [], _, _ => []
  | n :: r, off, b => slice b off n :: splitLayers r (roundUp (off + n) 64) b

/-- A data unit of the Loft as it is encrypted: under the company's key, with the tweak of R785 (R263). -/
def cipher (s : State) (o : LoftObj) (d : List Byte) : List Byte :=
  let under := fun (c tweak : Nat) =>
    xtsEncrypt (Config.dataKey (((companyOf s c).bind (·.key)).getD 0)) (BitVec.ofNat 128 tweak) d
  match o with
  | .page c id l => under c (((findScene s c id).map (·.slot)).getD 0 * 256 + l)
  | .chunk c n l k => under c (2 ^ 127 + n * 2 ^ 40 + l * 2 ^ 20 + k)

/-- The encrypted footprints of a page, each with its channel (R229, R263). -/
def pageFeet (s : State) (c : Nat) (what : PageRef) : List (LoftObj × Nat × List Byte) :=
  let d := refData s c what
  (unitsOfPage s c what).zipIdx.map fun (o, k) =>
    (o, channelOf o, cipher s o (match what with
      | .scene _ _ => d
      | .weights _ _ => slice d (4096 * k) (min 4096 (d.length - 4096 * k))))

/-- The number of a new weight set: the lowest that none has (R785; notes/assumptions/46.md). -/
def freeSet (s : State) : Nat :=
  ((upto (s.store.weights.length + 1)).find? fun k => (findSet s k).isNone).getD 0

/-- Room in Wings for the set, and in the Loft for its copy. -/
def weightsRoom (c n : Nat) (s : State) : Option State := (makeRoom .wings c n s).bind (makeRoom .loft c n)

/-- Weight sets on the device, those being loaded among them: a set and the load that replaces it count once (R641). -/
def weightSets (s : State) : Nat := ((s.store.weights.map fun w => (w.company, w.name)).eraseDups).length

/-- The checks of WeightsLoad, in their order (R583). -/
def weightsLoadChecks (t : Taken) (s : State) : List Chk :=
  let c := t.company
  let name := (word t 1).toNat
  let n := fld (word t 2) 10 0
  let szAddr := (word t 3).toNat
  let data := (word t 4).toNat
  let sizes := layerSizes (hostArray t 0) n
  let total := sizes.sum
  let badSize := indexWhere (fun k => k % 64 != 0 || k == 0 || decide (2 ^ 32 < k)) sizes
  let old := findWeights s c name
  [generalCheck t s,
    badFields (reservedBad t [0, bits 63 0, bits 10 0, bits 63 0, bits 63 0]
      ++ bads [(name == 0 || (n == 0 && old.isNone), 64, 0), (1024 < n, 128, 0),
               (n != 0 && (szAddr % 64 != 0 || wraps szAddr (8 * n)), 192, 0),
               (n != 0 && (data % 64 != 0 || wraps data total), 256, 0)]),
    opcodeCheck t s,
    checkRegions t s [hostRegion t s 1 szAddr (8 * n) 192],
    badSize.map (fun k => badIn (8 * k) 0 192),
    checkRegions t s [hostRegion t s 1 data total 256],
    (if (weightsRoom c total s).isNone then some (status 0x301) else none),
    (if 2 ^ 40 < total then some (status 0x105) else none),
    (if n != 0 && !(s.store.weights.any fun w => w.company == c && w.name == name) && 1024 ≤ weightSets s
      then some (status 0x302) else none)]

/-- WEIGHTS_LOAD (R638 to R641): the set goes to Wings and its Loft copy is programmed; it completes with the journal
record of the set, when it replaces an older one of the name. With layers 0 the set of that name is removed. -/
def execWeightsLoad (r : CmdRef) (s : State) : Res :=
  runRow 0x48 r s fun t s =>
    let c := t.company
    let name := (word t 1).toNat
    let n := fld (word t 2) 10 0
    let sizes := layerSizes (hostArray t 0) n
    let total := sizes.sum
    checked t (weightsLoadChecks t s) s fun s =>
      if n == 0 then
        let s := modStore (fun st => { st with weights := st.weights.map fun w =>
          if w.company == c && w.name == name && !w.pending then { w with old := true } else w }) s
        holdFor (.weightsRemove c name) t okay (freeSets (unmap c (.weights name) s))
      else
        inRoomMade t s (weightsRoom c total s) fun s =>
        let k := freeSet s
        let w : Weights := { company := c, name := name, layers := splitLayers sizes 0 (hostArray t 1), wings := pagesOf n true,
                             stage := pagesOf n false, loft := pagesOf n false, placed := none, retired := false, setNum := k,
                             madeBy := t.seq, pending := true, old := false }
        let s := modStore (fun st => { st with weights := st.weights ++ [w] }) s
        setRunning t.seq (startItem .writeBack c none k total ((upto n).flatMap fun l => pageFeet s c (.weights k l)) s)

/-! CLUSTER_LOAD. -/

/-- Company 0 runs nothing on the clusters in SOLE tenancy (R763). -/
def soleRefuses (t : Taken) (s : State) : Chk :=
  if t.company == 0 && !s.store.tenancy then some { status 0x201 with r1 := 0xFF, r2 := w64 (atBit 0) } else none

/-- The checks of ClusterLoad, in their order (R583). -/
def clusterLoadChecks (t : Taken) (s : State) : List Chk :=
  let n := fld (word t 1) 48 32
  let a := (word t 2).toNat
  [generalCheck t s,
    badFields (reservedBad t [0, bits 48 32 + bits 3 0, bits 63 0] ++
      bads [(n % 4 != 0 || n < 4 || 65536 < n, 96, 0), (a % 64 != 0 || wraps a n, 128, 0)]),
    soleRefuses t s, opcodeCheck t s, checkRegions t s [hostRegion t s 1 a n 128]]

/-- CLUSTER_LOAD (R649). -/
def execClusterLoad (r : CmdRef) (s : State) : Res :=
  runRow 0x60 r s fun t s =>
    let k := fld (word t 1) 3 0
    let n := fld (word t 1) 48 32
    checked t (clusterLoadChecks t s) s fun s =>
      finish t okay (modCompany t.company (fun x => { x with programs := kset x.programs k (slice (hostArray t 0) 0 n) }) s)

end Sys2Proof.Machine
end

