-- ==== Sys2Proof/Machine/Intake.lean ====
section
/-!
DEFINITION. Doorbells and packet intake (R533 to R547, R577, R578, R69, R73, R75, R137), the host arrays that commands
read, and the dispatch of fenced commands.
-/
namespace Sys2Proof.Machine
open Sys2Proof

/-! Doorbells. -/

/-- Set the submission tail of a queue, unless it is not below the ring size (R539, R541). -/
def setTail (qn v : Nat) (s : State) : State :=
  match queue s qn with
  | none => s
  | some q =>
    if q.sqSize ≤ v then modPerf2 (fun p => { p with badDoorbells := satInc p.badDoorbells }) s
    else modQueue qn (fun q => { q with sqTail := v }) s

/-- Set the completion head; spilled completions move to the entries that come free (R138, R539, R541, R552). -/
def setCqHead (qn v : Nat) (s : State) : State :=
  match queue s qn with
  | none => s
  | some q =>
    if q.cqSize ≤ v then modPerf2 (fun p => { p with badDoorbells := satInc p.badDoorbells }) s
    else drainSpill qn q.spill.length (modQueue qn (fun q => { q with cqHead := v }) s)

/-- DOORBELL: a write of QDB_q by the queue's host agent; any other agent's is ignored (R539 to R541, R571, R578). -/
def execDoorbell (a q : Nat) (part : Part) (v : Word64) (s : State) : Res :=
  if !(decide (a < 32) && decide (q < 4096)) then .fault .noSuchThing else
  if !ioServed s a || (queue s q).isNone || queueAgent s q != a then .next s else
  match part with
  | .lo => .next (setTail q (fld v 15 0) s)
  | .hi => .next (setCqHead q (fld v 15 0) s)
  | .full => .next (setCqHead q (fld v 47 32) (setTail q (fld v 15 0) s))

/-! Which queue is taken in from. -/

/-- Published slots (R542). -/
def published (q : Queue) : Nat := (q.sqTail + q.sqSize - q.head) % q.sqSize

/-- Can a completion entry be reserved, in the ring or the overflow area of 131,072 entries (R137)? -/
def canReserve (s : State) (qn : Nat) (q : Queue) : Bool :=
  decide ((q.cqTail + q.cqSize - q.cqHead) % q.cqSize + q.spill.length
    + (s.taken.filter (·.queue == qn)).length < q.cqSize - 1 + 131072)

/-- A queue has a published packet, as far as the device knows: at least one slot, and every slot of a packet whose
header it has read (R543). -/
def hasPacket (q : Queue) : Bool := decide (0 < published q) && decide (q.needs ≤ published q)

/-- Bus mastering is enabled for the agent's logical device. -/
def mastering (s : State) (a : Nat) : Bool := bit (port s (agentPort s a)).busMaster (agentLd s a)

/-- The admin queue is served (R73): from the start of TRIM, or with fw_slot 3 from the end of FUSE, once the port link
is up and bus mastering is enabled; a sanitize stops it with every other queue (R796). -/
def adminServed (s : State) (q : Queue) : Bool :=
  q.enabled && !(s.dev.forceRestart && s.flash.marker) && ioServed s q.agent && mastering s q.agent && !s.pwr.safeOff && !s.dev.flushed
  && (decide (2 ≤ s.dev.dawnPhase.toNat) || (s.dev.fwSlot == 3 && s.dev.dawnPhase == 1 && s.dev.stopped))

def adminReady (s : State) : Bool :=
  match queue s 0 with
  | none => false
  | some q => adminServed s q && hasPacket q && canReserve s 0 q

/-- A flush or deletion of the queue has been taken in and has yet to act: it takes effect at its intake, so the queue takes in nothing
before it has (R562, R564, R571). -/
def flushAhead (s : State) (qn : Nat) : Bool :=
  s.taken.any fun t => (t.opcode == 0x51 || t.opcode == 0x52) && !t.running && fld (word t 1) 11 0 == qn && t.queue != qn
    && (t.queue == 0 || t.company == queueCompany s qn)

/-- An I/O queue may take in: curtain up (R69), no orderly shutdown (R75), not quiesced (R658), not FAILED (R811), no wait, start condition
or deletion holding it (R555, R564, R748), no flush ahead (R562), rings good (R780), completion space (R137). -/
def ioReady (s : State) (qn : Nat) : Bool :=
  match queue s qn with
  | none => false
  | some q =>
    qn != 0 && s.dev.curUp && !s.dev.shutdownReq && !quiesced s && !s.dev.flushed && healthState s != 3
    && ioServed s q.agent
    && mastering s q.agent && q.wait.isNone && q.deleting.isNone && !q.ringsBad
    && !s.taken.any (fun t => t.queue == qn && t.opcode == 0x53) && !flushAhead s qn && hasPacket q && canReserve s qn q

/-- The I/O queue whose turn it is: each in increasing number, at most 8 packets a turn (R545). -/
def turnOf (s : State) : Option Nat :=
  if ioReady s s.turn.1 && s.turn.2 < 8 then some s.turn.1 else
  let ready := (s.queues.map (·.1)).filter (ioReady s)
  match ready.find? fun k => decide (s.turn.1 < k) with
  | some k => some k
  | none => ready.head?

def mayTake (s : State) (q : Nat) : Bool := if q == 0 then adminReady s else !adminReady s && turnOf s == some q

/-! The checks of R8 and R534. -/

def bothOps : List Nat := [0x01, 0x02, 0x03, 0x04, 0x05, 0x7F, 0x52]
def adminOnlyOps : List Nat :=
  [0x09, 0x08, 0x0A, 0x10, 0x11, 0x18, 0x19, 0x50, 0x51, 0x78, 0x79, 0x7A, 0x7C, 0x7D, 0x7E]
def ioOnlyOps : List Nat :=
  [0x20, 0x21, 0x22, 0x28, 0x29, 0x2A, 0x2B, 0x30, 0x31, 0x32, 0x33, 0x38, 0x39, 0x3A, 0x40, 0x41, 0x42, 0x48, 0x49,
   0x53, 0x58, 0x59, 0x60, 0x61, 0x62]
/-- What a transport queue takes (R746). -/
def transportOps : List Nat := [0x01, 0x7F, 0x52, 0x53, 0x58, 0x59]

/-- A device-wide feature (R535). -/
def deviceFeature (f : Nat) : Bool := f == 1 || f == 2 || (0x30 ≤ f && f ≤ 0x33)

/-- Is the opcode taken on this queue (R533, R535, R746)? -/
def opcodeTaken (qn : Nat) (q : Queue) (op : Nat) (w0 : Word64) : Bool :=
  if qn == 0 then bothOps.contains op || adminOnlyOps.contains op
  else (bothOps.contains op || ioOnlyOps.contains op) && (!q.transport || transportOps.contains op)
    && !(op == 0x04 && deviceFeature (fld w0 63 48))

/-- Slots of a command (R582, R624). -/
def slotsOf (op : Nat) : Nat := if op == 0x40 || op == 0x41 || op == 0x49 then 2 else if op == 0x61 then 4 else 1

/-- A command or setting that needs an absent unit (R11), as far as its packet shows it; a CUE or DELIVER with a
Stagehand destination shows it in its list. -/
def unitAbsent (s : State) (t : Taken) : Bool :=
  let f := fld (word t 0) 63 48
  match t.opcode with
  | 0x41 | 0x42 => !hasPrompter s
  | 0x04 => ((f == 0x20 || f == 0x21) && !hasPrompter s) || (0x30 ≤ f && f ≤ 0x33 && !hasEth s)
  | 0x58 | 0x59 => !hasStagehand s
  | 0x50 => bit (word t 1) 16 && !hasStagehand s
  | 0x49 => bit (word t 2) 50 && !hasStagehand s
  | 0x08 => fld (word t 2) 15 0 != 0 && !hasStagehand s
  | 0x0A => bit (word t 2) 32 && !hasStagehand s
  | _ => false

/-- On a part without Stagehand the list of a CUE or DELIVER shows whether the command needs it, and that check comes before every other
one but opcode and slot count (R8, R11): the list is read first. -/
def unitInList (s : State) (t : Taken) : Bool := (t.opcode == 0x38 || t.opcode == 0x39) && !hasStagehand s

/-- The checks at intake, in the order of R8, then R534. -/
def intakeCheck (s : State) (q : Queue) (t : Taken) : Chk :=
  if !opcodeTaken t.queue q t.opcode (word t 0) then some { badAt 0 0 with status := 0x101 }
  else if t.words.length != 8 * slotsOf t.opcode then some { badAt 8 0 with status := 0x103 }
  else if unitAbsent s t then some (status 0x104)
  else if t.queue != 0 && t.company != q.company && !unitInList s t then some (status 0x202)
  else none

/-- A command that intake passes on, with the refusal that its list may still precede (R8). -/
def takenIn (s : State) (q : Queue) (t : Taken) : Taken :=
  if t.queue != 0 && t.company != q.company && unitInList s t then { t with refused := some 0x202 } else t

/-! Host arrays. -/

/-- Bytes of the queries of an ATTEND, with the row scales of FP8 queries (R360), for the model of the streams. -/
def queryBytes (m : Model) (n g r qType : Nat) : Nat :=
  let rows := n * (m.heads * g) * r
  rows * m.dim * (if qType == 2 then 1 else 2) + (if qType == 2 then rows * 4 else 0)

/-- The model of the first stream of a length table. -/
def lengthModel (t : Taken) (s : State) (b : List Byte) : Model :=
  match streamAt t s (leAt b 0 4) with
  | some v => modelD s v.model
  | none => modelD s 64

/-- What a command reads of host memory next, in packet order: (address, bytes). WEIGHTS_LOAD reads its sizes before its
data; ATTEND and ATTEND_SPARSE read their length table before the arrays whose sizes it settles. -/
def nextReads (t : Taken) (s : State) : List (Nat × Nat) :=
  let w := fun k => (word t k).toNat
  let stage := t.arrays.length
  let n := fld (word t 1) 31 16
  let m := lengthModel t s (hostArray t 0)
  let qb := queryBytes m n (fld (word t 2) 4 0) (fld (word t 2) 11 8) (fld (word t 2) 17 16)
  match t.opcode, stage with
  | 0x04, 0 => if featureData t == 0 then [] else [(w 2, featureData t)]
  | 0x0A, 0 => [(w 1, low (word t 2))]
  | 0x28, 0 => [(w 2, 8 * low (word t 3))]
  | 0x29, 0 =>
    let mo := modelD s (((openStream s t.company (low (word t 1))).map (·.model)).getD 64)
    let start := high (word t 1)
    let count := low (word t 2)
    let touched := if count == 0 then 0 else (start + count - 1) / 16 - start / 16 + 1
    let ended := (start + count) / 16 - start / 16
    [(w 3, touched * sceneBytes mo), (w 4, 8 * count)]
    ++ (if bit (word t 2) 34 && ended * mo.layers != 0 then [(w 5, ended * mo.layers * 32)] else [])
  | 0x38, 0 | 0x39, 0 => [(w 1, 32 * (fld (word t 2) 49 48 + fld (word t 2) 43 32 + 2))]
  | 0x40, 0 | 0x41, 0 => [(w 4, 16 * n)]
  | 0x40, 1 => [(w 5, qb)]
  | 0x41, 1 => [(w 5, qb), (w 10, 32 * n)]
  | 0x42, 0 => [(w 2, 16 * fld (word t 1) 47 32), (w 3, 32 * fld (word t 1) 47 32)]
  | 0x48, 0 => if fld (word t 2) 10 0 == 0 then [] else [(w 3, 8 * fld (word t 2) 10 0)]
  | 0x48, 1 => [(w 4, (layerSizes (hostArray t 0) (fld (word t 2) 10 0)).sum)]
  | 0x58, 0 => if fld (word t 2) 63 60 == 1 && !bit (word t 1) 32 then [(w 3, low (word t 6))] else []
  | 0x60, 0 => [(w 2, fld (word t 1) 48 32)]
  | 0x7C, 0 => [(w 4, w 3)]
  | _, _ => []

/-- A command whose packet shows that it needs a present unit that has failed (R824). -/
def needFailed (t : Taken) (s : State) : Chk :=
  let f := fld (word t 0) 63 48
  match t.opcode with
  | 0x41 | 0x42 => unitFailed s true
  | 0x04 => if f == 0x20 || f == 0x21 then unitFailed s true else none
  | 0x58 | 0x59 => unitFailed s false
  | 0x49 => if bit (word t 2) 50 then unitFailed s false else none
  | _ => none

/-- The reads are sent only when the command passes its general checks and its rule table allows them; otherwise the
command needs no array to find how it fails. -/
def wantReads (t : Taken) (s : State) : List (Nat × Nat) :=
  if !unitInList s t && ((generalCheck t s).isSome || (needFailed t s).isSome || (opcodeCheck t s).isSome) then [] else
  let l := nextReads t s
  if l.all fun p => p.2 != 0 && !wraps p.1 p.2 &&
      (tableRefused (tableFor t (checkCompany t) s) 0 0 1 (queueAgent s t.queue) p.1 p.2).isNone
  then l else []

/-- Scene items of a cue list as read, or layers of a WEIGHTS_STREAM, where the miss bitmap's address is one that the command may write
(R333). -/
def itemsKnown (t : Taken) (s : State) : Option Nat :=
  let b := t.arrays.headD []
  let ofList := ((upto (fld (word t 2) 43 32 + 1)).map fun k =>
    let r := slice b (32 * (fld (word t 2) 49 48 + 1 + k)) 32
    if leAt r 3 1 == 0 then leAt r 8 2 + 1 else 1).sum
  let which := match t.opcode with
    | 0x38 | 0x39 => if b.isEmpty then none else some (ofList, (word t 5).toNat)
    | 0x49 => some (fld (word t 2) 31 16, (word t 10).toNat)
    | _ => none
  match which with
  | none => none
  | some (n, a) =>
    let size := (n + 63) / 64 * 8
    if a == 0 || a % 8 != 0 || wraps a size
      || (tableRefused (tableFor t (checkCompany t) s) 0 0 2 (queueAgent s t.queue) a size).isSome then none else some n

/-- Send a command's next host reads, or find that it has read all it needs, its list among it, and with that which scenes it reads
(R179, R322). -/
def startReads (t : Taken) (s : State) : State :=
  let l := wantReads t s
  let t' := { t with want := l, fetched := l.isEmpty, readAt := now s }
  let t' := { t' with items := itemsKnown t' s }
  let t' := { t' with reads := if l.isEmpty && chainOps.contains t.opcode && t.reads.isEmpty then scenesRead t' else t.reads }
  let s := { s with taken := s.taken.map fun u => if u.seq == t.seq then t' else u }
  l.foldl (fun s p => emit (.hostRead (queueAgent s t.queue) p.1 p.2) (dma (queueAgent s t.queue) p.2 s)) s

/-! PACKET_INTAKE. -/

def chainsNow (s : State) (c : Nat) : KMap (List SceneId) :=
  (s.store.streams.filter fun p => p.2.company == c).map fun p => (p.1, p.2.chain)

/-- The scenes that PIN, PLACE or MIGRATE names hold references from intake (R179, R224, R627, R662). -/
def namedAtIntake (t : Taken) : List SceneId :=
  if t.opcode == 0x30 then
    if bit (word t 1) 32 then
      ((chainAt t (low (word t 1))).drop (fld (word t 2) 31 16)).take (fld (word t 2) 15 0 + 1)
    else [idOf (word t 2) (word t 3)]
  else if t.opcode != 0x32 && t.opcode != 0x33 then [] else
  match fld (word t 1) 63 60 with
  | 0 => [idOf (word t 2) (word t 3)]
  | 1 => chainAt t (low (word t 1))
  | _ => []

/-- The weight sets by name that a command reads as they are current at its intake (R663). -/
def setNames (t : Taken) : List Nat :=
  match t.opcode with
  | 0x49 => [(word t 1).toNat]
  | 0x58 => if fld (word t 2) 63 60 == 2 then [(word t 3).toNat] else []
  | 0x61 => ((upto 8).filter fun b => bufKind t b == 2).map fun b => (word t (bufWord b)).toNat
  | _ => []

/-- The command of a packet. -/
def takenOf (s : State) (q : Nat) (words : List Word64) : Taken :=
  let w0 := words.headD 0
  let company := fld w0 15 10
  let op := fld w0 7 0
  let t : Taken :=
    { queue := q, tag := fld w0 31 16, company := company, opcode := op, words := words,
      fence := bit w0 33, urgent := bit w0 32, seq := s.nextSeq,
      time := now s, dispatched := !(bit w0 33 && s.taken.any (·.queue == q)), fetched := false, arrays := [], want := [],
      readAt := now s, refused := refusedAt s op words, running := false, reads := [], sets := []
      chains := if chainOps.contains op then chainsNow s company else [], budget := stageBudget s
      image := if op == 0x61 then (companyOf s company).bind fun k => kget k.programs (fld (words.getD 1 0) 3 0) else none
      cancelled := false, items := none
      table := if op == 0x41 then ownTable s company (fld (words.getD 9 0) 3 0)
               else if op == 0x42 then ownTable s company (fld (words.getD 1 0) 3 0) else none
      ptm :=
        let p := port s (agentPort s (queueAgent s q))
        if p.ptmValid then some p.ptmOfs else none }
  { t with reads := namedAtIntake t, sets := (setNames t).filterMap fun n => (findWeights s company n).map (·.setNum) }

/-- The head moves past the packet, and the turn is counted (R536, R537, R545). -/
def advance (qn slots : Nat) (s : State) : State :=
  let s := modQueue qn (fun q => { q with head := (q.head + slots) % q.sqSize, needs := 1 }) s
  let turn := if qn == 0 then s.turn else if s.turn.1 == qn && s.turn.2 < 8 then (qn, s.turn.2 + 1) else (qn, 1)
  { s with nextSeq := s.nextSeq + 1, turn := turn }

/-- PACKET_INTAKE: the next packet of queue q, whose published slots hold `words`, is taken in (R8, R533 to R537, R543,
R545, R546). A packet whose later slots are not yet published waits. -/
def execPacketIntake (qn : Nat) (words : List Word64) (s : State) : Res :=
  let slots := fld (words.headD 0) 9 8 + 1
  match queue s qn with
  | none => .next s
  | some q =>
    if words.length < 8 then .fault .noSuchThing
    else if !mayTake s qn then .next s
    else if published q < slots then .next (modQueue qn (fun q => { q with needs := slots }) s)
    else if words.length != 8 * slots then .fault .noSuchThing
    else
      let t := takenOf s qn words
      let s := dma q.agent (64 * slots) (advance qn slots s)
      match intakeCheck s q t with
      | some c => .next (settle (completeWait t (t.opcode == 0x53 && bit (word t 1) 32) c s))
      | none =>
        let t := takenIn s q t
        .next (startReads t { s with taken := s.taken ++ [t] })

/-- FENCED_DISPATCH: every earlier packet of the queue has completed (R547). -/
def execFencedDispatch (r : CmdRef) (s : State) : Res :=
  match s.taken.find? fun t => t.queue == r.queue && t.tag == r.tag && !t.dispatched with
  | none => .next s
  | some t =>
    if s.taken.any fun u => u.queue == t.queue && decide (u.seq < t.seq) then .next s
    else .next { s with taken := s.taken.map fun u => if u.seq == t.seq then { u with dispatched := true } else u }

/-- A command whose host arrays are being read. -/
def reading (r : CmdRef) (s : State) : Option Taken :=
  s.taken.find? fun t => t.queue == r.queue && t.tag == r.tag && !t.fetched

/-- A command that waits for the reads of the last addresses it wrote (R325). -/
def closing (r : CmdRef) (s : State) : Option (Taken × Completion × List Nat) :=
  (s.taken.find? fun t => t.queue == r.queue && t.tag == r.tag && khas s.work.flushes t.seq).bind fun t =>
    (kget s.work.flushes t.seq).map fun p => (t, p)

/-- The operation of a delivery command is over. -/
def dropDelivery (seq : Nat) (s : State) : State :=
  modWork (fun w => { w with cues := w.cues.filter (·.seq != seq), wstreams := w.wstreams.filter (·.seq != seq) }) s

/-- HOST_READ_COMPLETION: the arrays that the command's outstanding reads return, each of the length asked for; the reads of the
last addresses written complete a delivery (R325). -/
def execHostReadCompletion (r : CmdRef) (arrays : List (List Byte)) (s : State) : Res :=
  match reading r s with
  | some t =>
    if arrays.map (·.length) != t.want.map (·.2) then .next s
    else .next (startReads { t with arrays := t.arrays ++ arrays } s)
  | none =>
    match closing r s with
    | none => .next s
    | some (t, c, _) =>
      if arrays.map (·.length) != t.want.map (·.2) then .next s else .next (finish t c (dropDelivery t.seq s))

/-- A host read has timed out on a port (R706). -/
def readTimedOut (p : Nat) (s : State) : State :=
  emit (.aer p) (modPort p (fun x => { x with perfCto := satInc x.perfCto }) s)

/-- HOST_READ_TIMEOUT: 50 ms without a completion end the command with ABORTED_RESET (R706). -/
def execHostReadTimeout (r : CmdRef) (s : State) : Res :=
  match reading r s with
  | some t =>
    if now s < t.readAt + 50000000 then .next s
    else .next (settle (abortUnrun 0x602 t (readTimedOut (agentPort s (queueAgent s t.queue)) s)))
  | none =>
    match closing r s with
    | none => .next s
    | some (t, _, agents) =>
      if now s < t.readAt + 50000000 then .next s
      else .next (settle (abortOne 0x602 t (readTimedOut (agentPort s (agents.headD 0)) s)))

end Sys2Proof.Machine
end

