-- ==== Sys2Proof/Machine/Queues.lean ====
section
/-!
DEFINITION. The queue commands and what happens to queues: QUEUE_CREATE, QUEUE_DELETE, QUEUE_FLUSH, QUEUE_WAIT (R530,
R531, R555 to R564, R579, R643 to R646, R746, R748), the enable bit of the admin queue (R570), and completion
interrupts (R567, R568).
-/
namespace Sys2Proof.Machine
open Sys2Proof

/-! QUEUE_CREATE. -/

/-- Two byte ranges of one agent's memory meet. -/
def meets (a n b k : Nat) : Bool := decide (a < b + k) && decide (b < a + n)

/-- Does a completion ring lie within another queue's ring, or its own submission ring (R579)? -/
def ringTaken (s : State) (ag cq cqLen sq sqLen : Nat) : Bool :=
  meets cq cqLen sq sqLen ||
  s.queues.any fun p => p.2.agent == ag
    && (meets cq cqLen p.2.sqBase (64 * p.2.sqSize) || meets cq cqLen p.2.cqBase (32 * p.2.cqSize))

/-- The ring regions, checked against the queue company's table (R531, R769). -/
def ringCheck (k : RuleTable) (ag sq sqLen cq cqLen : Nat) : Chk :=
  match tableRefused k 0 0 1 ag sq sqLen with
  | some a => some (refuse { kind := 0, right := 1, scope := ag, addr := sq, len := sqLen, idx := 0, loc := atBit 128 } a)
  | none =>
    match tableRefused k 0 0 2 ag cq cqLen with
    | some a => some (refuse { kind := 0, right := 2, scope := ag, addr := cq, len := cqLen, idx := 0, loc := atBit 192 } a)
    | none => none

/-- The fields of a QUEUE_CREATE packet. -/
structure CreateArgs where
  num    : Nat
  kind   : Bool
  agent  : Nat
  sqSize : Nat
  cqSize : Nat
  sq     : Nat
  cq     : Nat
  conn   : Nat
  start  : Nat
  count  : Nat

def createArgs (t : Taken) : CreateArgs :=
  let w := word t 1
  { num := fld w 11 0, kind := bit w 16, agent := fld w 28 24, sqSize := 64 * 2 ^ fld w 35 32,
    cqSize := 64 * 2 ^ fld w 39 36, sq := (word t 2).toNat, cq := (word t 3).toNat, conn := fld (word t 5) 23 0,
    start := fld (word t 6) 11 0, count := (word t 7).toNat }

/-- The connection of a transport queue belongs to the queue's company (R746). -/
def connOwned (s : State) (c k : Nat) : Bool := ((kget s.conns k).map fun x => x.company == c).getD false

/-- A start queue must be an I/O queue of the company with no unmet start condition of its own (R748). -/
def startBad (s : State) (c x : Nat) : Bool :=
  x != 0 && match queue s x with
    | none => true
    | some q => q.company != c || q.wait.any fun w => !w.posts

def createBad (t : Taken) (a : CreateArgs) (s : State) : Chk :=
  let c := t.company
  let one := fun n => if a.kind then n else 0
  badFields (reservedBad t [0, bits 58 48 + bits 39 32 + bits 28 24 + bits 16 16 + bits 11 0, bits 63 0, bits 63 0,
      bits 15 0, one (bits 23 0), one (bits 11 0), one (bits 63 0)] ++
    bads [((companyOf s c).isNone || ((companyOf s c).map (·.dying)).getD false, 10, 0),
      (a.num == 0 || (queue s a.num).isSome, 64, 0),
      (!agentExists s a.agent || (agent s a.agent).company != c, 88, 0),
      (10 < fld (word t 1) 35 32, 96, 0), (10 < fld (word t 1) 39 36, 100, 0),
      (a.sq % 4096 != 0 || wraps a.sq (64 * a.sqSize), 128, 0),
      (a.cq % 4096 != 0 || wraps a.cq (32 * a.cqSize)
        || ringTaken s a.agent a.cq (32 * a.cqSize) a.sq (64 * a.sqSize), 192, 0),
      (a.kind && !connOwned s c a.conn, 320, 0), (a.kind && startBad s c a.start, 384, 0)])

/-- Queues of a company other than the admin queue. -/
def ioQueues (s : State) (c : Nat) : Nat := (s.queues.filter fun p => p.1 != 0 && p.2.company == c).length

/-- A new queue starts empty with phase 1 (R550). -/
def newQueue (t : Taken) (a : CreateArgs) (s : State) : Queue :=
  { Queue.fresh with
    transport := a.kind, agent := a.agent, company := t.company, sqBase := a.sq, sqSize := a.sqSize, cqBase := a.cq
    cqSize := a.cqSize, vector := fld (word t 1) 58 48, aggCount := fld (word t 4) 7 0, aggTime := fld (word t 4) 15 8
    conn := if a.kind then a.conn else 0
    wait := if a.kind && a.start != 0 then
        some { tag := 0, target := a.start, count := a.count, until_ := none, abort := true, since := now s, posts := false }
      else none
    enabled := true }

/-- The checks of QueueCreate, in their order (R583). -/
def queueCreateChecks (t : Taken) (s : State) : List Chk :=
  let a := createArgs t
  let c := t.company
  [(if a.kind then unitFailed s false else none), generalCheck t s, createBad t a s, opcodeCheck t s,
    ringCheck (tableFor t c s) a.agent a.sq (64 * a.sqSize) a.cq (32 * a.cqSize),
    (if c == 0 then none else roomCheck .wings c overflowBytes s),
    (if c == 0 && 127 ≤ ioQueues s 0 then some (status 0x302) else none)]

/-- QUEUE_CREATE (R530, R531, R550, R579, R643, R746, R748). -/
def execQueueCreate (r : CmdRef) (s : State) : Res :=
  runRow 0x50 r s fun t s =>
    let a := createArgs t
    let c := t.company
    checked t (queueCreateChecks t s) s fun s =>
      inRoomMade t s (if c == 0 then some s else makeRoom .wings c overflowBytes s) fun s =>
      finish t okay { s with queues := kset s.queues a.num (newQueue t a s) }

/-! QUEUE_DELETE and QUEUE_FLUSH. -/

/-- The target of a flush or deletion: an I/O queue other than its own, in use. -/
def targetBad (t : Taken) (s : State) : Bool :=
  let y := fld (word t 1) 11 0
  y == 0 || y == t.queue || (queue s y).isNone

/-- The checks of QueueDelete, in their order (R583). -/
def queueDeleteChecks (t : Taken) (s : State) : List Chk :=
  [generalCheck t s,
    badFields (reservedBad t [0, bits 11 0] ++ bads [(targetBad t s, 64, 0)]),
    opcodeCheck t s]

/-- QUEUE_DELETE acts as a flush and deletes the queue once its commands have completed (R564, R644). -/
def execQueueDelete (r : CmdRef) (s : State) : Res :=
  runRow 0x51 r s fun t s =>
    let y := fld (word t 1) 11 0
    checked t (queueDeleteChecks t s) s fun s =>
      let s := modQueue y (fun q => { q with deleting := some t.seq }) (setRunning t.seq s)
      let (s, slots, n) := flushQueue y 0x601 t.seq s
      settle (modWork (fun w => { w with drains := kset w.drains t.seq (okWith (w64 slots) (w64 n) 0) }) s)

/-- The checks of QueueFlush, in their order (R583). -/
def queueFlushChecks (t : Taken) (s : State) : List Chk :=
  let y := fld (word t 1) 11 0
  [generalCheck t s,
    badFields (reservedBad t [0, bits 11 0] ++ bads [(targetBad t s, 64, 0)]),
    (if t.queue != 0 && queueCompany s y != t.company then some (status 0x202) else none),
    opcodeCheck t s]

/-- QUEUE_FLUSH (R562, R563, R571 to R574, R645). -/
def execQueueFlush (r : CmdRef) (s : State) : Res :=
  runRow 0x52 r s fun t s =>
    let y := fld (word t 1) 11 0
    checked t (queueFlushChecks t s) s fun s =>
      let (s, slots, n) := flushQueue y 0x601 t.seq (setRunning t.seq s)
      let head := ((queue s y).map (·.head)).getD 0
      settle (modWork (fun w => { w with drains := kset w.drains t.seq (okWith (w64 slots) (w64 head) (w64 n)) }) s)

/-! QUEUE_WAIT. -/

/-- The checks of QueueWait, in their order (R583). -/
def queueWaitChecks (t : Taken) (s : State) : List Chk :=
  let x := fld (word t 1) 11 0
  let absent := (queue s x).isNone
  [generalCheck t s,
    badFields (reservedBad t [0, bits 32 32 + bits 11 0, bits 63 0, bits 63 0] ++
      bads [(x == 0 || x == t.queue, 64, 0), (absent, 64, 1)]),
    (if queueCompany s x != t.company then some (status 0x202) else none),
    opcodeCheck t s]

/-- QUEUE_WAIT (R555 to R558, R646). A target that does not exist acts as one deleted (R557). -/
def execQueueWait (r : CmdRef) (s : State) : Res :=
  runRow 0x53 r s fun t s =>
    let x := fld (word t 1) 11 0
    let limit := (word t 3).toNat
    match firstOf (queueWaitChecks t s) with
    | some c => settle (completeWait t (bit (word t 1) 32) c s)
    | none =>
      let w : QWait :=
        { tag := t.tag, target := x, count := (word t 2).toNat,
          until_ := if limit == 0 then none else some (t.time + limit),
          abort := bit (word t 1) 32, since := t.time, posts := true }
      settle (modQueue t.queue (fun q => { q with wait := some w }) (setRunning t.seq s))

/-- QUEUE_WAIT_TIMEOUT: the wait's time is up (R557, R558). -/
def execQueueWaitTimeout (r : CmdRef) (s : State) : Res :=
  match findRunning 0x53 r s, (queue s r.queue).bind (·.wait) with
  | some _, some w =>
    match w.until_ with
    | some d =>
      if now s < d then .next s else
      .next (settle (endWait r.queue w
        { status 0x403 with r0 := w64 (((queue s w.target).map (·.compCount)).getD 0) } s))
    | none => .next s
  | _, _ => .next s

/-! The admin queue. -/

/-- A size code of QCFG_ACTRL: values above 10 act as 10. -/
def ringSize (code : Nat) : Nat := 64 * 2 ^ min code 10

/-- The admin queue as QCFG gives it, restarted under R550. -/
def adminQueue (s : State) : Queue :=
  let c := s.flash.actrl
  let old := (queue s 0).getD Queue.fresh
  { old with
    agent := c.toNat / 2 ^ 24 % 32, aggCount := c.toNat / 2 ^ 16 % 256, aggTime := c.toNat / 256 % 256
    cqSize := ringSize (c.toNat / 16 % 16), sqSize := ringSize (c.toNat % 16)
    sqBase := s.flash.asq.toNat, cqBase := s.flash.acq.toNat
    sqTail := 0, head := 0, cqHead := 0, cqTail := 0, phase := true, intCount := 0, intFirst := none, intDue := false
    enabled := bit c 31, needs := 1 }

def restartAdmin (s : State) : State := { s with queues := kset s.queues 0 (adminQueue s) }

/-- Fields of QCFG_ACTRL that a write reaches. -/
def actrlMask : BitVec 32 := 0x9FFFFFFF

/-- An agent whose register writes are the owner's (R77). -/
def ownerAgent (s : State) (a : Nat) : Bool := ioServed s a && (agent s a).company == 0

/-- ADMIN_QUEUE_ENABLE: QCFG_ACTRL.enable goes from 0 to 1; the other fields apply first, and the queue restarts
(R550, R570). -/
def execAdminQueueEnable (a : Nat) (v : Word32) (s : State) : Res :=
  if 32 ≤ a then .fault .noSuchThing
  else if !ownerAgent s a || bit s.flash.actrl 31 || !bit v 31 then .next s
  else .next (restartAdmin { s with flash := { s.flash with actrl := v &&& actrlMask } })

/-- ADMIN_QUEUE_DISABLE: a write that clears enable stops admin intake and changes no other field (R570). -/
def execAdminQueueDisable (a : Nat) (v : Word32) (s : State) : Res :=
  if 32 ≤ a then .fault .noSuchThing
  else if !ownerAgent s a || !bit s.flash.actrl 31 || bit v 31 then .next s
  else .next (modQueue 0 (fun q => { q with enabled := false })
    { s with flash := { s.flash with actrl := s.flash.actrl &&& 0x7FFFFFFF } })

/-! Completion interrupts. -/

/-- An interrupt of the queue is due (R567). -/
def interruptDue (s : State) (q : Queue) : Bool :=
  decide (0 < q.intCount) &&
  (q.intDue || decide (q.aggCount < q.intCount) ||
   (q.intFirst.map fun d => decide (d + 1000 * q.aggTime ≤ now s)).getD false)

/-- COMPLETION_INTERRUPT: one MSI-X message after the entries it covers, under the mask of its vector; the count restarts (R567 to
R569). -/
def execCompletionInterrupt (qn : Nat) (s : State) : Res :=
  match queue s qn with
  | none => .next s
  | some q =>
    if !interruptDue s q then .next s else
    .next (sendMsix q.agent q.vector
      (modQueue qn (fun q => { q with intCount := 0, intFirst := none, intDue := false }) s))

end Sys2Proof.Machine
end

