-- ==== Sys2Proof/Machine/Arbiters.lean ====
section
/-!
DEFINITION. Arbiters (R122 to R133, R142 to R149) and event interrupts (R851, R852, R863 to R867).

A request that raises and wins within one command is no step of its own: a row names a requester that waits, the drain class of
its item (R134), and what has passed at the instance since its last row, so bursts are held and counted across rows
(notes/assumptions/14.md).
-/
namespace Sys2Proof.Machine
open Sys2Proof

/-- Instances of each class (R122). -/
def instances (cls : Nat) : Nat := [256, 32, 1408, 12, 16, 1].getD cls 0

def arbKey (cls inst : Nat) : Nat := cls * 65536 + inst
def arbiter (s : State) (cls inst : Nat) : Arbiter := kgetD s.arb.arb (arbKey cls inst) Arbiter.fresh
def modArb (cls inst : Nat) (f : Arbiter → Arbiter) (s : State) : State :=
  { s with arb := { s.arb with arb := kmodD s.arb.arb (arbKey cls inst) Arbiter.fresh f } }
def arbCtrl (s : State) (cls : Nat) : Word64 := s.arb.ctrl.getD cls 0

/-- Fields of an ARB control register. -/
def starveFlags (c : Word64) : Bool := bit c 16
def quotaOf (c : Word64) : Nat := fld c 31 24 + 1
def burstOf (c : Word64) : Nat := if bit c 0 then max 1 (fld c 15 8) else 1
/-- Back-off after the n-th loss in a row, in beats (R127). -/
def backoffBeats (c : Word64) (n : Nat) : Nat := min 4096 ((fld c 7 2 + 1) * 2 ^ (n - 1))

/-- A present class: the Prompter's arbiter exists only with a Prompter (R12). -/
def classPresent (s : State) (cls : Nat) : Bool := decide (cls < 6) && (cls != 5 || hasPrompter s)

/-- A requester that waits: its request is raised, or withdrawn for a back-off (R127, R128). -/
def inWait (r : ArbReq) : Bool := r.raised || r.losses != 0

/-- Masked under QUOTA: it has had its grants of the window while another input waits (R129). -/
def masked (c : Word64) (a : Arbiter) (r : ArbReq) : Bool :=
  !starveFlags c && decide (quotaOf c ≤ r.grants) && a.reqs.any fun x => x.requester != r.requester && inWait x

/-- Distance of a requester after the last winner in round-robin order. The spec gives no order of an arbiter's inputs and no last
winner at reset (R124). DESIGN CHOICE: they are in order of their requester numbers, and the last winner at reset is 0
(notes/assumptions/14.md). -/
def roundPlace (last r : Nat) : Nat := (r + 65536 - last - 1) % 65536

def better (last : Nat) (x y : ArbReq) : Bool :=
  decide (x.cls < y.cls) || (x.cls == y.cls && decide (roundPlace last x.requester < roundPlace last y.requester))

def pickReq (last : Nat) : List ArbReq → Option ArbReq
  | [] => none
  | x :: r => match pickReq last r with
    | none => some x
    | some y => if better last y x then some y else some x

/-- One grant decision: the lowest drain class wins, then round-robin order; every other raised and unmasked request
has lost and backs off (R124 to R127). The winner holds the resource for its burst (R125). -/
def decision (c : Word64) (a : Arbiter) : Arbiter :=
  let open_ := a.reqs.filter fun r => r.raised && !masked c a r
  match pickReq a.last open_ with
  | none => a
  | some w =>
    { reqs := a.reqs.map fun r =>
        if r.requester == w.requester then { r with raised := false, losses := 0, grants := r.grants + 1, flagged := false }
        else if r.raised && !masked c a r then { r with raised := false, losses := r.losses + 1 } else r,
      last := w.requester, held := some (w.requester, burstOf c) }

/-- A free resource is granted; while a burst is held every raised request waits, which is no loss (R126). -/
def grantReq (c : Word64) (a : Arbiter) : Arbiter := if a.held.isSome then a else decision c a

/-- The holder drops its request, and the arbiter decides (R125). -/
def releaseHeld (c : Word64) (a : Arbiter) : Arbiter := decision c { a with held := none }

/-- `n` transfers: after the last of its burst the holder gives the resource up (R125). -/
def transfers (c : Word64) : Nat → Arbiter → Arbiter
  | 0, a => a
  | n + 1, a => transfers c n <| match a.held with
    | none => a
    | some (w, k) => if k ≤ 1 then releaseHeld c a else { a with held := some (w, k - 1) }

/-- What has passed at an instance since its last row. -/
def catchUp (c : Word64) (p : ArbSince) (a : Arbiter) : Arbiter :=
  let a := transfers c p.transfers (grantReq c a)
  if p.dropped && a.held.isSome then releaseHeld c a else a

/-- A requester raises its request: for the item it still waits with, or else for the row's item (R127, R128). -/
def raise (req cls : Nat) (item : Option Nat) (a : Arbiter) : Arbiter :=
  if a.reqs.any fun r => r.requester == req then
    { a with reqs := a.reqs.map fun r =>
        if r.requester != req then r
        else if inWait r then { r with raised := true }
        else { r with raised := true, cls := cls, item := item } }
  else
    let r : ArbReq := { requester := req, cls := cls, raised := true, losses := 0, grants := 0, flagged := false, item := item }
    { a with reqs := a.reqs ++ [r] }

/-- The command of an item is still in flight: an item whose command has ended is withdrawn (R147). -/
def itemStands (s : State) (i : ArbItem) : Bool :=
  match i.cmd with
  | none => true
  | some r => (takenRef s r).isSome

/-- Intake number of an item's command. -/
def itemSeq (s : State) (i : ArbItem) : Option Nat := i.cmd.bind fun r => (takenRef s r).map (·.seq)

/-- An arbiter instance that exists: a mesh router has five outputs (R122). -/
def arbOk (cls inst : Nat) : Bool :=
  decide (cls < 6) && decide (inst < instances cls) && (cls != 2 || decide (inst % 8 < 5))

/-- BACKOFF_EXPIRY: the requester raises its request again; a free resource is granted at once, and a held one at the next
decision (R124 to R127). An item that has been withdrawn raises nothing (R147). -/
def execBackoffExpiry (cls inst req : Nat) (item : ArbItem) (since : ArbSince) (s : State) : Res :=
  if !arbOk cls inst || 65536 ≤ req || 6 ≤ item.cls then .fault .noSuchThing
  else if !classPresent s cls then .next s
  else
    let c := arbCtrl s cls
    .next (modArb cls inst (fun a =>
      let a := catchUp c since a
      if itemStands s item then grantReq c (raise req item.cls (itemSeq s item) a) else a) s)

/-- QUOTA_WINDOW_END: the window's grant counts restart, and inputs it masked take part in the next decision (R129,
R146). -/
def execQuotaWindowEnd (cls inst : Nat) (since : ArbSince) (s : State) : Res :=
  if !arbOk cls inst then .fault .noSuchThing
  else if !classPresent s cls || starveFlags (arbCtrl s cls) then .next s
  else
    let c := arbCtrl s cls
    .next (modArb cls inst (fun a =>
      let a := catchUp c since a
      grantReq c { a with reqs := a.reqs.map fun r => { r with grants := 0 } }) s)

/-- The waiting episode that a flag can be raised for: a requester that waits must not be flagged yet; one that does not wait, and does not
hold the resource, raises its request with the row's item (R128, R130, R147). -/
def mayFlag (s : State) (a : Arbiter) (req : Nat) (item : ArbItem) : Bool :=
  match a.reqs.find? fun r => r.requester == req && inWait r with
  | some r => !r.flagged
  | none => itemStands s item && (a.held.map (·.1)) != some req

/-- STARVATION_FLAG: an input of a FLAG arbiter has waited past S; once in each waiting episode (R130, R147, R148). -/
def execStarvationFlag (cls inst req : Nat) (item : ArbItem) (s : State) : Res :=
  if !arbOk cls inst || 65536 ≤ req || 6 ≤ item.cls then .fault .noSuchThing
  else if !classPresent s cls || !starveFlags (arbCtrl s cls) || !mayFlag s (arbiter s cls inst) req item then .next s
  else
    let mark := fun (a : Arbiter) =>
      let b := if a.reqs.any fun r => r.requester == req && inWait r then a else raise req item.cls (itemSeq s item) a
      { b with reqs := b.reqs.map fun r => if r.requester == req then { r with flagged := true } else r }
    let s := modArb cls inst mark s
    let s := { s with arb := { s.arb with
      starve := s.arb.starve ||| BitVec.ofNat 6 (2 ^ cls)
      src := setAt s.arb.src cls (w32 (inst * 65536 + req)) } }
    .next (postEvent 3 0xFF (w64 (req * 2 ^ 32 + inst * 65536 + cls)) 0 s)

/-- HBM_REFRESH preempts the Wings arbiter of a pseudo-channel; it is no grant, and counts toward no burst or quota
(R131): the arbiter's inputs, counts and holder stay as they are. -/
def execHbmRefresh (stack pc : Nat) (s : State) : Res :=
  onlyIf (decide (stack < 8) && decide (pc < 32)) s

/-! Writes. -/

/-- Fields of an ARB control register that a write reaches. -/
def arbMask : BitVec 64 := 0xFFFFFFFFFF01FFFD

/-- A register after a write that covers part of it (R838). -/
def mergePart (old : Word64) (part : Part) (v : Word64) : Word64 :=
  match part with
  | .lo => (old &&& 0xFFFFFFFF00000000) ||| (v &&& 0xFFFFFFFF)
  | .hi => (old &&& 0xFFFFFFFF) ||| (v <<< 32)
  | .full => v

/-- A write takes effect at each instance's next decision; the window and all grant counts restart (R132, R149). -/
def writeArbCtrl (j : Nat) (part : Part) (v : Word64) (s : State) : State :=
  if !classPresent s j then s else
  let restart := fun (k : Nat) (a : Arbiter) =>
    if k / 65536 == j then { a with reqs := a.reqs.map fun r => { r with grants := 0 } } else a
  { s with arb := { s.arb with
      ctrl := setAt s.arb.ctrl j (mergePart (arbCtrl s j) part v &&& arbMask)
      arb := kmap s.arb.arb restart } }

/-- ARB_CTRL_WRITE, accepted from agents of company 0 alone (R132, R133). -/
def execArbCtrlWrite (a j : Nat) (part : Part) (v : Word64) (s : State) : Res :=
  if 32 ≤ a || 6 ≤ j then .fault .noSuchThing
  else if !ownerAgent s a then .next s
  else .next (writeArbCtrl j part v s)

/-! Event interrupts. -/

/-- The interrupt of event e is due (R851). -/
def eventDue (s : State) (e : Nat) : Bool :=
  !bit s.evt.mask e && bit s.evt.cause e && bit s.evt.fresh e &&
  match kget s.evt.sentAt e with
  | none => true
  | some t => decide (t + 1000 * s.evt.coalUs.toNat ≤ now s)

/-- The agent and vector of event e (EVT_ROUTE_e, R569, R852). -/
def eventRoute (s : State) (e : Nat) : Nat × Nat :=
  let r := s.evt.route.getD e 0
  if bit r 31 then (queueAgent s 0, 0) else (r.toNat / 2 ^ 24 % 32, r.toNat % 2048)

/-- Events 0 to 8 that are due on one route are sent as one message (R852). -/
def dueTogether (s : State) (e : Nat) : List Nat :=
  (upto 9).filter fun k => eventDue s k && eventRoute s k == eventRoute s e

/-- EVENT_INTERRUPT: one MSI-X message, dropped where its agent cannot be reached; it counts as sent (R568, R851, R852, R863 to
R867). -/
def execEventInterrupt (e : Nat) (s : State) : Res :=
  if 9 ≤ e then .fault .noSuchThing
  else if !eventDue s e then .next s
  else
    let es := dueTogether s e
    let (a, v) := eventRoute s e
    let s := sendMsix a v s
    let clear := es.foldl (fun (m : BitVec 9) k => m &&& ~~~ (BitVec.ofNat 9 (2 ^ k))) s.evt.fresh
    .next { s with evt := { s.evt with
      fresh := clear
      sentAt := es.foldl (fun m k => kset m k (now s)) s.evt.sentAt } }

/-! The beat epoch. -/

/-- A changed epoch restarts min_ps and max_ps of every region (R108). -/
def writeEpoch (v : BitVec 8) (s : State) : State :=
  if v == s.perf.beatEpoch then s
  else modPerf (fun p => { p with beatEpoch := v, beatMin := p.beatNow, beatMax := p.beatNow }) s

/-- EPOCH_WRITE (R108). -/
def execEpochWrite (a : Nat) (v : Word32) (s : State) : Res :=
  if 32 ≤ a then .fault .noSuchThing
  else if !ownerAgent s a then .next s
  else .next (writeEpoch (v.truncate 8) s)

end Sys2Proof.Machine
end

