-- ==== Sys2Proof/Machine/Usher.lean ====
section
/-!
DEFINITION. Usher's look-aside buffers (R31, R336 to R339), the pages that commands wait for (R219, R234, R243), the
Stage reservation of a slice (R371, R433), and the consumed counter's window of the atomic region (R690).
-/
namespace Sys2Proof.Machine
open Sys2Proof

/-- Entries of one look-aside buffer. -/
def ulbSize : Nat := 2048

def ulbUnit (s : State) (unit : Nat) : List UlbEntry := kgetD s.ulb unit []

/-- One translation of a scene by a unit: a hit, or a miss whose walk's result is entered, the oldest entry leaving a
full buffer (R337). -/
def usherLookup (unit c : Nat) (id : SceneId) (s : State) : State :=
  let l := ulbUnit s unit
  if l.any fun e => e.company == c && e.scene == id then
    modPerf2 (fun p => { p with ulbHits := satInc p.ulbHits }) s
  else
    let l := (l ++ [{ company := c, scene := id }])
    modPerf2 (fun p => { p with ulbMisses := satInc p.ulbMisses })
      { s with ulb := kset s.ulb unit (l.drop (l.length - ulbSize)) }

/-- The translation mode of a stream under a command's translate field: 1 Usher, 2 descriptor mode (R336). -/
def translateMode (s : State) (field handle : Nat) : Nat :=
  if field == 0 then ((kget s.store.streams handle).map (·.translate)).getD 1 else field

/-- Translate scenes of one entry, in order. -/
def translate (mode unit c : Nat) (ids : List SceneId) (s : State) : State :=
  if mode == 2 then s else ids.foldl (fun s i => usherLookup unit c i s) s

/-- A page can be read by the commands that wait for it: it has a copy above the Loft, or passes through a transient
buffer (R219, R234). -/
def pageReady (s : State) (c : Nat) (what : PageRef) : Bool := pageAbove s c what || s.work.transient.contains (c, what)

/-- Start the Loft read of a page that command q waits for (R243, R314). -/
def wantPage (q c : Nat) (what : PageRef) (s : State) : State :=
  if pageReady s c what then s else askPage (some q) c what false false false false s

/-- A page's bytes. -/
def pageBytes (s : State) (c : Nat) (id : SceneId) (l : Nat) : List Byte := refData s c (.scene id l)

/-- Counter at a window offset (R690). -/
def counterAt (s : State) (woff : Nat) : Word64 := kgetD s.atomics (woff / 8) 0
def setCounter (woff : Nat) (v : Word64) (s : State) : State := { s with atomics := kset s.atomics (woff / 8) v }

/-- A window offset in a company's own region (R690, R691). -/
def ownCounter (c woff : Nat) : Bool := woff / 8192 == c

/-- The physical cluster that serves a logical number (R121). -/
def physOf (s : State) (c : Nat) : Option Nat :=
  s.clusters.findSome? fun p =>
    if (p.2.mapState == 0 || p.2.mapState == 3) && p.2.logical.toNat == c then some p.1 else none

/-- HEALTH_RSV.stage_rows: spare Stage rows used on serving clusters, saturating. -/
def recountRows (s : State) : State :=
  let n := ((s.clusters.filter fun p => p.2.mapState == 0 || p.2.mapState == 3).map (·.2.rowsUsed)).sum
  modHealth (fun h => { h with stageRows := BitVec.ofNat 16 (min 65535 n) }) s

end Sys2Proof.Machine
end

