-- ==== Sys2Proof/Machine/CoreOps.lean ====
section
/-!
DEFINITION. The cluster core of 10_cluster_core.md: registers and predicates (R431), instruction fields (R434, R435),
the working area (R433, R440, R441, R456, R463), counters (R444), faults (R468, R469), and the form that every core
row shares.
-/
namespace Sys2Proof.Machine
open Sys2Proof

/-! Registers. -/

/-- s0 reads 0 (R431). -/
def sreg (k : Core) (r : Nat) : Word64 := if r == 0 then 0 else k.s.getD r 0
/-- A write to s0 is discarded (R431). -/
def setS (r : Nat) (v : Word64) (k : Core) : Core := if r == 0 then k else { k with s := setAt k.s r v }
/-- p0 reads 1 (R431). -/
def preg (k : Core) (n : Nat) : Bool := n == 0 || bit k.p n
def setP (n : Nat) (b : Bool) (k : Core) : Core :=
  if n == 0 then k
  else { k with p := if b then k.p ||| BitVec.ofNat 8 (2 ^ n) else k.p &&& ~~~ (BitVec.ofNat 8 (2 ^ n)) }
/-- The eight predicates as PGET reads them. -/
def predByte (k : Core) : Nat := ((upto 8).map fun n => b2n (preg k n) * 2 ^ n).sum

def nextPc (k : Core) : Core := { k with pc := k.pc + 4 }

/-! Instruction fields. -/

def opOf (w : Word32) : Nat := w.toNat / 2 ^ 26
def fw (w : Word32) (hi lo : Nat) : Nat := w.toNat / 2 ^ lo % 2 ^ (hi + 1 - lo)
def rdOf (w : Word32) : Nat := fw w 21 17
def raOf (w : Word32) : Nat := fw w 16 12
def rbOf (w : Word32) : Nat := fw w 11 7
def fnOf (w : Word32) : Nat := fw w 6 0

/-- An n-bit field sign-extended to 64 bits (R435). -/
def sext (bits n : Nat) : Word64 :=
  if n < 2 ^ (bits - 1) then w64 n else w64 (2 ^ 64 + n - 2 ^ bits)
def imm12 (w : Word32) : Word64 := sext 12 (fw w 11 0)
def imm17 (w : Word32) : Word64 := sext 17 (fw w 16 0)
def off22 (w : Word32) : Word64 := sext 22 (fw w 21 0)

/-! The working area. -/

/-- Byte a of a cluster's working area: where nothing has been stored since run start it is not defined (R463). -/
def areaByte (c : Cluster) (a : Nat) : Byte :=
  match c.workFree with
  | none => Memory.read c.work a
  | some k => ((kget c.work a).getD (Config.freeByte k a))

def areaPut (c : Cluster) (a : Nat) (b : Byte) : Cluster :=
  match c.workFree with
  | none => { c with work := Memory.write c.work a b }
  | some _ => { c with work := Memory.insert c.work a b }

def areaPuts (c : Cluster) : Nat → List Byte → Cluster
  | _, [] => c
  | a, b :: r => areaPuts (areaPut c a b) (a + 1) r

/-- Bytes of a transfer's local source that a store changes before it lands are no longer defined (R456). -/
def touch (a n : Nat) (c : Cluster) : Cluster :=
  { c with xfers := c.xfers.map fun x =>
      if x.kind == .put || x.kind == .moveOut then
        let hit := (upto n).filter fun k => decide (x.here ≤ a + k) && decide (a + k < x.here + x.len)
        { x with touched := x.touched ++ hit.map (fun k => a + k - x.here) }
      else x }

/-- Store bytes into the working area. -/
def areaStore (a : Nat) (d : List Byte) (c : Cluster) : Cluster := touch a d.length (areaPuts c a d)

/-- A transfer in flight is writing byte a, so a read of it is not defined (R456). -/
def landing (c : Cluster) (a : Nat) : Bool :=
  c.xfers.any fun x => (x.kind == .get || x.kind == .moveIn || x.kind == .page) && decide (x.here ≤ a) && decide (a < x.here + x.len)

/-- n bytes as a load at free number k reads them. -/
def areaLoad (c : Cluster) (k a n : Nat) : List Byte :=
  (upto n).map fun i => if landing c (a + i) then Config.freeByte k (a + i) else areaByte c (a + i)

def spend (s : State) : State := { s with free := s.free + 1 }

/-! Runs. -/

def inRun (r : RunOp) (c : Nat) : Bool :=
  decide (r.row0 ≤ c / 10) && decide (c / 10 < r.row0 + r.rows) && decide (r.col0 ≤ c % 10) && decide (c % 10 < r.col0 + r.cols)

/-- The logical clusters of a run, by rank (R461). -/
def runClusters (r : RunOp) : List Nat :=
  (upto r.rows).flatMap fun i => (upto r.cols).map fun j => 10 * (r.row0 + i) + r.col0 + j

def runOf (s : State) (seq : Nat) : Option RunOp := s.work.runs.find? (·.seq == seq)

def modRun (seq : Nat) (f : RunOp → RunOp) (s : State) : State :=
  modWork (fun w => { w with runs := w.runs.map fun r => if r.seq == seq then f r else r }) s

/-- A physical cluster with the run it is in. -/
structure CoreCtx where
  p   : Nat
  c   : Nat
  cl  : Cluster
  run : RunOp
  /-- The word at pc. -/
  w   : Word32

/-- The cluster that serves logical number c, in a run. -/
def clusterIn (c : Nat) (s : State) : Option CoreCtx :=
  match physOf s c with
  | none => none
  | some p =>
    let cl := cluster s p
    match cl.run.bind (runOf s) with
    | none => none
    | some r => some { p := p, c := c, cl := cl, run := r, w := cl.imem.getD (cl.core.pc.toNat / 4) 0 }

/-- A core that runs: no wait, no halt, no fault. -/
def running (c : Nat) (s : State) : Option CoreCtx := (clusterIn c s).filter fun x => x.cl.st == 2

/-- pc lies within the loaded image (R469, FETCH). -/
def fetched (x : CoreCtx) : Bool := decide (x.cl.core.pc.toNat + 4 ≤ x.cl.imageLen)

def setCore (x : CoreCtx) (f : Core → Core) (s : State) : State :=
  modCluster x.p (fun cl => { cl with core := f cl.core }) s

/-- Write rd and go on to the next instruction. -/
def ret (x : CoreCtx) (rd : Nat) (v : Word64) (s : State) : State := setCore x (fun k => nextPc (setS rd v k)) s

/-! Faults. -/

/-- The run's first fault: the earlier in house time, and between equal times that of the lower logical number (R478). -/
def firstFault (f : Nat × Nat × Nat × Nat × Nat) : Option (Nat × Nat × Nat × Nat × Nat) → Nat × Nat × Nat × Nat × Nat
  | none => f
  | some g => if g.1 == f.1 && decide (f.2.1 < g.2.1) then f else g

/-- A fault of logical cluster c at pc (R464, R468): the core stops, CLUS_FAULT records it, uncommitted engine
instructions are squashed (R513), the run's first fault is kept (R478), and the device halts the run. -/
def coreFault (x : CoreCtx) (code info pc : Nat) (s : State) : State :=
  let s := modCluster x.p (fun cl => { cl with
    st := 5, faultPc := BitVec.ofNat 16 pc, faultInfo := BitVec.ofNat 12 info, faultCode := BitVec.ofNat 8 code
    engQ := [] }) s
  let s := modRun x.run.seq (fun r =>
    { r with fault := some (firstFault (now s, x.c, code, pc, info) r.fault) }) s
  haltRun x.run.seq s

/-- A fault found at issue takes place once every earlier engine instruction has committed (R468, R512). -/
def faultWhenClear (x : CoreCtx) (code info : Nat) (s : State) : State :=
  if x.cl.engQ.isEmpty then coreFault x code info x.cl.core.pc.toNat s else s

/-! Counters. -/

/-- Add to counter k of a physical cluster; a wait whose threshold it reaches ends with MET (R444 to R446). -/
def bump (p k : Nat) (v : Word64) (s : State) : State :=
  modCluster p (fun cl =>
    let n := cl.core.cnt.getD k 0 + v
    let core := { cl.core with cnt := setAt cl.core.cnt k n }
    if cl.st == 3 && cl.waitCnt.toNat == k && core.waitFor.toNat ≤ n.toNat then
      { cl with st := 2, core := nextPc (setS core.waitRd 0 core) }
    else { cl with core := core }) s

/-- End a wait with a status (R445). -/
def endWaitc (p : Nat) (v : Word64) (s : State) : State :=
  modCluster p (fun cl => { cl with st := 2, core := nextPc (setS cl.core.waitRd v cl.core) }) s

/-! The form of a core row. -/

/-- What an instruction does at issue: it waits, faults, or takes effect. -/
inductive CoreRes where
  | wait
  | fault (code info : Nat)
  | done (s : State)

/-- The guard of R434. -/
def guardOf (x : CoreCtx) : Bool := preg x.cl.core (fw x.w 24 22) != bit x.w 25

/-- The core of logical cluster c executes the word at its pc, whose major opcode is op (R434 to R436). An illegal
encoding faults whatever the guard; a guard that is not met skips the instruction (R434, R484); one that names a
register still being written waits (R440, R448, R516); a held engine fault stops what follows it (R512, R528). -/
def coreRow (op c : Nat) (legal : Word32 → Bool) (regs : Word32 → List Nat)
    (body : CoreCtx → State → CoreRes) (s : State) : Res :=
  if 160 ≤ c then .fault .noSuchThing else
  match running c s with
  | none => .next s
  | some x =>
    if !fetched x || opOf x.w != op || x.cl.engQ.any (fun e => e.fault.isSome) then .next s
    else if !legal x.w then .next (faultWhenClear x 1 0 s)
    else if !guardOf x then .next (setCore x nextPc s)
    else if (regs x.w).any fun r => x.cl.core.pendRd.contains r then .next s
    else match body x s with
      | .wait => .next s
      | .fault code info => .next (faultWhenClear x code info s)
      | .done t => .next t

/-- No engine store of this cluster waits to commit (R515). -/
def storesDone (x : CoreCtx) : Bool := !(x.cl.engQ.any fun e => !e.writes.isEmpty)

def regsR (w : Word32) : List Nat := [rdOf w, raOf w, rbOf w]
def regsI (w : Word32) : List Nat := [rdOf w, raOf w]
def always (_ : Word32) : Bool := true

end Sys2Proof.Machine
end

