-- ==== Sys2Proof/Machine/CoreIsa.lean ====
section
/-!
DEFINITION. The control core's instructions that stay in the core: arithmetic, predicates, loads and stores, branches
and CSRs (R436 to R443), FENCE, HALT and TRAP, and the two exceptions of fetch and decode.
-/
namespace Sys2Proof.Machine
open Sys2Proof

/-! Arithmetic. -/

def leadingZeros (a : Word64) : Nat := ((upto 64).find? fun k => bit a (63 - k)).getD 64
def popCount {n : Nat} (a : BitVec n) : Nat := ((upto n).filter (bit a)).length

/-- Quotient and remainder of R437, on signed numbers of any width. -/
def divS {n : Nat} (a b : BitVec n) : BitVec n := if b == 0 then BitVec.allOnes n else BitVec.ofInt n (a.toInt.tdiv b.toInt)
def remS {n : Nat} (a b : BitVec n) : BitVec n := if b == 0 then a else BitVec.ofInt n (a.toInt.tmod b.toInt)
def divU (a b : Word64) : Word64 := if b == 0 then BitVec.allOnes 64 else w64 (a.toNat / b.toNat)
def remU (a b : Word64) : Word64 := if b == 0 then a else w64 (a.toNat % b.toNat)

/-- ALU functions. -/
def aluFn (fn : Nat) (a b : Word64) : Word64 :=
  match fn with
  | 0x00 => a + b
  | 0x01 => a - b
  | 0x02 => a &&& b
  | 0x03 => a ||| b
  | 0x04 => a ^^^ b
  | 0x05 => a <<< (b.toNat % 64)
  | 0x06 => a >>> (b.toNat % 64)
  | 0x07 => a.sshiftRight (b.toNat % 64)
  | 0x08 => a * b
  | 0x09 => BitVec.ofInt 64 (a.toInt * b.toInt / 2 ^ 64)
  | 0x0A => w64 (a.toNat * b.toNat / 2 ^ 64)
  | 0x0B => divS a b
  | 0x0C => divU a b
  | 0x0D => remS a b
  | 0x0E => remU a b
  | 0x0F => if a.toInt ≤ b.toInt then a else b
  | 0x10 => if a.toInt ≤ b.toInt then b else a
  | 0x11 => if a.toNat ≤ b.toNat then a else b
  | 0x12 => if a.toNat ≤ b.toNat then b else a
  | 0x13 => w64 (leadingZeros a)
  | _ => w64 (popCount a)

/-- fn at most 0x14; CLZ and POPC name no rb (R435, R437). -/
def aluLegal (w : Word32) : Bool := decide (fnOf w ≤ 0x14) && (decide (fnOf w < 0x13) || rbOf w == 0)

/-- rd = a function of ra and the immediate. -/
def immRow (op c : Nat) (f : Word64 → Word32 → Word64) (s : State) : Res :=
  coreRow op c always regsI (fun x s => .done (ret x (rdOf x.w) (f (sreg x.cl.core (raOf x.w)) x.w) s)) s

def execAlu (c : Nat) (s : State) : Res :=
  coreRow 0x00 c aluLegal regsR (fun x s =>
    .done (ret x (rdOf x.w) (aluFn (fnOf x.w) (sreg x.cl.core (raOf x.w)) (sreg x.cl.core (rbOf x.w))) s)) s
def execAddi (c : Nat) (s : State) : Res := immRow 0x01 c (fun a w => a + imm12 w) s
def execAndi (c : Nat) (s : State) : Res := immRow 0x02 c (fun a w => a &&& w64 (fw w 11 0)) s
def execOri (c : Nat) (s : State) : Res := immRow 0x03 c (fun a w => a ||| w64 (fw w 11 0)) s
def execXori (c : Nat) (s : State) : Res := immRow 0x04 c (fun a w => a ^^^ w64 (fw w 11 0)) s

def shiLegal (w : Word32) : Bool := fw w 11 8 == 0 && fw w 7 6 != 3
def execShi (c : Nat) (s : State) : Res :=
  coreRow 0x05 c shiLegal regsI (fun x s =>
    let a := sreg x.cl.core (raOf x.w)
    let n := fw x.w 5 0
    let v := if fw x.w 7 6 == 0 then a <<< n else if fw x.w 7 6 == 1 then a >>> n else a.sshiftRight n
    .done (ret x (rdOf x.w) v s)) s

def execMovi (c : Nat) (s : State) : Res :=
  coreRow 0x06 c always (fun w => [rdOf w]) (fun x s => .done (ret x (rdOf x.w) (imm17 x.w) s)) s

/-- The 64-bit word of instruction memory at a multiple of 8 (R902: the lower word holds the low half). -/
def imemWord (cl : Cluster) (a : Nat) : Word64 :=
  w64 ((cl.imem.getD (a / 4) 0).toNat + (cl.imem.getD (a / 4 + 1) 0).toNat * 2 ^ 32)

/-- LDPC. An address outside the 64 KiB has no stated value: the result is free (notes/assumptions/2.md). -/
def execLdpc (c : Nat) (ecc : Bool) (s : State) : Res :=
  coreRow 0x07 c always (fun w => [rdOf w]) (fun x s =>
    if ecc then .fault 10 0 else
    let a := w64 (x.cl.core.pc.toNat / 8 * 8) + 8 * imm17 x.w
    if a.toNat < 65536 then .done (ret x (rdOf x.w) (imemWord x.cl a.toNat) s)
    else
      let (v, s) := takeFree s
      .done (ret x (rdOf x.w) v s)) s

/-! Compares and predicates. -/

def ccOf (cc : Nat) (a b : Word64) : Bool :=
  match cc with
  | 0 => a == b
  | 1 => a != b
  | 2 => decide (a.toInt < b.toInt)
  | 3 => decide (b.toInt ≤ a.toInt)
  | 4 => decide (a.toNat < b.toNat)
  | _ => decide (b.toNat ≤ a.toNat)

def execCmp (c : Nat) (s : State) : Res :=
  coreRow 0x08 c (fun w => decide (fw w 18 16 < 6) && fw w 5 0 == 0) (fun w => [fw w 15 11, fw w 10 6]) (fun x s =>
    let b := ccOf (fw x.w 18 16) (sreg x.cl.core (fw x.w 15 11)) (sreg x.cl.core (fw x.w 10 6))
    .done (setCore x (fun k => nextPc (setP (fw x.w 21 19) b k)) s)) s

def execCmpi (c : Nat) (s : State) : Res :=
  coreRow 0x09 c (fun w => decide (fw w 18 16 < 6)) (fun w => [fw w 15 11]) (fun x s =>
    let b := ccOf (fw x.w 18 16) (sreg x.cl.core (fw x.w 15 11)) (sext 11 (fw x.w 10 0))
    .done (setCore x (fun k => nextPc (setP (fw x.w 21 19) b k)) s)) s

def predLegal (w : Word32) : Bool :=
  match fnOf w with
  | 0 | 1 | 2 | 3 => decide (rdOf w < 8) && decide (raOf w < 8) && decide (rbOf w < 8)
  | 4 => raOf w == 0 && rbOf w == 0
  | 5 => rdOf w == 0 && rbOf w == 0
  | _ => false

def predFn (fn : Nat) (a b : Bool) : Bool :=
  match fn with
  | 0 => a && b
  | 1 => a || b
  | 2 => a != b
  | _ => a && !b

def execPred (c : Nat) (s : State) : Res :=
  coreRow 0x0A c predLegal (fun w => if fnOf w == 4 then [rdOf w] else if fnOf w == 5 then [raOf w] else []) (fun x s =>
    let k := x.cl.core
    if fnOf x.w == 4 then .done (ret x (rdOf x.w) (w64 (predByte k)) s)
    else if fnOf x.w == 5 then
      .done (setCore x (fun k => nextPc { k with p := (sreg k (raOf x.w)).truncate 8 &&& 0xFE }) s)
    else .done (setCore x (fun k => nextPc (setP (rdOf x.w) (predFn (fnOf x.w) (preg k (raOf x.w)) (preg k (rbOf x.w))) k)) s)) s

/-! Loads and stores. -/

def imemBase : Nat := 0x1000000

/-- A load of n bytes (R441). Of two faults that apply, the one of lower code is raised (notes/assumptions/15.md). -/
def loadRow (op c n : Nat) (signed ecc : Bool) (s : State) : Res :=
  coreRow op c always regsI (fun x s =>
    let a := (sreg x.cl.core (raOf x.w) + imm12 x.w).toNat
    let value := fun (l : List Byte) => if signed then sext (8 * n) (leNat l) else w64 (leNat l)
    if a % n != 0 then .fault 3 0
    else if a + n ≤ x.cl.wlimit then
      if !storesDone x then .wait
      else if ecc then .fault 10 0
      else .done (spend (ret x (rdOf x.w) (value (areaLoad x.cl s.free a n)) s))
    else if imemBase ≤ a && a + n ≤ imemBase + 65536 then
      if ecc then .fault 10 0 else
      let w := imemWord x.cl ((a - imemBase) / 8 * 8)
      .done (ret x (rdOf x.w) (value ((leBytes 8 w.toNat).drop (a % 8) |>.take n)) s)
    else .fault 5 0) s

def execLdd (c : Nat) (ecc : Bool) (s : State) : Res := loadRow 0x0B c 8 false ecc s
def execLdw (c : Nat) (ecc : Bool) (s : State) : Res := loadRow 0x0C c 4 true ecc s
def execLdwu (c : Nat) (ecc : Bool) (s : State) : Res := loadRow 0x0D c 4 false ecc s
def execLdh (c : Nat) (ecc : Bool) (s : State) : Res := loadRow 0x0E c 2 true ecc s
def execLdhu (c : Nat) (ecc : Bool) (s : State) : Res := loadRow 0x0F c 2 false ecc s
def execLdb (c : Nat) (ecc : Bool) (s : State) : Res := loadRow 0x10 c 1 true ecc s
def execLdbu (c : Nat) (ecc : Bool) (s : State) : Res := loadRow 0x11 c 1 false ecc s

/-- A store of the low n bytes of rd (R441). -/
def storeRow (op c n : Nat) (s : State) : Res :=
  coreRow op c always regsI (fun x s =>
    let a := (sreg x.cl.core (raOf x.w) + imm12 x.w).toNat
    if a % n != 0 then .fault 3 0
    else if x.cl.wlimit < a + n then .fault 5 0
    else if !storesDone x then .wait
    else .done (setCore x nextPc (modCluster x.p (areaStore a (leBytes n (sreg x.cl.core (rdOf x.w)).toNat)) s))) s

def execStd (c : Nat) (s : State) : Res := storeRow 0x12 c 8 s
def execStw (c : Nat) (s : State) : Res := storeRow 0x13 c 4 s
def execSth (c : Nat) (s : State) : Res := storeRow 0x14 c 2 s
def execStb (c : Nat) (s : State) : Res := storeRow 0x15 c 1 s

/-! Branches. -/

def branchPc (x : CoreCtx) : BitVec 16 := (w64 x.cl.core.pc.toNat + 4 * off22 x.w).truncate 16

def execBr (c : Nat) (s : State) : Res :=
  coreRow 0x18 c always (fun _ => []) (fun x s => .done (setCore x (fun k => { k with pc := branchPc x }) s)) s

def execCall (c : Nat) (s : State) : Res :=
  coreRow 0x19 c always (fun _ => [31]) (fun x s =>
    .done (setCore x (fun k => { setS 31 (w64 (k.pc.toNat + 4)) k with pc := branchPc x }) s)) s

/-- JR: both registers are read before rd is written; pc holds the low 16 bits of the target (notes/assumptions/16.md). -/
def execJr (c : Nat) (s : State) : Res :=
  coreRow 0x1A c (fun w => fnOf w == 0 && rbOf w == 0) regsI (fun x s =>
    let t := sreg x.cl.core (raOf x.w)
    if t.toNat % 4 != 0 then .fault 3 0
    else .done (setCore x (fun k => { setS (rdOf x.w) (w64 (k.pc.toNat + 4)) k with pc := t.truncate 16 }) s)) s

/-! CSRs. -/

def engineCsr (n : Nat) : Bool :=
  decide (0x200 ≤ n && n ≤ 0x203) || decide (0x208 ≤ n && n ≤ 0x20B) || decide (0x210 ≤ n && n ≤ 0x223)
def csrReadable (n : Nat) : Bool :=
  decide (n ≤ 3) || decide (0x10 ≤ n && n ≤ 0x12) || decide (0x20 ≤ n && n ≤ 0x23) || decide (0x30 ≤ n && n ≤ 0x3F)
  || decide (0x100 ≤ n && n ≤ 0x10F) || engineCsr n
def csrWritable (n : Nat) : Bool :=
  decide (0x20 ≤ n && n ≤ 0x23) || decide (0x30 ≤ n && n ≤ 0x3F) || decide (0x100 ≤ n && n ≤ 0x10F) || engineCsr n

/-- VLMAX of an element type (R488). -/
def vlmax (etype : Nat) : Nat := if etype == 2 || etype == 4 then 512 else 1024

/-- A word of a bit vector numbered from its low end. -/
def engCsrRead (e : Engine) (n : Nat) : Word64 :=
  if n == 0x200 then w64 e.vl
  else if n == 0x201 then w64 e.etype
  else if n == 0x202 then w64 (b2n e.flagsOn)
  else if n == 0x203 then w64 e.vflags.toNat
  else if n ≤ 0x20B then w64 (e.cs.getD (n - 0x208) 0).toNat
  else if n ≤ 0x21F then e.chain.getD (n - 0x210) 0
  else if n == 0x220 then w64 e.chainLen.toNat
  else if n == 0x221 then w64 e.laneLen.toNat
  else if n == 0x222 then w64 e.lanePtr.toNat
  else w64 (e.laneStore.getD e.lanePtr.toNat 0).toNat

/-- A write of an engine CSR (R518); none where it raises ILLEGAL. -/
def engCsrWrite (e : Engine) (n : Nat) (v : Word64) : Option Engine :=
  if n == 0x200 then some { e with vl := min v.toNat (vlmax e.etype) }
  else if n == 0x201 then
    if 5 ≤ v.toNat % 8 then none else some { e with etype := v.toNat % 8, vl := min e.vl (vlmax (v.toNat % 8)) }
  else if n == 0x202 then some { e with flagsOn := bit v 0 }
  else if n == 0x203 then some { e with vflags := v.truncate 5 }
  else if n ≤ 0x20B then some { e with cs := setAt e.cs (n - 0x208) (v.truncate 32) }
  else if n ≤ 0x21F then some { e with chain := setAt e.chain (n - 0x210) v }
  else if n == 0x220 then some { e with chainLen := v.truncate 32 }
  else if n == 0x221 then some { e with laneLen := v.truncate 32 &&& 0x3F3F3F3F }
  else if n == 0x222 then some { e with lanePtr := v.truncate 7 }
  else some { e with laneStore := setAt e.laneStore e.lanePtr.toNat (v.truncate 32), lanePtr := e.lanePtr + 1 }

/-- The value of a CSR. BEATS counts beats, which this model does not: it is free. TIME is house time, at most 80 ns
old, how old is free (R112, R442; notes/assumptions/2.md). -/
def csrRead (x : CoreCtx) (n : Nat) (s : State) : Word64 × State :=
  let k := x.cl.core
  if n == 0 then (w64 x.c, s)
  else if n == 1 then (w64 k.rank, s)
  else if n == 2 then (w64 x.run.company, s)
  else if n == 3 then (w64 x.cl.wlimit, s)
  else if n == 0x10 then (w64 (s.perf.beatNow.getD (x.p / 11) 0).toNat, s)
  else if n == 0x11 then takeFree s
  else if n == 0x12 then (w64 (now s - (Config.freeWord s.free).toNat % 81), spend s)
  else if n ≤ 0x23 then (w64 (k.mbxCfg.getD (n - 0x20) 0).toNat, s)
  else if n ≤ 0x3F then (w64 (k.cntSrc.getD (n - 0x30) 0).toNat, s)
  else if n ≤ 0x10F then (k.cnt.getD (n - 0x100) 0, s)
  else (engCsrRead x.cl.eng n, s)

def execCsrr (c : Nat) (s : State) : Res :=
  coreRow 0x1C c (fun w => raOf w == 0 && csrReadable (fw w 11 0)) (fun w => [rdOf w]) (fun x s =>
    let n := fw x.w 11 0
    if engineCsr n && !x.cl.engQ.isEmpty then .wait else
    let (v, s) := csrRead x n s
    .done (ret x (rdOf x.w) v s)) s

/-- CSRW (R442, R443, R518). -/
def execCsrw (c : Nat) (s : State) : Res :=
  coreRow 0x1D c (fun w => rdOf w == 0 && csrWritable (fw w 11 0)) (fun w => [raOf w]) (fun x s =>
    let n := fw x.w 11 0
    let v := sreg x.cl.core (raOf x.w)
    let b := v.toNat % 256
    if n ≤ 0x23 then .done (setCore x (fun k => nextPc { k with mbxCfg := setAt k.mbxCfg (n - 0x20) (v.truncate 5) }) s)
    else if n ≤ 0x3F then
      if 0xA0 ≤ b && b ≤ 0xFC then .fault 1 0
      else if b < 0xA0 && !inRun x.run b then .fault 6 0
      else .done (setCore x (fun k => nextPc { k with cntSrc := setAt k.cntSrc (n - 0x30) (v.truncate 8) }) s)
    else if n ≤ 0x10F then .done (setCore x (fun k => nextPc { k with cnt := setAt k.cnt (n - 0x100) v }) s)
    else if !x.cl.engQ.isEmpty then .wait
    else match engCsrWrite x.cl.eng n v with
      | none => .fault 1 0
      | some e => .done (setCore x nextPc (modCluster x.p (fun cl => { cl with eng := e }) s))) s

/-! FENCE, HALT, TRAP. -/

def fromCluster (c : Nat) : MeshItem → Bool
  | .mail src _ _ _ _ => src == c
  | .ack src _ _ _ _ => src == c
  | .signal src _ _ _ _ => src == c

/-- Every earlier mesh, transfer and engine memory instruction of the cluster has completed (R436, R515). -/
def fenceClear (x : CoreCtx) (s : State) : Bool :=
  x.cl.xfers.isEmpty && !(s.work.mesh.any (fromCluster x.c)) && !(x.cl.engQ.any (·.memory))

def execFence (c : Nat) (s : State) : Res :=
  coreRow 0x28 c (fun w => fw w 21 0 == 0) (fun _ => []) (fun x s =>
    if fenceClear x s then .done (setCore x nextPc s) else .wait) s

/-- HALT: a FENCE, every engine instruction complete (R514), then the cluster's part of the run ends. -/
def execHalt (c : Nat) (s : State) : Res :=
  coreRow 0x29 c (fun w => fw w 21 12 == 0) (fun _ => []) (fun x s =>
    if fenceClear x s && x.cl.engQ.isEmpty then
      .done (modCluster x.p (fun cl => { cl with
        st := 4, faultPc := cl.core.pc, faultInfo := BitVec.ofNat 12 (fw x.w 11 0), faultCode := 0 }) s)
    else .wait) s

def execTrap (c : Nat) (s : State) : Res :=
  coreRow 0x2A c (fun w => fw w 21 12 == 0) (fun _ => []) (fun x _ => .fault 4 (fw x.w 11 0)) s

/-! Exceptions of fetch and decode. -/

def undefinedOp (op : Nat) : Bool := [0x16, 0x17, 0x1B, 0x1E, 0x1F, 0x2B, 0x2C, 0x2D, 0x2E, 0x2F].contains op

/-- ILLEGAL_INSTRUCTION: a major opcode below 0x30 outside the table (R436). -/
def execIllegalInstruction (c : Nat) (s : State) : Res :=
  if 160 ≤ c then .fault .noSuchThing else
  match running c s with
  | none => .next s
  | some x =>
    if fetched x && undefinedOp (opOf x.w) && !x.cl.engQ.any (fun e => e.fault.isSome) then .next (faultWhenClear x 1 0 s) else .next s

/-- FETCH_FAULT: pc lies beyond the loaded image (R469). -/
def execFetchFault (c : Nat) (s : State) : Res :=
  if 160 ≤ c then .fault .noSuchThing else
  match running c s with
  | none => .next s
  | some x => if fetched x || x.cl.engQ.any (fun e => e.fault.isSome) then .next s else .next (faultWhenClear x 2 0 s)

end Sys2Proof.Machine
end

