-- ==== Sys2Proof/Machine/MeshIsa.lean ====
section
/-!
DEFINITION. Mailboxes, counters and transfers of the cluster core (R444 to R460, R565, R566): SEND, RECV, PUT, GET,
SIG, WAITC, MOVE and PAGE, what their messages do when they arrive, and the two cluster window registers that act.

A message, signal or transfer lands in one step of its own: MAILBOX_ARRIVAL, SEND_ACK, SIGNAL_ARRIVAL or
TRANSFER_COMPLETE.
-/
namespace Sys2Proof.Machine
open Sys2Proof

def sendItem (i : MeshItem) (s : State) : State := modWork (fun w => { w with mesh := w.mesh ++ [i] }) s

/-- Take the first item of which p holds. -/
def takeItem (p : MeshItem → Bool) : List MeshItem → Option (MeshItem × List MeshItem)
  | [] => none
  | i :: r => if p i then some (i, r) else (takeItem p r).map fun (j, r) => (j, i :: r)

/-! Mailboxes. -/

def insertOnce (c : Nat) (l : List Nat) : List Nat := if l.contains c then l else l ++ [c]

/-- SEND (R448, R449). Bits of s[ra] outside its fields are not looked at (notes/assumptions/17.md). -/
def execSend (c : Nat) (s : State) : Res :=
  coreRow 0x20 c always regsR (fun x s =>
    let d := sreg x.cl.core (raOf x.w)
    let src := (sreg x.cl.core (rbOf x.w)).toNat
    let dst := fld d 7 0
    let m := fld d 9 8
    let n := fld d 24 16
    if src % 8 != 0 then .fault 3 0
    else if x.cl.wlimit < src + n then .fault 5 0
    else if !inRun x.run dst || n == 0 || 256 < n then .fault 6 0
    else if !storesDone x then .wait
    else
      let data := areaLoad x.cl s.free src n
      let rd := rdOf x.w
      let s := setCore x (fun k => nextPc { k with pendRd := if rd == 0 then k.pendRd else k.pendRd ++ [rd] }) (spend s)
      let s := match physOf s dst with
        | some q => modCluster q (fun t => { t with core := { t.core with
            senders := modAt t.core.senders m (insertOnce c) } }) s
        | none => s
      .done (sendItem (.mail c dst m data rd) s)) s

/-- The logical cluster still runs in the run of x: one whose cluster has failed in it does not (R150, R815). -/
def sameRun (c : Nat) (x : CoreCtx) (s : State) : Bool := (clusterIn c s).any fun y => y.run.seq == x.run.seq

/-- MAILBOX_ARRIVAL: the oldest message on its way from src to a mailbox of dst is stored, or finds the mailbox full, or
is the first after a flush (R448, R450, R451, R566). -/
def execMailboxArrival (src dst mbx : Nat) (s : State) : Res :=
  if !(decide (src < 160) && decide (dst < 160) && decide (mbx < 4)) then .fault .noSuchThing else
  match takeItem (fun i => match i with | .mail a b k _ _ => a == src && b == dst && k == mbx | _ => false) s.work.mesh,
      clusterIn dst s with
  | some (.mail _ _ _ data rd, rest), some x =>
    let core := x.cl.core
    let s := modWork (fun w => { w with mesh := rest }) s
    let answer := fun (st : Nat) s => if sameRun src x s then sendItem (.ack src dst mbx rd st) s else s
    if (core.flushed.getD mbx []).contains src then
      .next (answer 2 (modCluster x.p (fun cl => { cl with core := { cl.core with
        flushed := modAt cl.core.flushed mbx fun l => l.filter (· != src) } }) s))
    else if 16 ≤ (core.mbx.getD mbx []).length then .next (answer 1 s)
    else
      let s := modCluster x.p (fun cl => { cl with core := { cl.core with
        mbx := modAt cl.core.mbx mbx fun l => l ++ [{ src := src, data := data }] } }) s
      let cfg := core.mbxCfg.getD mbx 0
      let s := if bit cfg 4 then bump x.p (cfg.toNat % 16) 1 s else s
      .next (answer 0 s)
  | _, _ => .next s

/-- SEND_ACK: the oldest acknowledgement of the cluster's SENDs returns and writes its status into rd (R448). -/
def execSendAck (c : Nat) (s : State) : Res :=
  if 160 ≤ c then .fault .noSuchThing else
  match takeItem (fun i => match i with | .ack a _ _ _ _ => a == c | _ => false) s.work.mesh, clusterIn c s with
  | some (.ack _ _ _ rd st, rest), some x =>
    .next (setCore x (fun k => { setS rd (w64 st) k with pendRd := k.pendRd.erase rd })
      (modWork (fun w => { w with mesh := rest }) s))
  | _, _ => .next s

/-- RECV (R450). -/
def execRecv (c : Nat) (s : State) : Res :=
  coreRow 0x21 c (fun w => raOf w == 0) (fun w => [rdOf w, rbOf w]) (fun x s =>
    let m := fnOf x.w % 4
    let a := (sreg x.cl.core (rbOf x.w)).toNat
    if a % 8 != 0 then .fault 3 0 else
    match x.cl.core.mbx.getD m [] with
    | [] => .done (ret x (rdOf x.w) 0 s)
    | g :: r =>
      if x.cl.wlimit < a + g.data.length then .fault 5 0
      else if !storesDone x then .wait
      else
        let s := modCluster x.p (areaStore a g.data) s
        .done (ret x (rdOf x.w) (w64 (g.src * 65536 + g.data.length))
          (setCore x (fun k => { k with mbx := setAt k.mbx m r }) s))) s

/-! Transfers. -/

/-- Issue a transfer and go on. -/
def issue (x : CoreCtx) (t : Transfer) (s : State) : State :=
  modCluster x.p (fun cl => { cl with
    xfers := cl.xfers ++ [{ t with id := cl.issued, pc := cl.core.pc.toNat }]
    issued := cl.issued + 1, core := nextPc cl.core }) s

def Transfer.zero : Transfer :=
  { id := 0, kind := .put, here := 0, len := 0, peer := 0, offset := 0, counter := 0, atTarget := false, data := [],
    touched := [], scene := 0, layer := 0, pc := 0, failed := none }

/-- Addresses and length of PUT, GET and MOVE (R452). -/
def xferAlign (a b n : Nat) : Bool := a % 8 == 0 && b % 8 == 0 && n % 8 == 0 && decide (8 ≤ n) && decide (n ≤ 1048576)

/-- PUT and GET at issue (R452, R453, R454). Address bits [55:21] count as part of the offset. -/
def remoteRow (op c : Nat) (put : Bool) (s : State) : Res :=
  coreRow op c always regsR (fun x s =>
    let n := (sreg x.cl.core (rdOf x.w)).toNat
    let far := sreg x.cl.core (raOf x.w)
    let here := (sreg x.cl.core (rbOf x.w)).toNat
    let dst := fld far 63 56
    let off := fld far 55 0
    if !xferAlign far.toNat here n then .fault 3 0
    else if x.cl.wlimit < here + n then .fault 5 0
    else if !inRun x.run dst || x.cl.wlimit < off + n then .fault 6 0
    else if !storesDone x then .wait
    else
      let t : Transfer := { Transfer.zero with
        kind := if put then .put else .get, here := here, len := n, peer := dst, offset := off
        counter := fnOf x.w % 16, atTarget := put && bit x.w 4
        data := if put then areaLoad x.cl s.free here n else [] }
      .done (issue x t (spend s))) s

def execPut (c : Nat) (s : State) : Res := remoteRow 0x22 c true s
def execGet (c : Nat) (s : State) : Res := remoteRow 0x23 c false s

/-- SIG: s[ra] is the logical cluster (R444, R455; notes/assumptions/17.md). -/
def execSig (c : Nat) (s : State) : Res :=
  coreRow 0x24 c (fun w => rdOf w == 0) (fun w => [raOf w, rbOf w]) (fun x s =>
    let dst := (sreg x.cl.core (raOf x.w)).toNat
    if 160 ≤ dst || !inRun x.run dst then .fault 6 0
    else .done (sendItem (.signal c dst (fnOf x.w % 16) (sreg x.cl.core (rbOf x.w)) x.cl.issued) (setCore x nextPc s))) s

/-- Every PUT that src issued to y before the signal has landed (R455). -/
def putsLanded (s : State) (src : Nat) (y : CoreCtx) (upTo : Nat) : Bool :=
  match (clusterIn src s).filter fun x => x.run.seq == y.run.seq with
  | none => true
  | some x => !(x.cl.xfers.any fun t => t.kind == .put && t.peer == y.c && decide (t.id < upTo))

/-- SIGNAL_ARRIVAL: the oldest signal on its way from src to dst (R444, R446, R455). -/
def execSignalArrival (src dst : Nat) (s : State) : Res :=
  if !(decide (src < 160) && decide (dst < 160)) then .fault .noSuchThing else
  match takeItem (fun i => match i with | .signal a b _ _ _ => a == src && b == dst | _ => false) s.work.mesh,
      clusterIn dst s with
  | some (.signal _ _ k v upTo, rest), some x =>
    if !putsLanded s src x upTo then .next s
    else .next (bump x.p k v (modWork (fun w => { w with mesh := rest }) s))
  | _, _ => .next s

/-- WAITC (R445). -/
def execWaitc (c : Nat) (s : State) : Res :=
  coreRow 0x25 c always regsR (fun x s =>
    let k := fnOf x.w % 16
    let lim := (sreg x.cl.core (rbOf x.w)).toNat
    let goal := sreg x.cl.core (raOf x.w)
    if goal.toNat ≤ (x.cl.core.cnt.getD k 0).toNat then .done (ret x (rdOf x.w) 0 s)
    else .done (modCluster x.p (fun cl => { cl with
      st := 3, waitCnt := BitVec.ofNat 4 k
      core := { cl.core with waitFor := goal, waitRd := rdOf x.w, waitAt := now s,
                             waitUntil := if lim == 0 then none else some (now s + lim) } }) s)) s

/-- WAITC_TIMEOUT (R445). -/
def execWaitcTimeout (c : Nat) (s : State) : Res :=
  if 160 ≤ c then .fault .noSuchThing else
  match clusterIn c s with
  | none => .next s
  | some x =>
    match x.cl.core.waitUntil with
    | some d => if x.cl.st == 3 && decide (d ≤ now s) then .next (endWaitc x.p 1 s) else .next s
    | none => .next s

/-! MOVE and PAGE. -/

/-- A buffer that MOVE can use, with its length: a host region, weight set or scratch object (R458). -/
def bufLength (b : RunBuf) (s : State) : Nat :=
  match b.kind with
  | 1 => b.length
  | 2 => ((findSet s b.set).map weightBytes).getD 0
  | 3 => ((kget s.store.scratch b.addr).map (·.size)).getD 0
  | _ => 0

/-- The agent behind which a run's host regions lie. -/
def runAgent (r : RunOp) (s : State) : Nat :=
  ((s.taken.find? (·.seq == r.seq)).map fun t => queueAgent s t.queue).getD 0

/-- Layers of the weight set, of which each is given with its place, that meet n bytes from offset off on. -/
def layersMet (off n : Nat) : List (List Byte) → Nat → Nat → List Nat
  | [], _, _ => []
  | b :: r, l, at_ =>
    (if at_ < off + n && off < at_ + b.length then [l] else []) ++ layersMet off n r (l + 1) (at_ + b.length)

/-- Pages of its buffer that an inbound MOVE reads: layers of a weight set. -/
def pagesMoved (b : RunBuf) (off n : Nat) (s : State) : List PageRef :=
  if b.kind != 2 then [] else
  (((findSet s b.set).map fun w => layersMet off n w.layers 0 0).getD []).map (.weights b.set ·)

/-- A page that only the Loft would hold, of a set that has been retired (R289). -/
def lostMove (c : Nat) (l : List PageRef) (s : State) : Bool := l.any fun p => pageRetired s c p && !pageAbove s c p

/-- MOVE at issue (R452, R453, R458). A layer of a weight set that lies only in the Loft is waited for as STALL does, and one of a
retired set faults as a PAGE of a retired scene does (R242, R289; notes/assumptions/111.md). -/
def execMove (c : Nat) (s : State) : Res :=
  coreRow 0x26 c always regsR (fun x s =>
    let n := (sreg x.cl.core (rdOf x.w)).toNat
    let far := sreg x.cl.core (raOf x.w)
    let here := (sreg x.cl.core (rbOf x.w)).toNat
    let b := fld far 63 56
    let off := fld far 55 0
    let out := bit x.w 4
    if !xferAlign far.toNat here n then .fault 3 0
    else if x.cl.wlimit < here + n then .fault 5 0
    else match x.run.bufs[b]? with
      | none => .fault 7 0
      | some g =>
        let pages := if out then [] else pagesMoved g off n s
        if bufLength g s < off + n || !(if out then g.write else g.read) then .fault 7 0
        else if lostMove x.run.company pages s then .fault 9 0
        else if !storesDone x then .wait
        else
          let t : Transfer := { Transfer.zero with
            kind := if out then .moveOut else .moveIn, here := here, len := n, peer := b, offset := off
            counter := fnOf x.w % 16, data := if out then areaLoad x.cl s.free here n else [] }
          let a := runAgent x.run s
          let s := pages.foldl (fun s p => wantPage x.run.seq x.run.company p s) (issue x t (spend s))
          .done (if !out && g.kind == 1 then emit (.hostRead a (g.addr + off) n) (dma a n s) else s)) s

/-- PAGE at issue (R31, R336, R453, R459). -/
def execPage (c : Nat) (s : State) : Res :=
  coreRow 0x27 c always regsR (fun x s =>
    let layer := (sreg x.cl.core (rdOf x.w)).toNat
    let far := sreg x.cl.core (raOf x.w)
    let here := (sreg x.cl.core (rbOf x.w)).toNat
    let b := fld far 63 56
    let pos := fld far 31 0
    if here % 64 != 0 then .fault 3 0 else
    match x.run.bufs[b]? with
    | none => .fault 7 0
    | some g =>
      let m := modelD s g.model
      if g.kind != 4 then .fault 7 0
      else if x.cl.wlimit < here + footprint m then .fault 5 0
      else if 16 * g.chain.length ≤ pos || m.layers ≤ layer then .fault 7 0
      else
        let id := g.chain.getD (pos / 16) 0
        if ((findScene s x.run.company id).map (·.retired)).getD true then .fault 9 0
        else if !storesDone x then .wait
        else
          let t : Transfer := { Transfer.zero with
            kind := .page, here := here, len := footprint m, peer := b, offset := pos, counter := fnOf x.w % 16
            scene := id, layer := layer }
          let s := translate (translateMode s x.run.translate g.addr) (c / 10) x.run.company [id] s
          
          .done (wantPage x.run.seq x.run.company (.scene id layer) (issue x t s))) s

/-! Landing. -/

/-- The bytes a PUT or outbound MOVE sends: those touched since its issue are not defined (R456). -/
def sentBytes (t : Transfer) (k : Nat) : List Byte :=
  (upto t.len).map fun i => if t.touched.contains i then Config.freeByte k i else t.data.getD i 0

def dropXfer (x : CoreCtx) (id : Nat) (s : State) : State :=
  modCluster x.p (fun cl => { cl with xfers := cl.xfers.filter (·.id != id) }) s

/-- Land an inbound transfer's bytes in the issuing cluster's working area and count it. -/
def landHere (x : CoreCtx) (t : Transfer) (d : List Byte) (s : State) : State :=
  bump x.p t.counter 1 (modCluster x.p (areaStore t.here d) (dropXfer x t.id s))

/-- Write a scratch object; a write of a whole 64-byte unit clears its poison (R818). -/
def writeScratch (h off : Nat) (b : List Byte) (s : State) : State :=
  modStore (fun st => { st with scratch := kmod st.scratch h fun x =>
    { x with mem := x.mem.writes off b
             poison := x.poison.filter fun u => !(decide (off ≤ 64 * u) && decide (64 * u + 64 ≤ off + b.length)) } }) s

/-- A poisoned unit lies within n bytes of a scratch object (R818). -/
def scratchPoisoned (h off n : Nat) (s : State) : Bool :=
  ((kget s.store.scratch h).map fun x => x.poison.any fun u =>
    decide (off < 64 * u + 64) && decide (64 * u < off + n)).getD false

/-- Write bytes into a buffer of a run. -/
def bufWrite (r : RunOp) (b : RunBuf) (off : Nat) (d : List Byte) (s : State) : State :=
  if b.kind == 1 then
    let a := runAgent r s
    emit (.hostWrite a (b.addr + off) d) (dma a d.length s)
  else writeScratch b.addr off d s

/-- Bytes of a weight set or scratch buffer. -/
def bufRead (b : RunBuf) (off n : Nat) (s : State) : List Byte :=
  if b.kind == 2 then slice (((findSet s b.set).map fun w => w.layers.flatten).getD []) off n
  else ((kget s.store.scratch b.addr).map fun z => Memory.reads z.mem off n).getD (List.replicate n 0)

/-- TRANSFER_COMPLETE: the last byte of transfer `id` of logical cluster c lands (R444, R454, R457 to R459, R464, R485).
`data` is what a read of a host region returned. A MOVE that reads poison ends its run with MEDIA_UNCORRECTABLE, as fault
code 8 does (R818). -/
def execTransferComplete (c id : Nat) (data : List Byte) (ecc : Bool) (s : State) : Res :=
  if 160 ≤ c then .fault .noSuchThing else
  match clusterIn c s with
  | none => .next s
  | some x =>
    match x.cl.xfers.find? (·.id == id) with
    | none => .next s
    | some t =>
      let failWith := fun (code : Nat) (s : State) =>
        let s := dropXfer x t.id s
        if x.cl.st == 2 || x.cl.st == 3 then coreFault x code 0 t.pc s
        else modRun x.run.seq (fun r => { r with fault := some (firstFault (now s, c, code, t.pc, 0) r.fault) }) s
      if ecc then .next (failWith 10 s) else
      match t.failed with
      | some code => .next (failWith code s)
      | none =>
        match t.kind with
        | .put =>
          match clusterIn t.peer s with
          | none => .next (dropXfer x t.id s)
          | some y =>
            let s1 := modCluster y.p (areaStore t.offset (sentBytes t s.free)) (spend (dropXfer x t.id s))
            .next (bump (if t.atTarget then y.p else x.p) t.counter 1 s1)
        | .get =>
          match clusterIn t.peer s with
          | none => .next (dropXfer x t.id s)
          | some y => .next (landHere x t (areaLoad y.cl s.free t.offset t.len) (spend s))
        | .moveOut =>
          match x.run.bufs[t.peer]? with
          | none => .next (dropXfer x t.id s)
          | some b =>
            .next (bump x.p t.counter 1 (spend (bufWrite x.run b t.offset (sentBytes t s.free) (dropXfer x t.id s))))
        | .moveIn =>
          match x.run.bufs[t.peer]? with
          | none => .next (dropXfer x t.id s)
          | some b =>
            if b.kind == 1 then
              if data.length != t.len then .next s else .next (landHere x t data s)
            else if b.kind == 3 && scratchPoisoned b.addr t.offset t.len s then .next (failWith 8 s)
            else if !(pagesMoved b t.offset t.len s).all (pageReady s x.run.company) then .next s
            else .next (landHere x t (bufRead b t.offset t.len s) s)
        | .page =>
          if !pageReady s x.run.company (.scene t.scene t.layer) then .next s
          else .next (landHere x t (pageBytes s x.run.company t.scene t.layer) s)

/-! The cluster window. -/

/-- An agent whose writes a cluster's window accepts: of company 0, or of the company of the cluster's run. -/
def windowWriter (s : State) (a p : Nat) : Bool :=
  ioServed s a && ((agent s a).company == 0 ||
    (((cluster s p).run.bind (runOf s)).map fun r => r.company == (agent s a).company).getD false)

/-- CLUS_SIGNAL (R444, R446, R477). -/
def execClusSignal (a p : Nat) (part : Part) (v : Word64) (s : State) : Res :=
  if !(decide (a < 32) && decide (p < 176)) then .fault .noSuchThing
  else if !windowWriter s a p then .next s
  else
    let cl := cluster s p
    let w := mergePart (w64 (cl.sigAmount.toNat * 2 ^ 32 + cl.sigCounter.toNat)) part v
    let s := modCluster p (fun cl => { cl with sigAmount := BitVec.ofNat 32 (high w), sigCounter := BitVec.ofNat 4 (fld w 3 0) }) s
    if (cl.run.bind (runOf s)).isNone then .next s
    else .next (bump p (fld w 3 0) (w64 (high w)) s)

/-- Acknowledgements on their way of SENDs to mailbox k of cluster c return FLUSHED, one for each sender; senders with
none get it at their next message (R566). -/
def flushAcks (c k : Nat) : List Nat → List MeshItem → List Nat × List MeshItem
  | todo, [] => (todo, [])
  | todo, i :: r =>
    match i with
    | .ack src dst mbx rd st =>
      if dst == c && mbx == k && todo.contains src then
        let (t, r) := flushAcks c k (todo.filter (· != src)) r
        (t, .ack src dst mbx rd 2 :: r)
      else
        let (t, r) := flushAcks c k todo r
        (t, .ack src dst mbx rd st :: r)
    | i =>
      let (t, r) := flushAcks c k todo r
      (t, i :: r)

/-- Flush mailbox k of a physical cluster (R565, R566). -/
def flushMailbox (p k : Nat) (s : State) : State :=
  let cl := cluster s p
  let (todo, mesh) := flushAcks cl.logical.toNat k (cl.core.senders.getD k []) s.work.mesh
  modCluster p (fun cl => { cl with core := { cl.core with
      mbx := setAt cl.core.mbx k [], flushed := setAt cl.core.flushed k todo } })
    (modWork (fun w => { w with mesh := mesh }) s)

/-- MAILBOX_FLUSH: a write of CLUS_MBX_FLUSH.mask (R565). -/
def execMailboxFlush (a p : Nat) (v : Word32) (s : State) : Res :=
  if !(decide (a < 32) && decide (p < 176)) then .fault .noSuchThing
  else if !windowWriter s a p then .next s
  else .next ((upto 4).foldl (fun s k => if bit v k then flushMailbox p k s else s) s)

end Sys2Proof.Machine
end

