-- ==== Sys2Proof/Machine/Runs.lean ====
section
/-!
DEFINITION. Cluster runs (R461 to R467, R478, R650 to R652), the scrub of a cluster that passes between companies (R471,
R472), and the Midnight scan of both wait graphs (R473 to R476, R559 to R561, R748).
-/
namespace Sys2Proof.Machine
open Sys2Proof

/-! CLUSTER_RUN. -/

/-- The time limit as it acts (R466). -/
def runLimit (s : State) (v : Nat) : Nat :=
  let n := if v == 0 then 10000000000 else v
  if s.store.tenancy then min n 1000000000 else n

/-- Buffer b of a CLUSTER_RUN, as it stands at intake (R459, R650, R663). -/
def runBuf (t : Taken) (s : State) (b : Nat) : RunBuf :=
  let a := word t (bufWord b)
  let d := word t (bufWord b + 1)
  let kind := bufKind t b
  let v := if kind == 4 then streamAt t s (low a) else none
  let w := if kind == 2 then setNamed t s a.toNat else none
  { kind := kind, addr := if kind == 3 || kind == 4 then low a else a.toNat, write := bit d 57, read := bit d 56
    length := fld d 47 0, chain := if kind == 4 then chainAt t (low a) else [], model := (v.map (·.model)).getD 64
    set := (w.map (·.setNum)).getD 0 }

/-- The fields of one buffer that can offend (R584, R585, R650). -/
def bufBad (t : Taken) (s : State) (b : Nat) : List Bad :=
  let a := word t (bufWord b)
  let d := word t (bufWord b + 1)
  let at_ := 64 * bufWord b
  let kind := bufKind t b
  let n := fld d 47 0
  let handle := kind == 3 || kind == 4
  let absent :=
    match kind with
    | 1 => a.toNat % 64 != 0 || wraps a.toNat n
    | 2 => (setNamed t s a.toNat).isNone
    | 3 => ((kget s.store.scratch (low a)).filter fun x => x.company == t.company).isNone
    | 4 => (streamAt t s (low a)).isNone
    | _ => false
  bads [(absent, at_, 0), (handle && high a != 0, at_ + 32 + lowBit (high a), 0), (kind != 1 && n != 0, at_ + 64, 0),
        (kind == 4 && bit d 56, at_ + 64 + 56, 0), ((kind == 2 || kind == 4) && bit d 57, at_ + 64 + 57, 0),
        (4 < kind, at_ + 64 + 60, 0)]

def runMasks : List Nat :=
  [0, bits 41 40 + bits 35 32 + bits 27 24 + bits 20 16 + bits 11 8 + bits 3 0, bits 63 0]
  ++ List.replicate 8 (bits 63 0)
  ++ (upto 8).flatMap (fun _ => [bits 63 0, bits 63 60 + bits 57 56 + bits 47 0])

/-- Regions of the host buffers, each with the rights its directions need (R650, R771). -/
def runRegions (t : Taken) (s : State) : List Region :=
  ((upto 8).filter fun b => bufKind t b == 1).map fun b =>
    let g := runBuf t s b
    { hostRegion t s (b2n g.read + 2 * b2n g.write) g.addr g.length (64 * bufWord b) with idx := b }

/-- Every scene that a run's stream buffers reference (R459). -/
def runScenes (bufs : List RunBuf) : List SceneId := (bufs.map (·.chain)).flatten

/-- The checks of ClusterRun, in their order (R583). -/
def clusterRunChecks (t : Taken) (s : State) : List Chk :=
  let w := word t 1
  let rows := fld w 20 16
  let cols := fld w 35 32
  let row0 := fld w 11 8
  let col0 := fld w 27 24
  let lim := (word t 2).toNat
  [generalCheck t s,
    badFields (reservedBad t runMasks ++
      bads [(t.image.isNone, 64, 0), (row0 + rows > 16 && rows ≤ 16 && rows != 0, 72, 0), (rows == 0 || 16 < rows, 80, 0),
            (col0 + cols > 10 && cols ≤ 10 && cols != 0, 88, 0), (cols == 0 || 10 < cols, 96, 0), (fld w 41 40 == 3, 104, 0),
            (lim != 0 && (lim < 1000 || 10000000000 < lim), 128, 0)]
      ++ (upto 8).flatMap (bufBad t s)),
    soleRefuses t s, opcodeCheck t s, checkRegions t s (runRegions t s)]

/-- The command as its packet gives it (R461, R650): program, rectangle, arguments, buffers and time limit. -/
def runOpOf (t : Taken) (s : State) : RunOp :=
  let w := word t 1
  { seq := t.seq, company := t.company, image := t.image.getD [], row0 := fld w 11 8, rows := fld w 20 16, col0 := fld w 27 24
    cols := fld w 35 32, args := (upto 8).map fun k => word t (3 + k), bufs := (upto 8).map (runBuf t s)
    limit := runLimit s (word t 2).toNat, translate := fld w 41 40, started := none, timedOut := false, halted := false
    aborted := none, fault := none, internal := false }

/-- CLUSTER_RUN (R461, R466, R650, R763). -/
def execClusterRun (r : CmdRef) (s : State) : Res :=
  runRow 0x61 r s fun t s =>
    checked t (clusterRunChecks t s) s fun s =>
      let op := runOpOf t s
      setRunning t.seq (takeReads t.seq (runScenes op.bufs) (modWork (fun w => { w with runs := w.runs ++ [op] }) s))

/-! RUN_START. -/

/-- A cluster that no run and no allotment holds. -/
def clusterFree (s : State) (c : Nat) : Bool :=
  match physOf s c with
  | none => false
  | some p => (cluster s p).run.isNone && !(s.work.atts.any fun o => o.active.any fun x => x.1 == c)

/-- The cluster need not be scrubbed before work of the company: its last command was the company's, or it has held no
command since its last scrub (R471, R472). -/
def cleanFor (s : State) (c company : Nat) : Bool :=
  match physOf s c with
  | none => false
  | some p => !(cluster s p).dirty || (cluster s p).company == company

def overlaps (a b : RunOp) : Bool :=
  (runClusters a).any fun c => inRun b c

/-- The run holds every cluster of its rectangle, and no overlapping run that the device took in earlier still waits
(R462). -/
def canStart (s : State) (r : RunOp) : Bool :=
  r.started.isNone && (runClusters r).all (fun c => clusterFree s c && cleanFor s c r.company)
  && !(s.work.runs.any fun x => x.started.isNone && decide (x.seq < r.seq) && overlaps r x)

/-- Instruction words of an image. -/
def imageWords (image : List Byte) : List Word32 :=
  (upto (image.length / 4)).map fun k => BitVec.ofNat 32 (leAt image (4 * k) 4)

/-- The state of one cluster at a run's start (R463, R491); what its working area holds is not defined. -/
def startCluster (s : State) (r : RunOp) (rank : Nat) (cl : Cluster) : Cluster :=
  let regs := [0, w64 rank, w64 (r.rows * r.cols)] ++ r.args ++ List.replicate 21 0
  { cl with
    st := 2, company := r.company, waitCnt := 0, faultPc := 0, faultInfo := 0, faultCode := 0
    core := { Core.fresh with s := regs, rank := rank }
    eng := Engine.fresh, engQ := [], imem := imageWords r.image, imageLen := r.image.length, work := []
    workFree := some s.free, run := some r.seq, xfers := [], issued := 0, wlimit := stageBudget s, dirty := true }

/-- RUN_START (R462, R463). -/
def execRunStart (r : CmdRef) (s : State) : Res :=
  match (findRunning 0x61 r s).bind fun t => runOf s t.seq with
  | none => .next s
  | some op =>
    if !canStart s op then .next s else
    let s := (runClusters op).zipIdx.foldl (fun s (c, rank) =>
      match physOf s c with
      | some p => modCluster p (startCluster s op rank) (spend s)
      | none => s) s
    .next (trimWorking (modRun op.seq (fun o => { o with started := some (now s) }) s))

/-! How runs end. -/

/-- RUN_TIME_LIMIT (R464, R466). -/
def execRunTimeLimit (r : CmdRef) (s : State) : Res :=
  match (findRunning 0x61 r s).bind fun t => runOf s t.seq with
  | none => .next s
  | some op =>
    match op.started with
    | none => .next s
    | some t0 =>
      if now s < t0 + op.limit then .next s
      else .next (haltRun op.seq (modRun op.seq (fun o => { o with timedOut := true }) s))

def heldBy (s : State) (seq : Nat) : List (Nat × Cluster) := s.clusters.filter fun p => p.2.run == some seq

/-- Every cluster of the run has stopped and every transfer, message and signal of it has completed (R464). -/
def runOver (s : State) (op : RunOp) : Bool :=
  op.started.isSome
  && (heldBy s op.seq).all (fun p => (p.2.st == 4 || p.2.st == 5) && p.2.xfers.isEmpty)
  && !(s.work.mesh.any fun i => (heldBy s op.seq).any fun p => fromCluster p.2.logical.toNat i)

/-- The status of a fault code (R469). -/
def faultStatus (code : Nat) : Nat :=
  match code with
  | 5 | 6 | 7 => 0x201
  | 8 => 0x501
  | 9 => 0x502
  | 10 => 0x603
  | _ => 0x102

/-- The order in which R465 prefers a status. -/
def faultRank (st : Nat) : Nat :=
  match st with
  | 0x603 => 0
  | 0x501 => 1
  | 0x502 => 2
  | 0x201 => 3
  | _ => 4

/-- The status of a run: the first of R465's list that applies to any cluster of it. -/
def runStatus (s : State) (op : RunOp) : Nat :=
  let codes := ((heldBy s op.seq).filter fun p => p.2.st == 5).map fun p => p.2.faultCode.toNat
  let codes := codes ++ (op.fault.map fun f => f.2.2.1).toList
  let sts := (if op.internal then [0x603] else []) ++ codes.map faultStatus
  match sts with
  | [] => if op.timedOut then 0x403 else if op.halted then 2 else 0
  | x :: r => r.foldl (fun a b => if faultRank b < faultRank a then b else a) x

/-- result0 of a run (R651). -/
def runResult (s : State) (op : RunOp) : Word64 :=
  match op.fault with
  | some (_, c, code, pc, info) => w64 (code + c * 2 ^ 8 + pc * 2 ^ 16 + info * 2 ^ 32)
  | none =>
    match physOf s (10 * op.row0 + op.col0) with
    | some p => w64 ((cluster s p).faultInfo.toNat * 2 ^ 32)
    | none => 0

/-- A message or signal on its way to logical cluster c; one that comes after the run has completed is never stored (R479). -/
def toCluster (c : Nat) : MeshItem → Bool
  | .mail _ dst _ _ _ => dst == c
  | .ack src _ _ _ _ => src == c
  | .signal _ dst _ _ _ => dst == c

/-- RUN_END (R464, R465, R651). -/
def execRunEnd (r : CmdRef) (s : State) : Res :=
  match findRunning 0x61 r s with
  | none => .next s
  | some t =>
    match runOf s t.seq with
    | none => .next s
    | some op =>
      if !runOver s op then .next s else
      let st := op.aborted.getD (runStatus s op)
      let c := statusWith st (runResult s op)
      let mine := (heldBy s op.seq).map fun p => p.2.logical.toNat
      let s := modWork (fun w => { w with mesh := w.mesh.filter fun i => !mine.any fun c => toCluster c i }) s
      let s := { s with clusters := kmap s.clusters fun _ x => if x.run == some op.seq then { x with run := none } else x }
      .next (finish t c (modWork (fun w => { w with runs := w.runs.filter (·.seq != op.seq) }) s))

/-- The target of a CANCEL_CUE or CLUSTER_HALT (R538, R580): a queue of another company is refused. -/
def haltQueueBad (t : Taken) (s : State) : Chk :=
  let y := fld (word t 1) 43 32
  if y != t.queue && t.queue != 0 && (queue s y).isSome && queueCompany s y != t.company then some (status 0x202) else none

/-- The checks of ClusterHalt, in their order (R583). -/
def clusterHaltChecks (t : Taken) (s : State) : List Chk :=
  [generalCheck t s, badFields (reservedBad t [0, bits 43 32 + bits 15 0]), haltQueueBad t s,
    soleRefuses t s, opcodeCheck t s]

/-- CLUSTER_HALT (R467, R580, R652). A queue that does not exist has no command in flight. -/
def execClusterHalt (r : CmdRef) (s : State) : Res :=
  runRow 0x62 r s fun t s =>
    let y := fld (word t 1) 43 32
    let tag := fld (word t 1) 15 0
    checked t (clusterHaltChecks t s) s fun s =>
      match (s.taken.find? fun u => u.queue == y && u.tag == tag).filter fun u => u.opcode == 0x61 with
      | none => finish t okay s
      | some u =>
        let s := match runOf s u.seq with
          | none => finishCore u (status 2) s
          | some op =>
            if op.started.isNone then
              finishCore u (status 2) (modWork (fun w => { w with runs := w.runs.filter (·.seq != u.seq) }) s)
            else haltRun u.seq (modRun u.seq (fun o => { o with halted := true }) s)
        finish t (okWith 1 0 0) s

/-! Switching companies. -/

/-- Work of the company waits for logical cluster c: a run to start on it, or an allotment to run. -/
def awaits (s : State) (c company : Nat) : Bool :=
  (s.work.runs.any fun r => r.company == company && r.started.isNone && inRun r c)
  || (s.work.atts.any fun o => !o.todo.isEmpty && s.taken.any fun t => t.seq == o.seq && t.company == company)

/-- The state a scrub leaves (R471, R491). -/
def scrubbed (company : Nat) (cl : Cluster) : Cluster :=
  { cl with
    st := 0, company := company, core := Core.fresh, eng := Engine.fresh, engQ := [], imem := [], imageLen := 0, work := []
    workFree := none, dirty := false }

/-- CLUSTER_SCRUB: the cluster passes to work of another company (R471, R472). -/
def execClusterScrub (c company : Nat) (s : State) : Res :=
  if !(decide (c < 160) && decide (company < 64)) then .fault .noSuchThing
  else if !clusterFree s c || cleanFor s c company || !awaits s c company then .next s
  else match physOf s c with
    | none => .next s
    | some p => .next (modPerf2 (fun q => { q with scrubs := satInc q.scrubs }) (modCluster p (scrubbed company) s))

/-! Midnight. -/

/-- A wait graph: nodes with their edges, keys rising. -/
abbrev WaitGraph := KMap (List Nat)

/-- The nodes reached from a set, with fuel for one round a node. -/
def reach (g : WaitGraph) : Nat → List Nat → List Nat
  | 0, l => l
  | n + 1, l => reach g n (l.foldl (fun acc x => (kgetD g x []).foldl (fun acc y => if acc.contains y then acc else acc ++ [y]) acc) l)

def reachFrom (g : WaitGraph) (n : Nat) : List Nat := reach g g.length [n]

/-- The least closed set that holds node n, where there is one (R474): every node reached has an edge and is a node. -/
def closedAt (g : WaitGraph) (n : Nat) : Option (List Nat) :=
  let l := reachFrom g n
  if l.all fun x => khas g x && !(kgetD g x []).isEmpty then some l else none

/-- It contains no smaller closed set: each of its members reaches all of it. -/
def minimalAt (g : WaitGraph) (n : Nat) : Option (List Nat) :=
  (closedAt g n).filter fun l => l.all fun m => (reachFrom g m).contains n

/-- The later to begin waiting, and between equal times the higher number. -/
def younger (since : Nat → Nat) (a b : Nat) : Bool := decide (since b < since a) || (since a == since b && decide (b < a))

/-- The nodes whose waits a scan breaks: the youngest of each minimal closed set. -/
def victims (g : WaitGraph) (since : Nat → Nat) : List Nat :=
  (g.map (·.1)).filter fun n =>
    match minimalAt g n with
    | none => false
    | some l => l.all fun m => m == n || younger since n m

/-- Where a waiting cluster's wait leads (R473). -/
def producers (x : CoreCtx) : List Nat :=
  let src := (x.cl.core.cntSrc.getD x.cl.waitCnt.toNat 0xFF).toNat
  if src < 160 then [src]
  else if src == 0xFD then (runClusters x.run).filter (· != x.c)
  else []

def stopped (s : State) (c : Nat) : Bool := ((clusterIn c s).map fun x => x.cl.st == 4 || x.cl.st == 5).getD true

def waiters (s : State) : List CoreCtx :=
  (upto 160).filterMap fun c => (clusterIn c s).filter fun x => x.cl.st == 3

/-- A wait whose every edge leads to a halted or faulted cluster (R475). -/
def orphaned (s : State) (x : CoreCtx) : Bool := !(producers x).isEmpty && (producers x).all (stopped s)

/-- The cluster side of the graph: edges to clusters that have not stopped (R473). -/
def clusterGraph (s : State) : WaitGraph := (waiters s).map fun x => (x.c, (producers x).filter fun c => !stopped s c)

/-- The queue side (R559, R748). -/
def queueGraph (s : State) : WaitGraph :=
  s.queues.filterMap fun p =>
    p.2.wait.map fun w =>
      (p.1, match queue s w.target with
        | none => []
        | some x =>
          if x.wait.isSome && decide (x.compCount + (s.taken.filter (·.queue == w.target)).length < w.count)
          then [w.target] else [])

def waitSince (s : State) (c : Nat) : Nat := ((clusterIn c s).map (·.cl.core.waitAt)).getD 0
def queueSince (s : State) (q : Nat) : Nat := (((queue s q).bind (·.wait)).map (·.since)).getD 0

/-- End a cluster's wait with CYCLE (R474, R476). -/
def breakCluster (c : Nat) (s : State) : State :=
  match clusterIn c s with
  | none => s
  | some x =>
    let s := postEvent 5 x.run.company (w64 (c * 256)) (w64 x.cl.core.waitAt) (endWaitc x.p 2 s)
    modPerf2 (fun p => { p with cycles := satInc p.cycles }) s

/-- End a queue's wait with WAIT_CYCLE (R560, R561, R748). -/
def breakQueue (q : Nat) (s : State) : State :=
  match queue s q with
  | none => s
  | some x =>
    match x.wait with
    | none => s
    | some w =>
      let s := postEvent 5 x.company (w64 (q * 256 + 1)) (w64 w.since) s
      endWait q w (statusWith 0x402 (w64 (((queue s w.target).map (·.compCount)).getD 0))) (modPerf2 (fun p => { p with waitCycles := satInc p.waitCycles }) s)

/-- MIDNIGHT_SCAN (R474 to R476, R560, R561). -/
def execMidnightScan (s : State) : Res :=
  let orphans := (waiters s).filter (orphaned s)
  let cs := victims (clusterGraph s) (waitSince s)
  let qs := victims (queueGraph s) (queueSince s)
  let s := orphans.foldl (fun s x =>
    modPerf2 (fun p => { p with orphans := satInc p.orphans }) (endWaitc x.p 3 s)) s
  let s := cs.foldl (fun s c => breakCluster c s) s
  .next (settle (qs.foldl (fun s q => breakQueue q s) s))

end Sys2Proof.Machine
end

