-- ==== Sys2Proof/Machine/Journal.lean ====
section
/-!
DEFINITION. What the Loft journal restores (R41, R60, R188, R191), the measured hold-up time (R61, R85, R86), read-only
mode (R282, R879, R880), and the connections a rule table names (R719 to R722).
-/
namespace Sys2Proof.Machine
open Sys2Proof

/-! Records. -/

def agentsPut (m : KMap Nat) (c : Nat) (l : List Nat) : KMap Nat :=
  l.foldl (fun m a => kset m a c) (m.filter fun p => p.2 != c)

/-- A scene as the Loft holds it, with the time of its creation record, before which no use of it counts after a Dawn (R191). -/
def loftScene (x : Scene) (at_ : Nat) : Scene :=
  let l := x.pages.length
  { x with pins := 0, stage := pagesOf l false, wings := pagesOf l false, loft := pagesOf l true, placed := none,
           recorded := true, putAt := at_, lastUse := max x.lastUse at_ }

/-- A weight set as the Loft holds it. -/
def loftWeights (w : Weights) : Weights :=
  let l := w.layers.length
  { w with wings := pagesOf l false, stage := pagesOf l false, loft := pagesOf l true, placed := none, pending := false,
           old := false }

/-- The effect of one journal record on what a Dawn restores (R188). -/
def applyRec (k : JKind) (at_ : Nat) (d : Disk) : Disk :=
  match k with
  | .scenePut x =>
    { d with scenes := (d.scenes.filter fun y => !(y.company == x.company && y.id == x.id)) ++ [loftScene x at_] }
  | .sceneRemove c id => { d with scenes := d.scenes.filter fun y => !(y.company == c && y.id == id) }
  | .sceneRetire c id b =>
    { d with scenes := d.scenes.map fun y => if y.company == c && y.id == id then { y with retired := b } else y }
  | .companyPut c v l => { d with companies := kset d.companies c v, agents := agentsPut d.agents c l }
  | .companyDestroy c =>
    { companies := kdel d.companies c
      agents := d.agents.filter fun p => p.2 != c
      models := d.models.filter fun p => p.2.company != c
      scenes := d.scenes.filter fun y => y.company != c
      weights := d.weights.filter fun w => w.company != c }
  | .modelPut n v =>
    match v with
    | some m => { d with models := kset d.models n m }
    | none => { d with models := kdel d.models n }
  | .weightsPut w =>
    { d with weights := (d.weights.filter fun x => !(x.company == w.company && x.name == w.name)) ++ [loftWeights w] }
  | .weightsRemove c n => { d with weights := d.weights.filter fun x => !(x.company == c && x.name == n) }
  | .weightsRetire c n =>
    { d with weights := d.weights.map fun x => if x.company == c && x.name == n then { x with retired := true } else x }

/-- The channel of a journal copy: the one given, or the next with a working die. -/
def journalChannel (s : State) (c : Nat) : Nat :=
  (((upto 32).map fun j => (c + j) % 32).find? fun e => (channelDies e).any (dieWorks s)).getD c

/-- The two channels of the next journal program. No rule states which two: the model goes round them, with the second 16 channels on,
or where that is the first one the next with a working die (R188, R264; notes/assumptions/110.md). -/
def journalChannels (s : State) : Nat × Nat :=
  let a := journalChannel s (s.loft.jcount % 32)
  let b := journalChannel s ((a + 16) % 32)
  (a, if b == a then journalChannel s ((a + 1) % 32) else b)

/-- The SLC blocks of two channels hold records or a checkpoint (R264). -/
def useChannels (p : Nat × Nat) (l : LoftBlk) : LoftBlk :=
  { l with jcount := l.jcount + 1, jchans := l.jchans ||| BitVec.ofNat 32 (2 ^ p.1) ||| BitVec.ofNat 32 (2 ^ p.2) }

/-- The n oldest records are written, on two channels (R188). -/
def writeRecords (n : Nat) (s : State) : State :=
  let ch := journalChannels s
  let rec_ := fun (r : JRec) => ({ kind := r.kind, at_ := now s, chA := ch.1, chB := ch.2 } : Written)
  if n == 0 then s else
  modLoft (fun l => useChannels ch { l with
    journal := l.journal.drop n, written := l.written ++ (l.journal.take n).map rec_ }) s

/-- What a Dawn restores from the checkpoint and the records written since, in their order (R60). -/
def replay (l : List Written) (d : Disk) : Disk := l.foldl (fun d r => applyRec r.kind r.at_ d) d

/-- Records that survive when on each copy the first failing record and all after it are discarded: those of the longer run (R60). -/
def survivors (a b : Option Nat) (l : List Written) : List Written :=
  l.take (max (a.getD l.length) (b.getD l.length))

/-- An index checkpoint: the last uses as they stand; the records before it are unnecessary (R190, R191). -/
def writeCheckpoint (s : State) : State :=
  let use := fun (y : Scene) => ((findScene s y.company y.id).map (·.lastUse)).getD y.lastUse
  let d := replay s.loft.written s.disk
  let ch := journalChannels s
  modLoft (fun l => useChannels ch { l with written := [], ckptAt := now s })
    { s with disk := { d with scenes := d.scenes.map fun y => { y with lastUse := use y } } }

/-- The first checkpoint of a Dawn: the shutdown record turns unclean until a close record, and a sanitize marker is
cleared (R56, R61, R796). -/
def dawnCheckpoint (s : State) : State :=
  let s := writeCheckpoint s
  { s with dev := { s.dev with checkpoint := true, closeRecord := false }, flash := { s.flash with marker := false } }

/-! Hold-up time. -/

/-- A measurement of the bank (R85). One EV_HEALTH covers a weak measurement and the change of cause bit 7 it makes. -/
def measureHoldup (us : BitVec 16) (s : State) : State :=
  let weak := decide (us.toNat < 20000)
  let s0 := modPwr (fun p => { p with holdupUs := us, holdupWeak := weak, holdupAt := now s }) s
  let n := s.evt.count.getD 0 0
  let s1 := syncHealth s0
  if weak && s1.evt.count.getD 0 0 == n && s.pwr.holdupWeak then postEvent 0 0xFF (healthWord s1) s1.health.lifeS s1
  else s1

/-! Read-only mode. -/

/-- Scenes with no Loft copy that are in no queue go to the write-back queue in order of seal (R880). -/
def insertBySeal (x : Scene) : List Scene → List Scene
  | [] => [x]
  | y :: r => if x.sealSeq < y.sealSeq then x :: y :: r else y :: insertBySeal x r

def bySeal (l : List Scene) : List Scene := l.foldl (fun acc x => insertBySeal x acc) []

def requeueSealed (s : State) : State :=
  let todo := bySeal (s.store.scenes.filter fun x =>
    !allTrue x.loft && !inFlight s x.company x.id && !s.loft.wbQueue.contains (x.company, x.id))
  modLoft (fun l => { l with wbQueue := l.wbQueue ++ todo.map fun x => (x.company, x.id) }) s

/-- Bring ro_mode and ro_cause up to date with the strap and the medium (R282, R879, R880). -/
def updateRo (s : State) : State :=
  let medium := s.loft.roCause == 1
  let ro := medium || s.pwr.forceRo
  let was := s.dev.roMode
  let s := modLoft (fun l => { l with roCause := if medium then 1 else if s.pwr.forceRo then 2 else 0 })
    (modDev (fun d => { d with roMode := ro }) s)
  syncHealth (if was && !ro then requeueSealed s else s)

/-! Programs that were held. -/

/-- Programs may be issued again: the Dawn's checkpoint, when it is still to come, is the first, then held programs go on and the
journal is written (R61, R81, R86). -/
def resumePrograms (s : State) : State :=
  let up := decide (6 ≤ s.dev.dawnPhase.toNat) && (s.dev.curUp || !s.dev.shutdownReq)
  let s := if up && loftOn s && !s.dev.checkpoint && !bankHeld s then dawnCheckpoint s else s
  startJournal (pump s)

/-! Connections. -/

def netNat (l : List Byte) : Nat := l.foldl (fun n b => n * 256 + b.toNat) 0
/-- Fields of an ETH_PORT configuration (R717). -/
def ethEnabled (e : EthPort) : Bool := bit e.cfg 0
def ethPayload (e : EthPort) : Nat := 1024 * 2 ^ min 2 (fld e.cfg 2 1)
def ethIp (e : EthPort) (v6 : Bool) : Nat := if v6 then netNat (slice e.addrs 16 16) else netNat (slice e.addrs 0 4)
def ethUdp (e : EthPort) : Nat := let p := leAt e.addrs 10 2; if p == 0 then 19840 else p
def ethGateway (e : EthPort) (v6 : Bool) : Nat := if v6 then netNat (slice e.addrs 32 16) else netNat (slice e.addrs 4 4)

/-- Enabled ports of a connection's mask with an address of its IP version (R722). -/
def connPorts (s : State) (e : ConnEntry) : List Nat :=
  (upto 4).filter fun k => bit e.ports k && hasEth s && ethEnabled (ethPort s k) && ethIp (ethPort s k) e.ipv6 != 0

def windowMax (e : ConnEntry) : Nat := 65536 * 2 ^ min 8 e.win
def startRate (s : State) (e : ConnEntry) : Nat := 50000 * (connPorts s e).length

/-- The state in which a connection stands when it starts or restarts: SYNCING, or CONFIGURED without a port; a new
initial PSN (R722, R745, R759; notes/assumptions/3.md). -/
def restartConn (s : State) (c : Nat) (e : ConnEntry) : Conn :=
  let psn := Config.initialPsn s.free
  { company := c, entry := e, state := if (connPorts s e).isEmpty then 0 else 1, syncSeen := false, ackSeen := false
    initPsn := psn, nextPsn := psn, expPsn := 0, seen := [], unacked := 0, unackedAt := 0, window := 65536, winPsn := psn
    sent := [], outMsgs := [], inMsgs := [], nextMsg := 0, srtt := 0, rttvar := 0, rate := startRate s e, removed := []
    nextEnt := 0, nextPort := 0, lastRx := now s, ceSeen := false, held := [], inReads := [] }

/-- Bring a connection into existence (R721, R722). -/
def openConn (c : Nat) (e : ConnEntry) (s : State) : State :=
  { s with conns := kset s.conns e.connId (restartConn s c e), free := s.free + 1 }

/-- Every connection that a company's table names (R722, R759). -/
def openConns (c : Nat) (s : State) : State := (tableOf s c).conns.foldl (fun s e => openConn c e s) s

end Sys2Proof.Machine
end

