-- ==== Sys2Proof/Machine/Wire.lean ====
section
/-!
DEFINITION. Messages on a Stagehand connection as the commands start them (R724, R729, R742, R749), and host time as a
command's time fields give it (R308, R310).
-/
namespace Sys2Proof.Machine
open Sys2Proof

def conn (s : State) (k : Nat) : Option Conn := kget s.conns k

/-- The connection belongs to the company (R585 and R726). -/
def connMine (s : State) (c k : Nat) : Bool := ((conn s k).map fun x => x.company == c).getD false

/-- A connection holds at most 1,024 incomplete outbound messages (R749). -/
def messageFree (s : State) (k : Nat) : Bool := ((conn s k).map fun x => decide (x.outMsgs.length < 1024)).getD false

/-- A message to send: opcode, remote address, bytes, the length its header gives, the command and its part it belongs to,
and where a response lands. -/
structure Send where
  opcode : Nat
  remote : Nat
  data   : List Byte
  length : Nat
  owner  : Option Nat
  item   : Nat
  land   : Nat × Nat × Nat
  chunk  : Nat
  stride : Nat

/-- Payload bytes per packet that each port is configured for (R717, R758). -/
def psizes (s : State) : List Nat := (upto 4).map fun k => ethPayload (ethPort s k)

/-- Queue a message under a message ID: a new one for the device's own, the request's for a response (R724, R740). -/
def queueMessage (k id : Nat) (m : Send) (s : State) : State :=
  let o : OutMsg := { msgId := id, opcode := m.opcode, remote := m.remote, data := m.data, length := m.length, sent := 0,
                      owner := m.owner, item := m.item, land := m.land, got := 0, chunk := m.chunk, stride := m.stride,
                      psize := psizes s }
  modConn k (fun x => { x with outMsgs := x.outMsgs ++ [o] }) s

/-- Start a message; STAGEHAND_SEND sends its packets. -/
def startMessage (k : Nat) (m : Send) (s : State) : State :=
  modConn k (fun x => { x with nextMsg := (x.nextMsg + 1) % 2 ^ 32 })
    (queueMessage k (((conn s k).map (·.nextMsg)).getD 0) m s)

/-- A response of the device: no command of its own, a contiguous place at the peer. -/
def response (opcode remote length : Nat) (data : List Byte) : Send :=
  { opcode := opcode, remote := remote, data := data, length := length, owner := none, item := 0, land := (0, 0, 0),
    chunk := 0, stride := 0 }

/-! Packets that leave the device. -/

/-- k bytes of a number, most significant first (R724). -/
def beBytes (k n : Nat) : List Byte := (leBytes k n).reverse
def beAt (l : List Byte) (off k : Nat) : Nat := netNat (slice l off k)

/-- Ports that a connection's packets may leave by now: enabled, with an address, link up (R722, R727, R757). -/
def egressPorts (s : State) (e : ConnEntry) : List Nat := (connPorts s e).filter fun k => (ethPort s k).linkUp

/-- Entropy values in rotation (SH_CTRL.spray). -/
def spray (s : State) : Nat := max 1 (min 16384 s.shSpray.toNat)

/-- The load byte: from the charge agent's bucket in LIMITED mode; in FREE mode from the fill of the sending port's receive
buffers, which no rule of the model gives, a free value (R743; notes/assumptions/2.md). -/
def loadByte (s : State) (e : ConnEntry) (f : Word64) : BitVec 8 :=
  if s.store.bandwidth then
    let g := refill (now s) (agent s e.agent)
    BitVec.ofNat 8 (255 - 255 * g.level / effBurst g)
  else f.truncate 8

/-- A packet of the device on connection k. -/
def makePacket (s : State) (e : ConnEntry) (egress entropy : Nat) (load : BitVec 8) (flags : BitVec 4) (psn msgId : Word32)
    (remote offset length : Nat) (payload : List Byte) : ShPacket :=
  { port := egress, ipv6 := e.ipv6, srcIp := BitVec.ofNat 128 (ethIp (ethPort s egress) e.ipv6), srcPort := entropy,
    dstPort := e.peerPort, ce := false, version := 1, flags := flags, conn := BitVec.ofNat 24 e.peerConn, load := load,
    entropy := BitVec.ofNat 16 entropy, psn := psn, msgId := msgId, remote := BitVec.ofNat 64 remote,
    offset := BitVec.ofNat 32 offset, length := BitVec.ofNat 32 length, payload := payload }

/-- Send a control packet: PSN 0, not acknowledged; its egress port and path entropy are the device's choice, a free value
(R724, R725; notes/assumptions/2.md). -/
def sendControl (k opcode : Nat) (payload : List Byte) (s : State) : State :=
  match conn s k with
  | none => s
  | some x =>
    let (f, s) := takeFree s
    let ports := egressPorts s x.entry
    match ports[f.toNat / 65536 % max 1 ports.length]? with
    | none => s
    | some e =>
      let load := if x.ceSeen && opcode == 0x10 then 255 else loadByte s x.entry (f >>> 40)
      emit (.packet e opcode (makePacket s x.entry e (0xC000 + f.toNat % spray s) load 0 0 0 0 0 payload.length payload)) s

/-! Acknowledgements that the device sends. -/

/-- Distance from one PSN to another, modulo 2^32 (R725). -/
def psnFrom (a b : Word32) : Nat := (b - a).toNat

/-- Bit i of the SACK: PSN cum + 1 + i received. -/
def sackBytes (x : Conn) : List Byte :=
  bitmapBytes 256 ((upto 256).filter fun i => x.seen.contains (x.expPsn + BitVec.ofNat 32 (1 + i)))

/-- Send an ACK (R733, R736, R743). -/
def sendAck (k : Nat) (s : State) : State :=
  match conn s k with
  | none => s
  | some x =>
    let (f, s) := takeFree s
    let win := if f.toNat % 4 == 3 then 65536 else windowMax x.entry
    let s := sendControl k 0x10 (leBytes 4 x.expPsn.toNat ++ leBytes 4 win ++ sackBytes x) s
    modConn k (fun x => { x with unacked := 0, ceSeen := false }) s

/-- The expected PSN moves past what has been received. -/
def advancePsn : Nat → Conn → Conn
  | 0, x => x
  | n + 1, x =>
    if x.seen.contains x.expPsn then
      advancePsn n { x with seen := x.seen.filter (· != x.expPsn), expPsn := x.expPsn + 1 }
    else x

/-- A data packet has been received and its payload is visible: ACK at 16, or at once when it completes a message
(R728, R733). -/
def received (k : Nat) (psn : Word32) (force : Bool) (s : State) : State :=
  let s := modConn k (fun x =>
    let y : Conn := { x with seen := x.seen ++ [psn], unacked := x.unacked + 1,
                             unackedAt := if x.unacked == 0 then now s else x.unackedAt }
    advancePsn y.seen.length y) s
  if force || ((conn s k).map fun x => decide (16 ≤ x.unacked)).getD false then sendAck k s else s

/-- Send a NAK for a packet (R732, R775). -/
def sendNak (k code : Nat) (p : ShPacket) (s : State) : State :=
  let s := if code == 1 then countPortRefusal (((conn s k).map (·.company)).getD 0) s else s
  queueMessage k p.msgId.toNat (response 7 0 8 ([BitVec.ofNat 8 code, 0, 0, 0] ++ leBytes 4 p.psn.toNat)) s

/-! Time fields. -/

/-- A time field of a command in house time: time base 1 is house time, 0 host time, converted at intake (R308, R310). -/
def houseTime (t : Taken) (v : Word64) (houseBase : Bool) : Nat :=
  if houseBase then v.toNat else (v + t.ptm.getD 0).toNat

/-- A command with a host time field taken in without a valid PTM offset (R310). -/
def ptmCheck (t : Taken) (hostBase : Bool) : Chk :=
  if hostBase && t.ptm.isNone then some (status 0x303) else none

def maxGuard : Nat := 1000000
/-- No deadline lies more than 60 s after intake (R318, R377). -/
def farthest (t : Taken) : Nat := t.time + 60000000000

end Sys2Proof.Machine
end

