-- ==== Sys2Proof/Machine/Delivery.lean ====
section
/-!
DEFINITION. CUE, DELIVER, CANCEL_CUE and WEIGHTS_STREAM of 14_commands_motion.md and 07_cues_and_delivery.md: cue lists
(R312 to R317), staging and writing (R318 to R328), STALL, DEADLINE and misses (R329 to R335, R344 to R346), translation
(R336 to R339) and rings (R327, R328, R349, R642).
-/
namespace Sys2Proof.Machine
open Sys2Proof

/-! Cue lists. -/

/-- Byte offset of the lowest nonzero bit of a number. -/
def lowByte (n : Nat) : Nat := lowBit n / 8

/-- A possible BAD_FIELD of a list: whether it offends, and its byte. -/
def listBad (l : List (Bool × Nat)) : Option Nat :=
  l.foldl (fun m p => if p.1 then some (min p.2 (m.getD p.2)) else m) none

/-- A reserved range of word k of a 32-byte record. -/
def reservedByte (w k : Nat) (mask : Nat) : Bool × Nat := (w &&& mask != 0, 8 * k + lowByte (w &&& mask))

def recordWord (raw : List Byte) (k : Nat) : Nat := leAt raw (8 * k) 8

/-- A destination descriptor as its 32 bytes give it (R312). -/
def parseDest (raw : List Byte) : CueDest :=
  let w := w64 (recordWord raw 0)
  { stagehand := fld w 63 56 == 1, conn := fld w 55 32, agent := fld w 7 0, base := recordWord raw 1,
    length := recordWord raw 2 }

/-- The first offending byte of a descriptor (R312, R315, R771). -/
def destBad (raw : List Byte) (s : State) : Option Nat :=
  let w := recordWord raw 0
  let d := parseDest raw
  let kind := fld (w64 w) 63 56
  listBad [(kind == 0 && !agentExists s d.agent || kind == 1 && d.agent != 0, 0),
    reservedByte w 0 (bits 31 8), (kind == 0 && d.conn != 0, 4), (1 < kind, 7), (wraps d.base d.length, 8),
    reservedByte (recordWord raw 3) 3 (bits 63 0)]

/-- A cue list entry resolved: its scenes, their model, layers, destination and translation. -/
structure CueEntry where
  ids    : List SceneId
  model  : Model
  dest   : Nat
  major  : Bool
  first  : Nat
  count  : Nat
  offset : Nat
  mode   : Nat
  unit   : Nat

/-- An entry of kind 0, a range of a stream's chain, or 1, one scene (R312, R313, R336, R337). -/
def parseEntry (t : Taken) (field : Nat) (raw : List Byte) (s : State) : CueEntry :=
  let c := t.company
  let w := w64 (recordWord raw 0)
  let h := fld w 63 32
  let p := w64 (recordWord raw 1)
  let chained := fld w 31 24 == 0
  let id := idOf p (w64 (recordWord raw 2))
  let st := streamAt t s h
  let x := findScene s c id
  let ids := if chained then
      ((chainAt t h).drop (fld p 31 16)).take (fld p 15 0 + 1)
    else [id]
  let m := modelD s (if chained then (st.map (·.model)).getD 64 else (x.map (·.model)).getD 64)
  let lf := fld w 15 8
  { ids := ids, model := m, dest := fld w 19 18, major := bit w 16, first := lf,
    count := if fld w 7 0 == 0 then m.layers - lf else fld w 7 0, offset := recordWord raw 3,
    mode := if chained then translateMode s field h else if field == 0 then 1 else field,
    unit := if chained then h % 16 else (x.map (·.slot)).getD 0 % 16 }

/-- The first offending byte of an entry (R315). -/
def entryBad (t : Taken) (field : Nat) (raw : List Byte) (dests : List CueDest) (s : State) : Option Nat :=
  let c := t.company
  let w := recordWord raw 0
  let h := fld (w64 w) 63 32
  let kind := fld (w64 w) 31 24
  let p := w64 (recordWord raw 1)
  let e := parseEntry t field raw s
  let st := streamAt t s h
  let known := if kind == 0 then st.isSome else (findScene s c (idOf p (w64 (recordWord raw 2)))).isSome
  let n := fld p 15 0 + 1
  let layersBad := known && (e.model.layers ≤ e.first || e.model.layers < e.first + e.count)
  let last := e.offset + e.ids.length * e.count * footprint e.model
  listBad [(layersBad && e.first < e.model.layers, 0), (layersBad && e.model.layers ≤ e.first, 1),
    (dests.length ≤ e.dest, 2), reservedByte w 0 (bits 23 20 + bits 17 17), (1 < kind, 3),
    (if kind == 0 then st.isNone else kind == 1 && h != 0, 4),
    (kind == 1 && !known, 8),
    (kind == 0 && known && (chainAt t h).length < fld p 31 16 + n, 10),
    (kind == 0 && (reservedByte p.toNat 1 (bits 63 32)).1, (reservedByte p.toNat 1 (bits 63 32)).2),
    (kind == 0 && recordWord raw 2 != 0, (reservedByte (recordWord raw 2) 2 (bits 63 0)).2),
    (known && !layersBad && ((dests[e.dest]?).map fun d => decide (d.length < last)).getD false, 24)]

/-- Scene items of an entry, in chain order, placed under R314. -/
def entryItems (e : CueEntry) : List CueItem :=
  let f := footprint e.model
  (upto e.ids.length).map fun k =>
    { scene := e.ids.getD k 0, layerFirst := e.first, layerCount := e.count, dest := e.dest
      offset := e.offset + (if e.major then k * f else k * e.count * f)
      stride := if e.major then e.ids.length * f else f
      sent := false, delivered := false, missed := false }

/-- The list of a CUE or DELIVER, or the byte that makes it bad. -/
structure CueList where
  dests   : List CueDest
  entries : List CueEntry
  bad     : Option Nat

def parseList (t : Taken) (s : State) : CueList :=
  let raw := hostArray t 0
  let nd := fld (word t 2) 49 48 + 1
  let ne := fld (word t 2) 43 32 + 1
  let field := fld (word t 2) 53 52
  let part := fun k => slice raw (32 * k) 32
  let dests := (upto nd).map fun k => parseDest (part k)
  let badDest := (upto nd).findSome? fun k => (destBad (part k) s).map (32 * k + ·)
  let badEntry := (upto ne).findSome? fun k =>
    (entryBad t field (part (nd + k)) dests s).map (32 * (nd + k) + ·)
  { dests := dests, entries := (upto ne).map fun k => parseEntry t field (part (nd + k)) s,
    bad := if badDest.isSome then badDest else badEntry }

/-- The region of a descriptor: write behind the agent, or write on a connection of the company (R317). -/
def destRegion (t : Taken) (s : State) (k : Nat) (d : CueDest) : Region :=
  { kind := b2n d.stagehand, right := 2,
    scope := if d.stagehand then (if connMine s t.company d.conn then d.conn else 0) else d.agent,
    addr := d.base, len := d.length, idx := k, loc := inStruct (32 * k + 8) 64 }

/-! Delivery. -/

def itemLayers (i : CueItem) : List Nat := (upto i.layerCount).map (i.layerFirst + ·)

/-- All pages of an item have a copy in Stage or Wings (R320). -/
def itemReady (s : State) (c : Nat) (i : CueItem) : Bool := (itemLayers i).all fun l => pageReady s c (.scene i.scene l)

def itemPages (s : State) (c : Nat) (layout : Bool) (i : CueItem) : List (List Byte) :=
  match findScene s c i.scene with
  | none => []
  | some x => (itemLayers i).map fun l => convertPage (modelD s x.model) (x.pages.getD l []) false layout

def setItem (seq k : Nat) (f : CueItem → CueItem) (s : State) : State :=
  modWork (fun w => { w with cues := w.cues.map fun o =>
    if o.seq == seq then { o with items := modAt o.items k f } else o }) s

/-- Write a ready item: posted writes through the agent's port, or one message on the connection (R314, R324). -/
def writeItem (c : Nat) (op : CueOp) (k : Nat) (i : CueItem) (s : State) : State :=
  let d := op.dests.getD i.dest { stagehand := false, conn := 0, agent := 0, base := 0, length := 0 }
  let pages := itemPages s c op.layout i
  if d.stagehand then
    if !messageFree s d.conn then s else
    let data := pages.flatten
    setItem op.seq k (fun i => { i with sent := true })
      (startMessage d.conn { opcode := 1, remote := (d.base + i.offset) % 2 ^ 64, data := data, length := data.length,
                             owner := some op.seq, item := k, land := (0, 0, 0), chunk := (pages.headD []).length,
                             stride := i.stride } s)
  else
    let s := (upto pages.length).foldl (fun s j =>
      let p := pages.getD j []
      emit (.hostWrite d.agent (d.base + i.offset + j * i.stride) p) (dma d.agent p.length s)) s
    let end_ := d.base + i.offset + (pages.length - 1) * i.stride + (pages.headD []).length
    modWork (fun w => { w with cues := w.cues.map fun o =>
      if o.seq == op.seq then { o with last := kset o.last d.agent (end_ - 1) } else o })
      (setItem op.seq k (fun i => { i with sent := true, delivered := true }) s)

/-- Complete a delivery once its bytes are visible: on each port other than the completion's, the last address written there is first
read (R325). -/
def finishVisible (t : Taken) (last : KMap Nat) (c : Completion) (s : State) : State :=
  let home := agentPort s (queueAgent s t.queue)
  let far := last.filter fun p => agentPort s p.1 != home
  if far.isEmpty then finish t c (dropDelivery t.seq s) else
  let s := modWork (fun w => { w with flushes := kset w.flushes t.seq (c, far.map (·.1)) }) s
  let s := { s with taken := s.taken.map fun u =>
    if u.seq == t.seq then { u with want := far.map fun p => (p.2, 1), readAt := now s } else u }
  far.foldl (fun s p => emit (.hostRead p.1 p.2 1) (dma p.1 1 s)) s

def cueOf (s : State) (seq : Nat) : Option CueOp := s.work.cues.find? (·.seq == seq)

def missedItems (op : CueOp) : List Nat :=
  (upto op.items.length).filter fun i => ((op.items[i]?).map (·.missed)).getD false

/-- A cue whose items are all delivered or missed completes (R329, R330, R335). -/
def endIfDone (t : Taken) (op : CueOp) (s : State) : State :=
  if !op.items.all (fun i => i.delivered || i.missed) || khas s.work.flushes op.seq then s else
  let missed := missedItems op
  let whole := fun (c : Completion) => finishVisible t op.last c s
  let partly := fun st => finishVisible t op.last (statusWith st (countAndFirst missed))
    (writeBitmap t op.bitmap op.items.length missed s)
  if op.cancelled then partly 2
  else if op.deadlineMode then (if missed.isEmpty then whole okay else partly 1)
  else match op.deadline with
    | some d => if now s ≤ d then whole okay else whole { status 0x401 with r1 := w64 (now s - d) }
    | none => whole okay

/-- Write what is ready of one cue, from its not_before on (R320, R344). -/
def progressCue (seq : Nat) (s : State) : State :=
  match cueOf s seq, s.taken.find? (·.seq == seq) with
  | some op, some t =>
    let s := if !op.begun || op.cancelled then s else
      (upto op.items.length).foldl (fun s k =>
        match op.items[k]? with
        | none => s
        | some i =>
          if i.sent || i.missed || !itemReady s t.company i then s else writeItem t.company op k i s) s
    match cueOf s seq with
    | some op => endIfDone t op s
    | none => s
  | _, _ => s

/-- Earliest deadline first, then the one taken in first; a DELIVER without a deadline comes last (R321). -/
def cueBefore (x y : CueOp) : Bool :=
  match x.deadline, y.deadline with
  | some a, some b => decide (a < b) || (a == b && decide (x.seq < y.seq))
  | some _, none => true
  | none, some _ => false
  | none, none => decide (x.seq < y.seq)

def insertCue (x : CueOp) : List CueOp → List CueOp
  | [] => [x]
  | y :: r => if cueBefore x y then x :: y :: r else y :: insertCue x r

def cueOrder (s : State) : List Nat := (s.work.cues.foldr insertCue []).map (·.seq)

/-- Every cue writes what has become ready (R320, R321). -/
def progressCues (s : State) : State := (cueOrder s).foldl (fun s q => progressCue q s) s

/-- The message of item k has been acknowledged in full (R324, R742); what that makes room for goes in the order of R321. -/
def cueItemAcked (seq k : Nat) (s : State) : State :=
  progressCues (setItem seq k (fun i => { i with delivered := true }) s)

/-- Mark every item that p holds of as missed. -/
def missItems (seq : Nat) (p : CueItem → Bool) (s : State) : State :=
  modWork (fun w => { w with cues := w.cues.map fun o =>
    if o.seq == seq then { o with items := o.items.map fun i => if !i.sent && p i then { i with missed := true } else i }
    else o }) s

/-- A STALL cue ends with its first item that a retired scene or a failed page stops (R244, R286, R345). -/
def failCue (t : Taken) (st k : Nat) (id : SceneId) (s : State) : State :=
  finish t { status st with r0 := w64 k, r1 := id.truncate 64, r2 := (id >>> 64).truncate 64 }
    (modWork (fun w => { w with cues := w.cues.filter (·.seq != t.seq) }) s)

/-- A scene of a company has become retired; `page` is the page whose read failed, whose waiting commands end with
MEDIA_UNCORRECTABLE (R244, R245, R286, R345). -/
def cuesLose (c : Nat) (id : SceneId) (page : Option Nat) (s : State) : State :=
  s.work.cues.foldl (fun s op =>
    match s.taken.find? (·.seq == op.seq) with
    | none => s
    | some t =>
      if t.company != c then s else
      match indexWhere (fun (i : CueItem) => i.scene == id && !i.sent && !i.missed) op.items with
      | none => s
      | some k =>
        if op.deadlineMode then progressCue op.seq (missItems op.seq (fun i => i.scene == id) s)
        else
          let layers := ((op.items[k]?).map itemLayers).getD []
          failCue t (if page.any layers.contains then 0x501 else 0x502) k id s) s

/-- Cues with a destination that p holds of end with ABORTED_RESET (R346). -/
def resetCues (p : CueDest → Bool) (s : State) : State :=
  s.work.cues.foldl (fun s op =>
    match s.taken.find? (·.seq == op.seq) with
    | some t => if op.dests.any p then settle (endCue t op 0x602 s) else s
    | none => s) s

/-- Fields of CUE and DELIVER outside the list (R318, R634). -/
def cueFields (isCue : Bool) (t : Taken) : List Bad :=
  let w := word t 2
  let dl := houseTime t (word t 4) (bit w 55)
  let none_ := word t 4 == 0
  let size := 32 * (fld w 49 48 + fld w 43 32 + 2)
  let a := (word t 1).toNat
  let bm := (word t 5).toNat
  reservedBad t [0, bits 63 0, bits 55 48 + bits 43 0, bits 63 0, bits 63 0, bits 63 0] ++
  bads [(a % 64 != 0 || wraps a size, 64, 0), (maxGuard < fld w 31 0, 128, 2), (fld w 53 52 == 3, 180, 0),
    (!isCue && bit w 54, 182, 2), (!isCue && word t 3 != 0, 192, 2),
    (isCue && !none_ && dl < houseTime t (word t 3) (bit w 54), 192, 2),
    (none_ && (isCue || bit w 50) || isCue && !none_ && farthest t < dl, 256, 2), (bm == 0 || bm % 8 != 0, 320, 3)]

def countPages (es : List CueEntry) : Nat := (es.map fun e => e.ids.length * e.count).sum

/-- Translate the scenes of every entry (R337, R339). -/
def translateCue (t : Taken) (es : List CueEntry) (s : State) : State :=
  es.foldl (fun s e => translate e.mode e.unit t.company e.ids s) s

/-- Ask for the pages of the items not missed that have no copy in Stage or Wings (R319). Reads of one command never wait for those of
another, so the order of R321 finds nothing to order among them. -/
def stageItems (t : Taken) (op : CueOp) (s : State) : State :=
  (op.items.filter (!·.missed)).foldl (fun s i =>
    (itemLayers i).foldl (fun s l => wantPage t.seq t.company (.scene i.scene l) s) s) s

def isRetired (s : State) (c : Nat) (id : SceneId) : Bool := ((findScene s c id).map (·.retired)).getD false

/-- The checks of runCue, in their order (R583). -/
def runCueChecks (isCue : Bool) (t : Taken) (s : State) : List Chk :=
  let w := word t 2
  let l := parseList t s
  let listLen := 32 * (fld w 49 48 + fld w 43 32 + 2)
  let items := l.entries.flatMap entryItems
  let bm := (word t 5).toNat
  let needs := l.dests.any (·.stagehand)
  let usesHost := !bit w 55 || (isCue && !bit w 54)
  [
    (if needs && !hasStagehand s then some (status 0x104) else none),
    (if needs then unitFailed s false else none),
    generalCheck t s, ptmCheck t usesHost,
    badFields (cueFields isCue t), opcodeCheck t s,
    checkRegions t s [hostRegion t s 1 (word t 1).toNat listLen 64],
    l.bad.map (fun b => badIn b 1 64),
    (if wraps bm ((items.length + 63) / 64 * 8) then some (badAt 320 3) else none),
    checkRegions t s ((upto l.dests.length).map (fun k => destRegion t s k (l.dests.getD k (parseDest []))) ++
      [hostRegion t s 2 bm ((items.length + 63) / 64 * 8) 320]),
    (if 1048576 < countPages l.entries then some (status 0x105) else none),
    (if 65536 ≤ (s.taken.filter fun u => (u.opcode == 0x38 || u.opcode == 0x39) && decide (u.seq < t.seq)).length
      then some (status 0x303) else none)]

/-- The command as its packet and list give it; in deadline mode an item that is lost, or not ready once the cutoff has
passed, is missed at once (R318, R330, R331). -/
def cueOpOf (isCue : Bool) (t : Taken) (s : State) : CueOp :=
  let w := word t 2
  let l := parseList t s
  let dl := houseTime t (word t 4) (bit w 55)
  let late := bit w 50 && decide (dl - fld w 31 0 ≤ now s)
  { seq := t.seq, isCue := isCue
    items := (l.entries.flatMap entryItems).map fun i =>
      { i with missed := t.cancelled || (bit w 50 && (isRetired s t.company i.scene || (late && !itemReady s t.company i))) }
    dests := l.dests, notBefore := if isCue then houseTime t (word t 3) (bit w 54) else 0
    deadline := if word t 4 == 0 then none else some dl, guard := fld w 31 0, deadlineMode := bit w 50
    layout := bit w 51, bitmap := (word t 5).toNat
    begun := !isCue || decide (houseTime t (word t 3) (bit w 54) ≤ now s), cutDone := late, cancelled := t.cancelled, last := [] }

/-- CUE and DELIVER (R312 to R323, R344, R634). -/
def runCue (isCue : Bool) (opc : Nat) (r : CmdRef) (s : State) : Res :=
  runRow opc r s fun t s =>
    let w := word t 2
    let l := parseList t s
    let items := l.entries.flatMap entryItems
    checked t (runCueChecks isCue t s) s fun s =>
      let lost := fun (i : CueItem) => isRetired s t.company i.scene
      match (if bit w 50 || t.cancelled then none else indexWhere lost items) with
      | some k => failCue t 0x502 k ((items[k]?.map (·.scene)).getD 0) s
      | none =>
        let op := cueOpOf isCue t s
        let s := modWork (fun w => { w with cues := w.cues ++ [op] }) (setRunning t.seq (translateCue t l.entries s))
        progressCues (stageItems t op s)

/-- CUE (R318, R634). -/
def execCue (r : CmdRef) (s : State) : Res := runCue true 0x38 r s
/-- DELIVER (R634). -/
def execDeliver (r : CmdRef) (s : State) : Res := runCue false 0x39 r s

/-- A CUE or DELIVER of the queue and tag that has run. -/
def cueRunning (r : CmdRef) (s : State) : Option Taken :=
  match findRunning 0x38 r s with
  | some t => some t
  | none => findRunning 0x39 r s

def modCue (seq : Nat) (f : CueOp → CueOp) (s : State) : State :=
  modWork (fun w => { w with cues := w.cues.map fun o => if o.seq == seq then f o else o }) s

/-- CUE_NOT_BEFORE: from not_before the items that are ready are written (R311, R320). -/
def execCueNotBefore (r : CmdRef) (s : State) : Res :=
  match (cueRunning r s).bind fun t => cueOf s t.seq with
  | none => .next s
  | some op => if op.begun || now s < op.notBefore then .next s
               else .next (progressCues (modCue op.seq (fun o => { o with begun := true }) s))

/-- CUE_CUTOFF: at deadline − guard every item not fully in Stage or Wings is missed (R311, R330, R331). -/
def execCueCutoff (r : CmdRef) (s : State) : Res :=
  match cueRunning r s with
  | none => .next s
  | some t =>
    match cueOf s t.seq with
    | none => .next s
    | some op =>
      if !op.deadlineMode || op.cutDone || now s < op.deadline.getD 0 - op.guard then .next s
      else .next (progressCues (missItems op.seq (fun i => !itemReady s t.company i)
        (modCue op.seq (fun o => { o with cutDone := true }) s)))

/-! CANCEL_CUE. -/

/-- The earliest CUE of a queue and tag not yet completed (R538). -/
def cueNamed (s : State) (q tag : Nat) : Option Taken :=
  (s.taken.find? fun t => t.queue == q && t.tag == tag).filter fun t => t.opcode == 0x38

/-- The checks of CancelCue, in their order (R583). -/
def cancelCueChecks (t : Taken) (s : State) : List Chk :=
  [generalCheck t s,
    badFields (reservedBad t [0, bits 43 32 + bits 15 0]), haltQueueBad t s, opcodeCheck t s]

/-- CANCEL_CUE (R335, R348, R538, R580, R635). A CUE taken in and not yet run delivers nothing once it runs, so that its bitmap counts
the items of its list (notes/assumptions/37.md). -/
def execCancelCue (r : CmdRef) (s : State) : Res :=
  runRow 0x3A r s fun t s =>
    let q := fld (word t 1) 43 32
    checked t (cancelCueChecks t s) s
      fun s =>
      match cueNamed s q (fld (word t 1) 15 0) with
      | none => finish t okay s
      | some u =>
        let s := if u.running then
            progressCue u.seq (missItems u.seq (fun _ => true) (modCue u.seq (fun o => { o with cancelled := true }) s))
          else { s with taken := s.taken.map fun v => if v.seq == u.seq then { v with cancelled := true } else v }
        finish t (okWith 1 0 0) s

/-! WEIGHTS_STREAM. -/

def wsOf (s : State) (seq : Nat) : Option WsOp := s.work.wstreams.find? (·.seq == seq)

def modWs (seq : Nat) (f : WsOp → WsOp) (s : State) : State :=
  modWork (fun w => { w with wstreams := w.wstreams.map fun o => if o.seq == seq then f o else o }) s

/-- Deadline of relative layer j (R327). -/
def layerDeadline (op : WsOp) (j : Nat) : Nat := op.base + j * op.period

/-- Layer j is delivered at the present moment; its lateness under STALL counts. -/
def layerDelivered (j : Nat) (t : Nat) (o : WsOp) : WsOp :=
  { o with delivered := o.delivered ++ [j], lateness := max o.lateness (t - layerDeadline o j) }

/-- Write relative layer j into slot j mod S (R324, R327). -/
def writeLayer (op : WsOp) (j : Nat) (s : State) : State :=
  let d := op.layers.getD j []
  let a := op.ring + j % op.slots * op.slotSize
  if op.stagehand then
    if !messageFree s op.target then s else
    modWs op.seq (fun o => { o with sent := o.sent ++ [j] })
      (startMessage op.target { opcode := 1, remote := a % 2 ^ 64, data := d, length := d.length, owner := some op.seq,
                                item := j, land := (0, 0, 0), chunk := 0, stride := 0 } s)
  else
    modWs op.seq (fun o => layerDelivered j (now s) { o with sent := o.sent ++ [j], last := kset o.last op.target (a + d.length - 1) })
      (emit (.hostWrite op.target a d) (dma op.target d.length s))

/-- Every layer is delivered or missed (R329, R330, R642). -/
def endStreamIfDone (t : Taken) (op : WsOp) (s : State) : State :=
  if !(upto op.layers.length).all (fun j => op.delivered.contains j || op.missed.contains j) || khas s.work.flushes op.seq then s
  else
  let missed := (upto op.layers.length).filter op.missed.contains
  let n := op.delivered.length
  if !missed.isEmpty then
    finishVisible t op.last (layerResult 1 n missed) (writeBitmap t op.bitmap op.layers.length missed s)
  else if !op.deadlineMode && 0 < op.lateness then
    finishVisible t op.last { layerResult 0x401 n [] with r2 := w64 op.lateness } s
  else finishVisible t op.last (layerResult 0 n []) s

/-- The layer that relative index j stands for. -/
def layerRef (op : WsOp) (j : Nat) : PageRef := .weights op.set (op.first + j)

/-- Write the layers whose slots are free: relative layer j only while j − consumed < S (R327, R349). One that lies only in the Loft is
asked for and waited for (R242, R243). -/
def progressStream (seq : Nat) (s : State) : State :=
  match wsOf s seq, s.taken.find? (·.seq == seq) with
  | some op, some t =>
    let limit := (counterAt s op.consumed).toNat + op.slots
    let s := (upto op.layers.length).foldl (fun s j =>
      if op.sent.contains j || op.missed.contains j || limit ≤ j then s
      else if pageReady s t.company (layerRef op j) then writeLayer op j s
      else wantPage t.seq t.company (layerRef op j) s) s
    match wsOf s seq with
    | some op => endStreamIfDone t op s
    | none => s
  | _, _ => s

/-- The message of layer j has been acknowledged in full. -/
def layerAcked (seq j : Nat) (s : State) : State := progressStream seq (modWs seq (layerDelivered j (now s)) s)

/-- Streams to a destination that p holds of end with ABORTED_RESET (R346). -/
def resetStreams (p : WsOp → Bool) (s : State) : State :=
  s.work.wstreams.foldl (fun s op =>
    match s.taken.find? (·.seq == op.seq) with
    | some t => if p op then settle (endWeights t op 0x602 s) else s
    | none => s) s

/-- Every stream writes what has become ready. -/
def progressStreams (s : State) : State := (s.work.wstreams.map (·.seq)).foldl (fun s q => progressStream q s) s

/-- Weight set n has become retired; `layer` is the one whose read failed. Under STALL a stream that waits for that layer ends with
MEDIA_UNCORRECTABLE and any other with MEDIA_RETIRED; under DEADLINE the layers not yet written are missed (R244, R286, R289). -/
def streamsLose (n : Nat) (layer : Option Nat) (s : State) : State :=
  s.work.wstreams.foldl (fun s op =>
    match s.taken.find? (·.seq == op.seq) with
    | none => s
    | some t =>
      let left := (upto op.layers.length).filter fun j => !op.sent.contains j && !op.missed.contains j
      if op.set != n || left.isEmpty then s
      else if op.deadlineMode then progressStream op.seq (modWs op.seq (fun o => { o with missed := o.missed ++ left }) s)
      else
        let undone := (upto op.layers.length).filter fun j => !op.delivered.contains j
        let st := if layer.any fun l => left.any fun j => op.first + j == l then 0x501 else 0x502
        finish t (layerResult st op.delivered.length undone) (dropDelivery op.seq s)) s

/-- Fields of WEIGHTS_STREAM (R328, R642). -/
def wsFields (t : Taken) (s : State) : List Bad :=
  let w := word t 2
  let set := setNamed t s (word t 1).toNat
  let first := fld w 15 0
  let count := fld w 31 16
  let have_ := (set.map (·.layers.length)).getD 0
  let slots := fld w 47 32
  let size := (word t 4).toNat
  let largest := (set.map fun x => (x.layers.map (·.length)).foldl max 0).getD 0
  let tgt := fld (word t 5) 23 0
  let ring := (word t 3).toNat
  let sh := bit w 50
  let refused := wraps ring (slots * size) ||
    (tableRefused (tableFor t (checkCompany t) s) (b2n sh) 0 2 tgt ring (slots * size)).isSome
  let off := (word t 6).toNat
  let bm := (word t 10).toNat
  reservedBad t [0, bits 63 0, bits 50 0, bits 63 0, bits 63 0, if sh then bits 23 0 else bits 7 0, bits 63 0, bits 63 0,
    bits 63 0, bits 31 0, bits 63 0] ++
  bads [(set.isNone, 64, 0), (set.isSome && have_ ≤ first, 128, 0),
    (count == 0 || (set.isSome && first < have_ && have_ < first + count), 144, 0), (slots == 0 || 1024 < slots, 160, 0),
    (refused, 192, 0), (size % 64 != 0 || size == 0 || size < largest, 256, 0),
    (if sh then !connMine s t.company tgt else !agentExists s tgt, 320, 0),
    (off % 8 != 0 || !ownCounter t.company off, 384, 0), (maxGuard < fld (word t 9) 31 0, 576, 0),
    (bm == 0 || bm % 8 != 0 || wraps bm ((count + 63) / 64 * 8), 640, 0)]

/-- The checks of WeightsStream, in their order (R583). -/
def weightsStreamChecks (t : Taken) (s : State) : List Chk :=
  let w := word t 2
  let count := fld w 31 16
  let bm := (word t 10).toNat
  [(if bit w 50 then unitFailed s false else none), generalCheck t s, ptmCheck t (!bit w 49),
    badFields (wsFields t s), opcodeCheck t s, checkRegions t s [hostRegion t s 2 bm ((count + 63) / 64 * 8) 640]]

/-- The command as its packet gives it, with the layers it names; in deadline mode a layer whose cutoff has passed is missed (R311, R327,
R642; notes/assumptions/130.md). -/
def streamOpOf (t : Taken) (s : State) : WsOp :=
  let w := word t 2
  let set := setNamed t s (word t 1).toNat
  let base := houseTime t (word t 7) (bit w 49)
  let past := fun (j : Nat) => decide (base + j * (word t 8).toNat - fld (word t 9) 31 0 ≤ now s)
  { seq := t.seq, layers := (((set.map (·.layers)).getD []).drop (fld w 15 0)).take (fld w 31 16)
    first := fld w 15 0, slots := fld w 47 32, slotSize := (word t 4).toNat, ring := (word t 3).toNat
    stagehand := bit w 50, target := fld (word t 5) 23 0, consumed := (word t 6).toNat
    base := base, period := (word t 8).toNat, guard := fld (word t 9) 31 0
    deadlineMode := bit w 48, bitmap := (word t 10).toNat, sent := [], delivered := []
    missed := if bit w 48 then (upto (fld w 31 16)).filter past else [], lateness := 0
    set := (set.map (·.setNum)).getD 0, last := [] }

/-- WEIGHTS_STREAM (R289, R310, R327, R328, R642). -/
def execWeightsStream (r : CmdRef) (s : State) : Res :=
  runRow 0x49 r s fun t s =>
    let set := setNamed t s (word t 1).toNat
    checked t (weightsStreamChecks t s) s
      fun s =>
      if (set.map (·.retired)).getD false then
        finish t (layerResult 0x502 0 (upto (fld (word t 2) 31 16))) s
      else
        progressStream t.seq
          (modWork (fun x => { x with wstreams := x.wstreams ++ [streamOpOf t s] }) (setRunning t.seq s))

/-- WEIGHTS_SLOT_FREE: the consumed counter has moved, and layers whose slots are free are written (R327, R349). -/
def execWeightsSlotFree (r : CmdRef) (s : State) : Res :=
  match findRunning 0x49 r s with
  | none => .next s
  | some t => .next (progressStream t.seq s)

/-- WEIGHTS_LAYER_CUTOFF: a layer not yet written at its deadline − guard is missed (R642). -/
def execWeightsLayerCutoff (r : CmdRef) (j : Nat) (s : State) : Res :=
  match findRunning 0x49 r s with
  | none => .next s
  | some t =>
    match wsOf s t.seq with
    | none => .next s
    | some op =>
      if !op.deadlineMode || op.layers.length ≤ j || op.sent.contains j || op.missed.contains j
        || now s < layerDeadline op j - op.guard then .next s
      else .next (progressStream t.seq (modWs t.seq (fun o => { o with missed := o.missed ++ [j] }) s))

end Sys2Proof.Machine
end

