-- ==== Sys2Proof/Machine/Flags.lean ====
section
/-!
DEFINITION. The arithmetic of numbers and its flags (R366, R488, R492, R493, R497, R506, R509): the memory types, exact
values, rounding to nearest even, the operations, and every conversion. A result is the element's bits together with the
flags it raises: NV 16, DZ 8, OF 4, UF 2, NX 1.
-/
namespace Sys2Proof.Machine
open Sys2Proof

/-- A result: bits and flags. -/
abbrev Flagged := Nat × Nat

def flagNV : Nat := 16
def flagDZ : Nat := 8
def flagOF : Nat := 4
def flagUF : Nat := 2
def flagNX : Nat := 1

/-- A float format: exponent and mantissa bits, and whether it has infinities (E4M3 has none). -/
structure Fmt where
  eb  : Nat
  mb  : Nat
  inf : Bool
deriving DecidableEq, Repr

def Fmt.fp16 : Fmt := { eb := 5, mb := 10, inf := true }
def Fmt.bf16 : Fmt := { eb := 8, mb := 7, inf := true }
def Fmt.fp32 : Fmt := { eb := 8, mb := 23, inf := true }
def Fmt.e4m3 : Fmt := { eb := 4, mb := 3, inf := false }
def Fmt.e5m2 : Fmt := { eb := 5, mb := 2, inf := true }

def Fmt.bias (f : Fmt) : Nat := 2 ^ (f.eb - 1) - 1
/-- Exponent of the least normal number. -/
def Fmt.emin (f : Fmt) : Int := 1 - (f.bias : Int)
def Fmt.width (f : Fmt) : Nat := 1 + f.eb + f.mb

/-- The canonical NaN (R493). -/
def Fmt.nan (f : Fmt) : Nat :=
  if f.inf then (2 ^ f.eb - 1) * 2 ^ f.mb + 2 ^ (f.mb - 1) else 2 ^ (f.eb + f.mb) - 1
def Fmt.signBit (f : Fmt) (neg : Bool) : Nat := b2n neg * 2 ^ (f.eb + f.mb)
def Fmt.infBits (f : Fmt) (neg : Bool) : Nat := f.signBit neg + (2 ^ f.eb - 1) * 2 ^ f.mb
/-- The largest finite value: 448 in E4M3. -/
def Fmt.maxBits (f : Fmt) (neg : Bool) : Nat :=
  f.signBit neg + (if f.inf then (2 ^ f.eb - 1) * 2 ^ f.mb - 1 else 2 ^ (f.eb + f.mb) - 2)

/-- An exact value: ± m × 2^e with m positive, a zero, an infinity, or a NaN that signals or not. -/
inductive FVal where
  | nan (signals : Bool)
  | inf (neg : Bool)
  | zero (neg : Bool)
  | fin (neg : Bool) (m : Nat) (e : Int)
deriving DecidableEq, Repr

/-- The value of an element's bits. -/
def Fmt.value (f : Fmt) (b : Nat) : FVal :=
  let man := b % 2 ^ f.mb
  let ex := b / 2 ^ f.mb % 2 ^ f.eb
  let neg := b / 2 ^ (f.eb + f.mb) % 2 == 1
  if f.inf && ex == 2 ^ f.eb - 1 then
    if man == 0 then .inf neg else .nan (decide (man < 2 ^ (f.mb - 1)))
  else if !f.inf && ex == 2 ^ f.eb - 1 && man == 2 ^ f.mb - 1 then .nan false
  else if ex == 0 then
    if man == 0 then .zero neg else .fin neg man (f.emin - (f.mb : Int))
  else .fin neg (man + 2 ^ f.mb) ((ex : Int) - (f.bias : Int) - (f.mb : Int))

/-- m × 2^e in units of 2^q, rounded to nearest even, and whether that was inexact. -/
def roundTo (m : Nat) (e q : Int) : Nat × Bool :=
  if q ≤ e then (m * 2 ^ (e - q).toNat, false)
  else
    let d := 2 ^ (q - e).toNat
    let t := m / d
    let r := m % d
    (if d < 2 * r || (2 * r == d && t % 2 == 1) then t + 1 else t, r != 0)

/-- Round ± m × 2^e, m positive, to a format (R492): nearest even, subnormals kept; overflow gives an infinity, in E4M3
±448. Underflow is tiny after rounding and inexact (R509). -/
def Fmt.round (f : Fmt) (neg : Bool) (m : Nat) (e : Int) : Flagged :=
  let top : Int := (Nat.log2 m : Int) + e
  let q : Int := max top f.emin - (f.mb : Int)
  let (t, nx) := roundTo m e q
  let (t, q) := if t == 2 ^ (f.mb + 1) then (2 ^ f.mb, q + 1) else (t, q)
  let ex := (q + (f.mb : Int) + (f.bias : Int)).toNat
  let tiny :=
    if top < f.emin then
      let (u, _) := roundTo m e (top - (f.mb : Int))
      !(u == 2 ^ (f.mb + 1) && top + 1 == f.emin)
    else false
  let fl := if nx then flagNX + (if tiny then flagUF else 0) else 0
  if t < 2 ^ f.mb then (f.signBit neg + t, fl)
  else
    let b := ex * 2 ^ f.mb + (t - 2 ^ f.mb)
    let limit := f.maxBits false
    if limit < b then ((if f.inf then f.infBits neg else f.maxBits neg), flagOF + flagNX)
    else (f.signBit neg + b, fl)

/-- A value as the format holds it. An infinity in E4M3 becomes ±448 and overflows (R492, R509). -/
def Fmt.ofVal (f : Fmt) : FVal → Flagged
  | .nan s => (f.nan, if s then flagNV else 0)
  | .inf neg => if f.inf then (f.infBits neg, 0) else (f.maxBits neg, flagOF + flagNX)
  | .zero neg => (f.signBit neg, 0)
  | .fin neg m e => f.round neg m e

def FVal.isNan : FVal → Bool
  | .nan _ => true
  | _ => false
def FVal.signals : FVal → Bool
  | .nan s => s
  | _ => false
def FVal.isNeg : FVal → Bool
  | .nan _ => false
  | .inf n => n
  | .zero n => n
  | .fin n _ _ => n
def FVal.negate : FVal → FVal
  | .nan s => .nan s
  | .inf n => .inf !n
  | .zero n => .zero !n
  | .fin n m e => .fin (!n) m e
def FVal.abs : FVal → FVal
  | .nan s => .nan s
  | .inf _ => .inf false
  | .zero _ => .zero false
  | .fin _ m e => .fin false m e

/-- An exact result with the flags found before rounding. -/
abbrev Exact := FVal × Nat

def nanOf (l : List FVal) : Exact := (.nan false, if l.any (·.signals) then flagNV else 0)
def invalid : Exact := (.nan false, flagNV)

/-- A signed sum of multiples of 2^e as a value; an exact zero is +0. -/
def ofSum (n : Int) (e : Int) : FVal :=
  if n == 0 then .zero false else .fin (decide (n < 0)) n.natAbs e

def signed (neg : Bool) (m : Nat) : Int := if neg then -(m : Int) else m

def exactAdd (a b : FVal) : Exact :=
  match a, b with
  | .nan _, _ | _, .nan _ => nanOf [a, b]
  | .inf x, .inf y => if x == y then (.inf x, 0) else invalid
  | .inf x, _ => (.inf x, 0)
  | _, .inf y => (.inf y, 0)
  | .zero x, .zero y => (.zero (x && y), 0)
  | .zero _, v => (v, 0)
  | v, .zero _ => (v, 0)
  | .fin x m e, .fin y n g =>
    let q := min e g
    (ofSum (signed x (m * 2 ^ (e - q).toNat) + signed y (n * 2 ^ (g - q).toNat)) q, 0)

def exactMul (a b : FVal) : Exact :=
  match a, b with
  | .nan _, _ | _, .nan _ => nanOf [a, b]
  | .inf _, .zero _ | .zero _, .inf _ => invalid
  | .inf x, v => (.inf (x != v.isNeg), 0)
  | v, .inf y => (.inf (v.isNeg != y), 0)
  | .zero x, v => (.zero (x != v.isNeg), 0)
  | v, .zero y => (.zero (v.isNeg != y), 0)
  | .fin x m e, .fin y n g => (.fin (x != y) (m * n) (e + g), 0)

/-- a × b + c, exactly. -/
def exactFma (a b c : FVal) : Exact :=
  if a.isNan || b.isNan || c.isNan then
    let (_, fl) := exactMul a b
    (.nan false, fl ||| (if c.signals then flagNV else 0))
  else
    let (p, fl) := exactMul a b
    if p.isNan then (p, fl)
    else
      let (r, fl') := exactAdd p c
      (r, fl ||| fl')

/-- A quotient of naturals times 2^e, with enough bits and a sticky last bit that every rounding of it is right. -/
def quotient (neg : Bool) (m n : Nat) (e : Int) : FVal :=
  let k := 64 + Nat.log2 n
  let t := m * 2 ^ k / n
  let r := m * 2 ^ k % n
  .fin neg (2 * t + (if r == 0 then 0 else 1)) (e - (k : Int) - 1)

def exactDiv (a b : FVal) : Exact :=
  match a, b with
  | .nan _, _ | _, .nan _ => nanOf [a, b]
  | .inf _, .inf _ | .zero _, .zero _ => invalid
  | .inf x, v => (.inf (x != v.isNeg), 0)
  | v, .inf y => (.zero (v.isNeg != y), 0)
  | .zero x, v => (.zero (x != v.isNeg), 0)
  | .fin x _ _, .zero y => (.inf (x != y), flagDZ)
  | .fin x m e, .fin y n g => (quotient (x != y) m n (e - g), 0)

/-- The integer square root, bit by bit from bit k. -/
def isqrt (n : Nat) : Nat → Nat → Nat
  | 0, acc => acc
  | k + 1, acc => if (acc + 2 ^ k) * (acc + 2 ^ k) ≤ n then isqrt n k (acc + 2 ^ k) else isqrt n k acc

def sqrtNat (n : Nat) : Nat := isqrt n (Nat.log2 n / 2 + 1) 0

/-- √(m × 2^e) with a sticky last bit. -/
def rootOf (m : Nat) (e : Int) : FVal :=
  let (m, e) := if e % 2 == 0 then (m, e) else (2 * m, e - 1)
  let n := m * 2 ^ 128
  let t := sqrtNat n
  .fin false (2 * t + (if t * t == n then 0 else 1)) (e / 2 - 64 - 1)

def exactSqrt (a : FVal) : Exact :=
  match a with
  | .nan s => (.nan false, if s then flagNV else 0)
  | .zero n => (.zero n, 0)
  | .inf n => if n then invalid else (.inf false, 0)
  | .fin n m e => if n then invalid else (rootOf m e, 0)

/-- Round an exact result. -/
def Fmt.finish (f : Fmt) (x : Exact) : Flagged :=
  let (b, fl) := f.ofVal x.1
  (b, fl ||| x.2)

def Fmt.add (f : Fmt) (a b : Nat) : Flagged := f.finish (exactAdd (f.value a) (f.value b))
def Fmt.sub (f : Fmt) (a b : Nat) : Flagged := f.finish (exactAdd (f.value a) (f.value b).negate)
def Fmt.mul (f : Fmt) (a b : Nat) : Flagged := f.finish (exactMul (f.value a) (f.value b))
def Fmt.fma (f : Fmt) (a b c : Nat) : Flagged := f.finish (exactFma (f.value a) (f.value b) (f.value c))
def Fmt.div (f : Fmt) (a b : Nat) : Flagged := f.finish (exactDiv (f.value a) (f.value b))
def Fmt.sqrt (f : Fmt) (a : Nat) : Flagged := f.finish (exactSqrt (f.value a))

def oneVal : FVal := .fin false 1 0

def Fmt.rcp (f : Fmt) (a : Nat) : Flagged := f.finish (exactDiv oneVal (f.value a))

/-! Order. -/

/-- The order of two values that are no NaN; −0 equals +0. -/
def lessThan (a b : FVal) : Bool :=
  match a, b with
  | .nan _, _ | _, .nan _ => false
  | .inf x, .inf y => x && !y
  | .inf x, _ => x
  | _, .inf y => !y
  | .zero _, .zero _ => false
  | .zero _, .fin y _ _ => !y
  | .fin x _ _, .zero _ => x
  | .fin x m e, .fin y n g =>
    let q := min e g
    decide (signed x (m * 2 ^ (e - q).toNat) < signed y (n * 2 ^ (g - q).toNat))

/-- MAX and MIN: a NaN operand gives NaN; max(−0, +0) = +0 and min(−0, +0) = −0. -/
def exactMax (a b : FVal) : Exact :=
  if a.isNan || b.isNan then nanOf [a, b]
  else if lessThan a b || (!lessThan b a && a.isNeg) then (b, 0) else (a, 0)
def exactMin (a b : FVal) : Exact :=
  if a.isNan || b.isNan then nanOf [a, b]
  else if lessThan b a || (!lessThan a b && b.isNeg) then (b, 0) else (a, 0)

def Fmt.max (f : Fmt) (a b : Nat) : Flagged := f.finish (exactMax (f.value a) (f.value b))
def Fmt.min (f : Fmt) (a b : Nat) : Flagged := f.finish (exactMin (f.value a) (f.value b))

/-- Conditions of VCMP: 0 EQ, 1 NE, 2 LT, 3 GE, 4 LE, 5 GT (R497, R509). -/
def fcmp (cc : Nat) (a b : FVal) : Bool × Nat :=
  let nan := a.isNan || b.isNan
  let fl := if nan && (2 ≤ cc || a.signals || b.signals) then flagNV else 0
  if nan then (cc == 1, fl) else
  (match cc with
   | 0 => !lessThan a b && !lessThan b a
   | 1 => lessThan a b || lessThan b a
   | 2 => lessThan a b
   | 3 => !lessThan a b
   | 4 => !lessThan b a
   | _ => lessThan b a, fl)

/-- −x, |x| and x of a float element; every NaN result is canonical (R493). -/
def Fmt.neg (f : Fmt) (a : Nat) : Nat := if (f.value a).isNan then f.nan else (f.ofVal (f.value a).negate).1
def Fmt.abs (f : Fmt) (a : Nat) : Nat := if (f.value a).isNan then f.nan else (f.ofVal (f.value a).abs).1
def Fmt.canon (f : Fmt) (a : Nat) : Nat := if (f.value a).isNan then f.nan else a

/-! EXP and RSQRT: a relative error of at most 2^−22 is allowed, so the result is a free value within that bound. -/

/-- floor(ln 2 × 2^192). -/
def ln2Fixed : Nat := 4350955369971217654477563090224794165364344896676135745069
def fixedBits : Nat := 192

/-- The sum of r^n / n! for r in units of 2^−192, from term n on. -/
def expSeries : Nat → Nat → Int → Int → Int → Int
  | 0, _, _, _, acc => acc
  | k + 1, n, r, term, acc =>
    let t := term * r / 2 ^ fixedBits / (n : Int)
    expSeries k (n + 1) r t (acc + t)

/-- e^x for |x| below 256, to far more bits than any type here holds. -/
def expExact (x : Int) : FVal :=
  let k := x / (ln2Fixed : Int)
  let r := x - k * (ln2Fixed : Int)
  let y := expSeries 60 1 r (2 ^ fixedBits : Int) (2 ^ fixedBits : Int)
  .fin false y.toNat (k - (fixedBits : Int))

/-- e^a: the special cases, and a value beyond every format where |a| is 256 or more. -/
def expVal (a : FVal) : Exact :=
  match a with
  | .nan s => (.nan false, if s then flagNV else 0)
  | .inf n => if n then (.zero false, 0) else (.inf false, 0)
  | .zero _ => (oneVal, 0)
  | .fin n m e =>
    if 8 < (Nat.log2 m : Int) + e + 1 then (.fin false 1 (if n then -400 else 400), 0)
    else
      let x := if (0 : Int) ≤ e + 192 then signed n (m * 2 ^ (e + 192).toNat) else 0
      (expExact x, 0)

/-- 1/√a (R509: a negative value is invalid, a zero divides). -/
def rsqrtVal (a : FVal) : Exact :=
  match a with
  | .nan s => (.nan false, if s then flagNV else 0)
  | .inf n => if n then invalid else (.zero false, 0)
  | .zero n => (.inf n, flagDZ)
  | .fin n m e =>
    if n then invalid else
    match rootOf m e with
    | .fin _ t g => (quotient false 1 t (-g), 0)
    | v => (v, 0)

/-- m × 2^e times (2^22 ± 1) / 2^22. -/
def nudge (up : Bool) (v : FVal) : FVal :=
  match v with
  | .fin n m e => .fin n (m * (if up then 2 ^ 22 + 1 else 2 ^ 22 - 1)) (e - 22)
  | v => v

/-- The result of an approximate operation: the candidate bits where they lie within relative error 2^−22 of the exact
value, or within the roundings of those bounds where the format is too coarse for them; otherwise the rounded value. -/
def Fmt.approx (f : Fmt) (exact : Exact) (cand : Nat) : Flagged :=
  let (ref, fl) := f.finish exact
  match exact.1 with
  | .fin _ _ _ =>
    let lo := nudge false exact.1
    let hi := nudge true exact.1
    let c := f.value cand
    let within := !c.isNan && !lessThan c lo && !lessThan hi c
    let coarse := f.mb != 23 || decide (ref < 2 ^ f.mb) || ref == f.infBits false
    let between := !c.isNan && !lessThan c (f.value (f.ofVal lo).1) && !lessThan (f.value (f.ofVal hi).1) c
    (if within || (coarse && between) then cand % 2 ^ f.width else ref, fl)
  | _ => (ref, fl)

def Fmt.expOf (f : Fmt) (a : Nat) : Flagged :=
  f.approx (expVal (f.value a))
    (if f.mb == 23 then (Config.expApprox (BitVec.ofNat 32 a)).toNat
     else (Config.expApproxHalf (f.mb == 7) (BitVec.ofNat 16 a)).toNat)

def Fmt.rsqrtOf (f : Fmt) (a : Nat) : Flagged :=
  f.approx (rsqrtVal (f.value a))
    (if f.mb == 23 then (Config.rsqrtApprox (BitVec.ofNat 32 a)).toNat
     else (Config.rsqrtApproxHalf (f.mb == 7) (BitVec.ofNat 16 a)).toNat)

/-- x × 2^n. -/
def Fmt.scale (f : Fmt) (a : Nat) (n : Int) : Flagged :=
  match f.value a with
  | .fin s m e => f.round s m (e + n)
  | v => f.ofVal v

/-! Memory types (mtype; the element types are its first five). -/

/-- The float format of a type. -/
def fmtOf (t : Nat) : Option Fmt :=
  match t with
  | 0 => some .fp16
  | 1 => some .bf16
  | 2 => some .fp32
  | 5 => some .e4m3
  | 6 => some .e5m2
  | _ => none

/-- Bits of an element. -/
def typeBits (t : Nat) : Nat :=
  match t with
  | 0 | 1 | 3 => 16
  | 2 | 4 => 32
  | 8 => 4
  | _ => 8

def isFloat (t : Nat) : Bool := (fmtOf t).isSome

/-- An element's bits as a signed integer, and back modulo its width. -/
def toSigned (w n : Nat) : Int := if n % 2 ^ w < 2 ^ (w - 1) then (n % 2 ^ w : Nat) else ((n % 2 ^ w : Nat) : Int) - 2 ^ w
def ofSigned (w : Nat) (x : Int) : Nat := (x % (2 ^ w : Int)).toNat

/-- A float to an integer of w bits: nearest even, saturating, a NaN gives 0 (R492, R509). -/
def toInteger (w : Nat) (v : FVal) : Flagged :=
  let hi : Int := 2 ^ (w - 1) - 1
  let lo : Int := -(2 ^ (w - 1))
  match v with
  | .nan _ => (0, flagNV)
  | .inf n => (ofSigned w (if n then lo else hi), flagNV)
  | .zero _ => (0, 0)
  | .fin n m e =>
    let (t, nx) := roundTo m e 0
    let x := signed n t
    if hi < x then (ofSigned w hi, flagNV)
    else if x < lo then (ofSigned w lo, flagNV)
    else (ofSigned w x, if nx then flagNX else 0)

def intVal (x : Int) : FVal := if x == 0 then .zero false else .fin (decide (x < 0)) x.natAbs 0

/-- Convert an element from one type to another (R492). An integer outside a narrower integer type's range has no stated
result: `free` is it (notes/assumptions/2.md). -/
def convert (frm dst b free : Nat) : Flagged :=
  match fmtOf frm, fmtOf dst with
  | some f, some g => g.ofVal (f.value b)
  | some f, none => toInteger (typeBits dst) (f.value b)
  | none, some g => g.ofVal (intVal (toSigned (typeBits frm) b))
  | none, none =>
    let x := toSigned (typeBits frm) b
    if -(2 ^ (typeBits dst - 1) : Int) ≤ x && x ≤ 2 ^ (typeBits dst - 1) - 1 then (ofSigned (typeBits dst) x, 0)
    else (free % 2 ^ typeBits dst, 0)

end Sys2Proof.Machine
end

