-- ==== Sys2Proof/Machine/Scoring.lean ====
section
/-!
DEFINITION. The Prompter's bit-stream arithmetic, bit for bit: generators (R403 to R405), FIXED and ADAPTIVE scoring of one
page (R406 to R411), as functions of the table, the network, the sketch query and the page sketch alone (R408).
-/
namespace Sys2Proof.Machine
open Sys2Proof

/-- One step of a generator (R403). -/
def lfsr (x : Nat) : Nat := if x % 2 == 1 then Nat.xor (x / 2) 0x80200003 else x / 2

def lfsrN : Nat → Nat → Nat
  | 0, x => x
  | n + 1, x => lfsrN n (lfsr x)

/-- The seed of generator g for a table's seed (R403). -/
def genSeed (seed g : Nat) : Nat :=
  let v := Nat.xor seed (g * 0x9E3779B9 % 2 ^ 32)
  if v == 0 then 1 else v

/-- The bit that a generator emits for a code, and the choice it makes among n inputs (R404). -/
def genBit (x code : Nat) : Bool := decide (x % 256 < code)
def genSel (x n : Nat) : Nat := x / 256 * n / 2 ^ 24

/-- The nonzero weights of a unit in input order, as (input, inverted) (R406). -/
abbrev UnitTerms := List (Nat × Bool)

/-- A device layer: its units, and K of its activation, 0 for none (R407). -/
structure NetLayer where
  units : List UnitTerms
  k     : Nat

/-- Network j of a table (R412, R413). -/
def netOf (b : List Byte) (j : Nat) : List NetLayer :=
  (upto (tblNh b + 1)).map fun k =>
    { units := (upto (netWidth b k)).map fun u =>
        (upto (netFanIn b k)).filterMap fun i =>
          let c := weightCode b j k u i
          if c == 1 then some (i, false) else if c == 2 then some (i, true) else none
      k := if k == tblNh b || tblAct b k == 0 then 0 else 2 ^ tblAct b k }

/-- Select generators and activation counters of a layer. -/
structure LayerState where
  sel : List Nat
  fsm : List Nat

/-- A layer at the start of a page, its generators stepped so many bit times (R403, R405, R407). -/
def layerStart (seed layer off : Nat) (l : NetLayer) : LayerState :=
  { sel := (upto l.units.length).map fun u => lfsrN off (genSeed seed (64 + 256 * layer + u))
    fsm := l.units.map fun _ => l.k / 2 }

/-- One unit at bit time t: its sum and activation (R406, R407). -/
def unitBit (t k : Nat) (ins : List Bool) (terms : UnitTerms) (sel fsm : Nat) : Bool × Nat :=
  let y := if terms.isEmpty then t % 2 == 1 else
    match terms[genSel sel terms.length]? with
    | some (i, neg) => xor neg (ins.getD i false)
    | none => false
  if k == 0 then (y, fsm) else
  let f := if y then min (k - 1) (fsm + 1) else fsm - 1
  (decide (k / 2 ≤ f), f)

/-- One bit time of a layer. -/
def layerBit (t : Nat) (l : NetLayer) (ins : List Bool) (st : LayerState) : List Bool × LayerState :=
  let r := (l.units.zip (st.sel.zip st.fsm)).map fun (u, x, f) => unitBit t l.k ins u x f
  (r.map (·.1), { sel := st.sel.map lfsr, fsm := r.map (·.2) })

/-- A code source: generator state and code. -/
abbrev Source := Nat × Nat

def stepSource (x : Source) : Source := (lfsr x.1, x.2)

/-- The code of a sketch element, read as a signed byte. -/
def sketchCode (b : Byte) : Nat := (b.toNat + 128) % 256

/-- Sources of the query and of the sketch at the start of a page (R405). -/
def pageSources (seed base : Nat) (e : List Byte) : List Source :=
  (upto 32).map fun i => (genSeed seed (base + i), sketchCode (e.getD i 0))

/-- Input bits of layer 0: the XNOR of query and sketch bits (R406). -/
def xnorBits (q x : List Source) : List Bool := (q.zip x).map fun (a, b) => genBit a.1 a.2 == genBit b.1 b.2

/-- One bit time of the whole network in FIXED mode. -/
def fixedBit (t : Nat) : List NetLayer → List LayerState → List Bool → List LayerState × List Bool
  | l :: ls, st :: sts, ins =>
    let (y, st) := layerBit t l ins st
    let (r, out) := fixedBit t ls sts y
    (st :: r, out)
  | _, sts, ins => (sts, ins)

/-- n bit times of FIXED mode; the ones of the output unit (R406, R409). -/
def fixedRun (net : List NetLayer) : Nat → Nat → List Source → List Source → List LayerState → Nat → Nat
  | 0, _, _, _, _, ones => ones
  | n + 1, t, q, x, sts, ones =>
    let (sts, out) := fixedBit t net sts (xnorBits q x)
    fixedRun net n (t + 1) (q.map stepSource) (x.map stepSource) sts (ones + b2n (out.headD false))

def scoreFixed (net : List NetLayer) (seed len : Nat) (q x : List Byte) : Nat :=
  let sts := net.zipIdx.map fun (l, k) => layerStart seed k 0 l
  let ones := fixedRun net len 0 (pageSources seed 0 q) (pageSources seed 32 x) sts 0
  min 0xFFFF (ones * (65536 / len))

/-- n bit times of one layer in ADAPTIVE mode: its input sources (of layer 0, the query's and the sketch's), its state and
the ones of each unit. -/
def adaptiveRun (l : NetLayer) (first : Bool) : Nat → Nat → List Source → LayerState → List Nat →
    List Source × LayerState × List Nat
  | 0, _, src, st, ones => (src, st, ones)
  | n + 1, t, src, st, ones =>
    let ins := if first then xnorBits (src.take 32) (src.drop 32) else src.map fun x => genBit x.1 x.2
    let (y, st) := layerBit t l ins st
    adaptiveRun l first n (t + 1) (src.map stepSource) st ((ones.zip y).map fun (a, b) => a + b2n b)

/-- The length a layer chooses from its probe: `hits` of `width` units counted 24 to 40 (R411). -/
def layerLength (tmin tmax hits width : Nat) : Nat :=
  if hits == 0 then tmin
  else if 8 * hits ≤ width then max tmin (tmax / 4)
  else if 2 * hits ≤ width then max tmin (tmax / 2)
  else tmax

/-- ADAPTIVE mode: layer k at bit time `off`, its input codes (none at layer 0) and the layers that follow (R410, R411). -/
def adaptiveLayers (seed tmin tmax : Nat) (q x : List Byte) : List NetLayer → Nat → Nat → Option (List Nat) → Nat
  | [], _, _, codes => (codes.getD []).headD 0
  | l :: rest, k, off, codes =>
    let src : List Source :=
      match codes with
      | none => pageSources seed 0 q ++ pageSources seed 32 x
      | some cs => cs.zipIdx.map fun (c, u) => (lfsrN off (genSeed seed (1344 + 256 * (k - 1) + u)), c)
    let zero := l.units.map fun _ => 0
    let (src, st, probe) := adaptiveRun l codes.isNone 64 off src (layerStart seed k off l) zero
    let hits := (probe.filter fun n => decide (24 ≤ n) && decide (n ≤ 40)).length
    let len := layerLength tmin tmax hits l.units.length
    let (_, _, ones) := adaptiveRun l codes.isNone (len - 64) (off + 64) src st probe
    match rest with
    | [] => min 0xFFFF (ones.headD 0 * 65536 / len)
    | _ => adaptiveLayers seed tmin tmax q x rest (k + 1) (off + len) (some (ones.map fun n => min 255 (n * 256 / len)))

/-- The raw score of a page by network j of a table (R406, R408 to R411). -/
def pageScore (b : List Byte) (j : Nat) (q x : List Byte) : BitVec 16 :=
  let seed := leAt b 20 4
  let net := netOf b j
  BitVec.ofNat 16 (if leAt b 6 1 == 0 then scoreFixed net seed (2 ^ leAt b 7 1) q x
    else adaptiveLayers seed (2 ^ leAt b 8 1) (2 ^ leAt b 9 1) q x net 0 0 none)

end Sys2Proof.Machine
end

