-- ==== Sys2Proof/Machine/Attention.lean ====
section
/-!
DEFINITION. ATTEND and ATTEND_SPARSE (08_near_store_attention.md, R636): parameters and length tables (R354 to R361), the
numerical contract (R363 to R368), allotments and modes (R369 to R374), exclusions and completion (R377 to R394), and the
selection of pages by raw scores (R384 to R387).
-/
namespace Sys2Proof.Machine
open Sys2Proof

/-! Length tables. -/

/-- Entry i of a length table (R357). -/
def lenHandle (b : List Byte) (i : Nat) : Nat := leAt b (16 * i) 4
def lenStart (b : List Byte) (i : Nat) : Nat := leAt b (16 * i + 8) 4
def lenCount (b : List Byte) (i : Nat) : Nat := leAt b (16 * i + 12) 4

/-- The model of the streams: the model of the first one that is open to the company (R355). -/
def streamsModel (t : Taken) (s : State) (b : List Byte) : Option Nat := (streamAt t s (lenHandle b 0)).map (·.model)

/-- The first offending byte of a length table of n entries (R355, R357, R551). -/
def lengthBad (t : Taken) (s : State) (b : List Byte) (n : Nat) : Option Nat :=
  let m := streamsModel t s b
  (upto n).findSome? fun i =>
    let v := streamAt t s (lenHandle b i)
    let excess := v.isSome && decide (16 * (chainAt t (lenHandle b i)).length < lenStart b i + lenCount b i)
    let hi := leAt b (16 * i + 4) 4
    (listBad [(v.isNone || v.map (·.model) != m, 0), (hi != 0, 4 + lowByte hi), (excess, 8)]).map (16 * i + ·)

def attRows (t : Taken) (s : State) (field n : Nat) (b : List Byte) : List AttRow :=
  (upto n).map fun i =>
    let h := lenHandle b i
    { handle := h, start := lenStart b i, count := lenCount b i, chain := chainAt t h, mode := translateMode s field h }

/-- Pages that a row's range touches (R382). -/
def rowPages (r : AttRow) : Nat := if r.count == 0 then 0 else (r.start + r.count - 1) / 16 - r.start / 16 + 1

/-- The number of the first page of row i (R382). -/
def pageBase (rows : List AttRow) (i : Nat) : Nat := ((rows.take i).map rowPages).sum
def pageCount (rows : List AttRow) : Nat := (rows.map rowPages).sum
def rowD (rows : List AttRow) (i : Nat) : AttRow :=
  rows.getD i { handle := 0, start := 0, count := 0, chain := [], mode := 1 }
/-- The scene of page j of a row. -/
def rowScene (r : AttRow) (j : Nat) : SceneId := r.chain.getD (r.start / 16 + j) 0
/-- Every scene that the ranges touch. -/
def rangeScenes (rows : List AttRow) : List SceneId := rows.flatMap fun r => (upto (rowPages r)).map (rowScene r)

/-- Unmasked positions of page j of a row (R358). -/
def unmasked (r : AttRow) (j : Nat) : List Nat :=
  (upto 16).filter fun p =>
    let x := 16 * (r.start / 16 + j) + p
    decide (r.start ≤ x) && decide (x < r.start + r.count)

/-! The numerical contract (R363 to R366). -/

def f32 : Fmt := Fmt.fp32
def f32add (a b : Nat) : Nat := (f32.add a b).1
def f32sub (a b : Nat) : Nat := (f32.sub a b).1
def f32mul (a b : Nat) : Nat := (f32.mul a b).1
def f32div (a b : Nat) : Nat := (f32.div a b).1
def f32max (a b : Nat) : Nat := (f32.max a b).1
def f32exp (a : Nat) : Nat := (f32.expOf a).1
def f32one : Nat := 0x3F800000
def f32zero (a : Nat) : Bool := a % 2 ^ 31 == 0
def negInf : Nat := 0xFF800000

/-- An FP16, BF16 or FP8 element as FP32. -/
def widen (f : Fmt) (b : Nat) : Nat := (f32.ofVal (f.value b)).1

/-- The device's path (Aria or fused) and mode (split-head or normal), on which the order of a sum may rest (R364, R365). -/
structure PathMode where
  aria  : Bool
  split : Bool

/-- The order in which n terms are added: the device's choice where that is an order of all the terms (R364;
notes/assumptions/6.md). -/
def termOrder (k : PathMode) (n : Nat) : List Nat :=
  let o := Config.sumOrder k.aria k.split n
  if o.length == n && (upto n).all o.contains then o else upto n

/-- A sum in FP32 in the device's order (R364). -/
def f32sum (k : PathMode) (l : List Nat) : Nat :=
  match (termOrder k l.length).map fun i => l.getD i 0 with
  | [] => 0
  | x :: r => r.foldl f32add x

/-- The elements of a vector of a page, as FP32 (R155, R159). -/
def vecElems (m : Model) (b : List Byte) : List Nat :=
  match m.kvType with
  | 0 => (upto m.dim).map fun d => widen .fp16 (leAt b (2 * d) 2)
  | 1 => (upto m.dim).map fun d => widen .bf16 (leAt b (2 * d) 2)
  | 2 => (upto m.dim).map fun d => widen .e4m3 (leAt b d 1)
  | 3 => (upto m.dim).map fun d => widen .e5m2 (leAt b d 1)
  | 4 => (upto m.dim).map fun d => (f32.ofVal (intVal (toSigned 8 (leAt b d 1)))).1
  | _ => (upto m.dim).map fun d => (f32.ofVal (intVal (toSigned 4 (leAt b (d / 2) 1 / 16 ^ (d % 2) % 16)))).1

/-- The scales of a vector, one for each of its blocks of equal size: one for the vector, or for INT4 one for every 16
elements; 1 where the type has none (R159, R160). -/
def vecScaling (m : Model) (page : List Byte) (h c p : Nat) : List Nat :=
  let rec_ := dataBytes m + 16 * h
  match m.kvType with
  | 0 | 1 => [f32one]
  | 2 | 3 => [leAt page (rec_ + 4 * c) 4]
  | 4 => [widen .fp16 (leAt page (rec_ + 2 * c) 2)]
  | _ => (upto (m.dim / 16)).map fun j => widen .fp16 (leAt (vecScalesOf m page false h c p) (2 * j) 2)

/-- A page of a row as the computation reads it: its bytes and its unmasked positions. -/
abbrev RowPage := List Byte × List Nat

/-- ks × dot, with INT4 block by block (R363). -/
def keyDot (k : PathMode) (m : Model) (page : List Byte) (h p : Nat) (q : List Nat) : Nat :=
  let e := vecElems m (vecOf m page false h 0 p)
  let prods := (q.zip e).map fun (a, b) => f32mul a b
  let sc := vecScaling m page h 0 p
  let width := m.dim / sc.length
  f32sum k (sc.zipIdx.map fun (x, b) => f32mul x (f32sum k ((prods.drop (b * width)).take width)))

/-- vs × v[p][d] for every d (R363). -/
def scaledValue (m : Model) (page : List Byte) (h p : Nat) : List Nat :=
  let e := vecElems m (vecOf m page false h 1 p)
  let sc := vecScaling m page h 1 p
  let width := m.dim / sc.length
  e.zipIdx.map fun (x, d) => f32mul (sc.getD (d / width) f32one) x

/-- m, l and acc of one row (R363). -/
structure RowSums where
  m   : Nat
  l   : Nat
  acc : List Nat

/-- One page of a row: a page whose positions are all masked changes nothing (R363). -/
def addPage (k : PathMode) (md : Model) (h sq : Nat) (q : List Nat) (x : RowSums) (pg : RowPage) : RowSums :=
  if pg.2.isEmpty then x else
  let logits := pg.2.map fun p => f32mul sq (keyDot k md pg.1 h p q)
  let m2 := f32max x.m (logits.tail.foldl f32max (logits.headD negInf))
  let a := if x.m == negInf then 0 else f32exp (f32sub x.m m2)
  let es := logits.map fun v => f32exp (f32sub v m2)
  let vs := pg.2.map fun p => scaledValue md pg.1 h p
  { m := m2
    l := f32add (f32mul a x.l) (f32sum k es)
    acc := x.acc.zipIdx.map fun (c, d) =>
      f32add (f32mul a c) (f32sum k ((es.zip vs).map fun (e, v) => f32mul e (v.getD d 0))) }

def noRow (md : Model) : RowSums := { m := negInf, l := 0, acc := List.replicate md.dim 0 }

def rowSums (k : PathMode) (md : Model) (h sq : Nat) (q : List Nat) (pages : List RowPage) : RowSums :=
  pages.foldl (addPage k md h sq q) (noRow md)

/-- o = acc / l in FP32, or 0 (R363, R367). -/
def rowOut (x : RowSums) : List Nat := x.acc.map fun a => if f32zero x.l then 0 else f32div a x.l

/-- The pairwise merge of R368, in FP32 (R373). -/
def mergeRows (a b : RowSums) : Nat × Nat × List Nat :=
  let m := f32max a.m b.m
  let wt := fun (x : RowSums) => if f32zero x.l then 0 else f32mul x.l (f32exp (f32sub x.m m))
  let l := f32add (wt a) (wt b)
  (m, l, ((rowOut a).zip (rowOut b)).map fun (x, y) =>
    if f32zero l then 0 else f32div (f32add (f32mul (wt a) x) (f32mul (wt b) y)) l)

/-! Commands in flight. -/

def attOf (s : State) (seq : Nat) : Option AttOp := s.work.atts.find? (·.seq == seq)
def modAtt (seq : Nat) (f : AttOp → AttOp) (s : State) : State :=
  modWork (fun w => { w with atts := w.atts.map fun o => if o.seq == seq then f o else o }) s

/-- Head blocks of a stream (R369). -/
def headBlock (op : AttOp) : Nat := max 1 op.hpa
def blocksOf (md : Model) (op : AttOp) : Nat := (md.heads + headBlock op - 1) / headBlock op

/-- The pages that row i keeps, by place in its range (R385). -/
def keptPages (op : AttOp) (i : Nat) : List Nat :=
  let b := pageBase op.rows i
  (upto (rowPages (rowD op.rows i))).filter fun j => !op.dropped.contains (b + j)

/-- Every page of row i has been scored, or needs no score (R422). -/
def rowScored (op : AttOp) (i : Nat) : Bool := !op.sparse || decide (pageBase op.rows (i + 1) ≤ op.scores.length)

/-- An allotment of row i has been computed. -/
def rowBegun (md : Model) (op : AttOp) (i : Nat) : Bool :=
  (upto (blocksOf md op)).any fun b =>
    let a := i * blocksOf md op + b
    !op.todo.contains a && !op.active.any fun x => x.2 == a

def rowDone (md : Model) (op : AttOp) (i : Nat) : Bool :=
  (upto (blocksOf md op)).all fun b =>
    let a := i * blocksOf md op + b
    !op.todo.contains a && !op.active.any fun x => x.2 == a

/-- Every page of the row that counts is at hand (R378, R380). -/
def rowResolved (s : State) (c : Nat) (op : AttOp) (i : Nat) : Bool :=
  let r := rowD op.rows i
  op.cutDone || (keptPages op i).all fun j =>
    op.excluded.contains (pageBase op.rows i + j) || pageReady s c (.scene (rowScene r j) op.layer)

/-- The row's pages that its allotments compute over, with their places among the kept pages. -/
def rowData (s : State) (c : Nat) (op : AttOp) (i : Nat) : List (Nat × RowPage) :=
  let r := rowD op.rows i
  ((keptPages op i).zipIdx.filter fun p => !op.excluded.contains (pageBase op.rows i + p.1)).map fun (j, k) =>
    (k, (pageBytes s c (rowScene r j) op.layer, unmasked r j))

/-- Row number R(i, j, ρ) (R360). -/
def rowNumber (op : AttOp) (hq i j k : Nat) : Nat :=
  if op.layout then (i * op.r + k) * hq + j else (i * hq + j) * op.r + k

def qBytes (op : AttOp) : Nat := if op.qType == 2 then 1 else 2
def qFmt (op : AttOp) : Fmt := if op.qType == 0 then .fp16 else if op.qType == 1 then .bf16 else .e4m3

/-- Row R's query as FP32, and its scale (R360, R363). -/
def rowQuery (md : Model) (op : AttOp) (row : Nat) : List Nat × Nat :=
  let e := qBytes op
  let q := (upto md.dim).map fun d => widen (qFmt op) (leAt op.queries ((row * md.dim + d) * e) e)
  let total := op.rows.length * md.heads * op.g * op.r
  (q, if op.qType == 2 then leAt op.queries (total * md.dim + 4 * row) 4 else f32one)

/-- The logit scale: +0 acts as 1 / √D (R354). -/
def logitScale (md : Model) (op : AttOp) : Nat :=
  if op.scale == 0 then (f32.finish (rsqrtVal (.fin false md.dim 0))).1 else op.scale.toNat

/-- m, l and o of one row; in split-head mode with q = 1, member 0 merges the odd pages' part (R373). -/
def attRow (k : PathMode) (md : Model) (op : AttOp) (pages : List (Nat × RowPage)) (h row : Nat) : Nat × Nat × List Nat :=
  let (q, qs) := rowQuery md op row
  let sq := f32mul (logitScale md op) qs
  if op.split && op.g * op.r == 1 then
    let part := fun n => rowSums k md h sq q ((pages.filter fun p => p.1 % 2 == n).map (·.2))
    mergeRows (part 0) (part 1)
  else
    let x := rowSums k md h sq q (pages.map (·.2))
    (x.m, x.l, rowOut x)

/-- An element of o in its type, least significant byte first (R360, R366). -/
def outBytes (op : AttOp) (v : Nat) : List Byte :=
  if op.outBf16 then leBytes 2 (Fmt.bf16.ofVal (f32.value v)).1 else leBytes 4 v

/-- Write one row's outputs and statistics. -/
def writeRow (t : Taken) (md : Model) (op : AttOp) (row : Nat) (x : Nat × Nat × List Nat) (s : State) : State :=
  let oe := if op.outBf16 then 2 else 4
  let s := toHost t (op.outputs + row * md.dim * oe) (x.2.2.flatMap (outBytes op)) s
  toHost t (op.stats + 8 * row) (leBytes 4 x.1 ++ leBytes 4 x.2.1) s

/-- Compute allotment a: every row of its heads over every page of its stream (R356, R369). -/
def computeAllot (t : Taken) (a : Nat) (op : AttOp) (s : State) : State :=
  let md := modelD s op.model
  let nb := blocksOf md op
  let i := a / nb
  let h0 := a % nb * headBlock op
  let pages := rowData s t.company op i
  let k : PathMode := { aria := hasAria s, split := op.split }
  let hs := (upto (min (headBlock op) (md.heads - h0))).map (h0 + ·)
  hs.foldl (fun s h => (upto op.g).foldl (fun s j => (upto op.r).foldl (fun s k' =>
    let row := rowNumber op (md.heads * op.g) i (h * op.g + j) k'
    writeRow t md op row (attRow k md op pages h row) s) s) s) s

/-! Completion. -/

def keptCount (op : AttOp) : Nat := pageCount op.rows - op.dropped.length

/-- The command's completion, with its bitmaps (R374, R378, R382, R383, R387, R636). -/
def endAtt (t : Taken) (op : AttOp) (s : State) : State :=
  let s := dropAtt op s
  let n := pageCount op.rows
  let ex := (upto n).filter fun k => op.excluded.contains k && !op.dropped.contains k
  let s := modPerf2 (fun p => { p with attExcluded := satAdd p.attExcluded ex.length }) s
  let s := if op.sparse && op.selection != 0 then
      toHost t op.selection (bitmapBytes n ((upto n).filter fun k => !op.dropped.contains k)) s else s
  let r2 := w64 (if op.sparse then keptCount op else 0)
  let sp := b2n op.split * 256
  let late := match op.deadline with
    | some d => if op.deadlineMode then 0 else now s - d
    | none => 0
  if late != 0 then finish t { status 0x401 with r0 := w64 sp, r1 := w64 late, r2 := r2 } s
  else if !ex.isEmpty || op.split then
    finish t { status 1 with r0 := w64 (sp + ex.length * 2 ^ 32), r1 := w64 (ex.headD 0), r2 := r2 }
      (writeBitmap t op.bitmap n ex s)
  else finish t { okay with r0 := w64 sp, r2 := r2 } s

/-- A STALL command ends with the first failed page or retired scene it meets (R379). -/
def failAtt (t : Taken) (op : AttOp) (st i : Nat) (id : SceneId) (s : State) : State :=
  let c : Completion := {
    status st with r0 := w64 (b2n op.split * 256 + i * 2 ^ 32), r1 := id.truncate 64, r2 := (id >>> 64).truncate 64 }
  finish t c (dropAtt op s)

/-- Compute the allotments that clusters hold and whose pages are at hand; end the command after the last one. -/
def progressAtt (seq : Nat) (s : State) : State :=
  match attOf s seq, s.taken.find? (·.seq == seq) with
  | some op, some t =>
    let md := modelD s op.model
    let nb := blocksOf md op
    let ready := (op.active.map (·.2)).eraseDups.filter fun a => rowResolved s t.company op (a / nb)
    let s := ready.foldl (fun s a =>
      let s := computeAllot t a op s
      releaseAllots ((op.active.filter fun x => x.2 == a).map (·.1))
        (modAtt seq (fun o => { o with active := o.active.filter fun x => x.2 != a }) s)) s
    match attOf s seq with
    | some o => if o.todo.isEmpty && o.active.isEmpty then endAtt t o s else s
    | none => s
  | _, _ => s

def progressAtts (s : State) : State := (s.work.atts.map (·.seq)).foldl (fun s q => progressAtt q s) s

/-- Exclude pages of rows of which no allotment has been computed (R380, R381). -/
def excludePages (op : AttOp) (p : Nat → Nat → Bool) (s : State) : State :=
  let md := modelD s op.model
  let pages := (upto op.rows.length).flatMap fun i =>
    if rowBegun md op i then [] else
    ((upto (rowPages (rowD op.rows i))).filter fun j => p i j).map fun j => pageBase op.rows i + j
  modAtt op.seq (fun o => { o with excluded := o.excluded ++ pages.filter fun k => !o.excluded.contains k }) s

/-- The command meets the kept pages of row i: those of a retired scene fail it or are excluded, and those without a copy
above the Loft are asked for (R244, R286, R379, R380). -/
def meetRow (t : Taken) (seq i : Nat) (s : State) : State :=
  match attOf s seq with
  | none => s
  | some op =>
    let r := rowD op.rows i
    let dead := (keptPages op i).filter fun j => isRetired s t.company (rowScene r j)
    match dead with
    | j :: _ =>
      if !op.deadlineMode then failAtt t op 0x502 i (rowScene r j) s
      else
        let s := excludePages op (fun k j => k == i && dead.contains j) s
        if op.cutDone then s else
        ((keptPages op i).filter fun j => !dead.contains j).foldl (fun s j =>
          wantPage seq t.company (.scene (rowScene r j) op.layer) s) s
    | [] =>
      if op.cutDone then s
      else (keptPages op i).foldl (fun s j => wantPage seq t.company (.scene (rowScene r j) op.layer) s) s

/-- A scene of a company has become retired; `page` is the page whose read failed (R244, R286, R379, R380). -/
def attsLose (c : Nat) (id : SceneId) (page : Option Nat) (s : State) : State :=
  s.work.atts.foldl (fun s op =>
    match s.taken.find? (·.seq == op.seq) with
    | none => s
    | some t =>
      let md := modelD s op.model
      let hit := fun i j => rowScene (rowD op.rows i) j == id && (keptPages op i).contains j
      let rows := (upto op.rows.length).filter fun i =>
        rowScored op i && !rowDone md op i && (upto (rowPages (rowD op.rows i))).any (hit i)
      if t.company != c then s else
      match rows with
      | [] => s
      | i :: _ =>
        if op.deadlineMode then progressAtt op.seq (excludePages op (fun i j => rows.contains i && hit i j) s)
        else failAtt t op (if page == some op.layer then 0x501 else 0x502) i id s) s

/-! Intake. -/

/-- Packet fields of ATTEND and ATTEND_SPARSE (R354, R377, R384, R636). -/
def attFields (sparse : Bool) (t : Taken) (s : State) : List Bad :=
  let w1 := word t 1
  let w2 := word t 2
  let md := (streamsModel t s (hostArray t 0)).map (modelD s)
  let sc := fld w1 63 32
  let g := fld w2 4 0
  let r := fld w2 11 8
  let dl := houseTime t (word t 3) (bit w2 21)
  let none_ := word t 3 == 0
  let al := fun (k n : Nat) => (word t k).toNat % n != 0
  let bm := word t 8
  let tb := t.table
  let fpOff := (tb.bind fun x => md.map fun m => leAt x.bytes 24 8 != m.fingerprint.toNat).getD false
  let x := fun n => if sparse then n else 0
  reservedBad t [0, bits 63 0, bits 63 32 + bits 23 16 + bits 11 8 + bits 4 0, bits 63 0, bits 63 0, bits 63 0, bits 63 0,
    bits 63 0, bits 63 0, x (bits 47 32 + bits 29 16 + bits 3 0), x (bits 63 0), x (bits 63 0)] ++
  bads [((md.map fun m => decide (m.heads < fld w1 7 0)).getD false, 64, 0),
    ((md.map fun m => decide (m.layers ≤ fld w1 15 8)).getD false, 72, 0), (fld w1 31 16 == 0, 80, 0),
    (0x7F800000 ≤ sc, 96, 0), (g == 0 || 16 < g, 128, 0), (r == 0 || 8 < r || (g ≤ 16 && 64 < g * r), 136, 0),
    (fld w2 17 16 == 3, 144, 0), (fld w2 23 22 == 3, 150, 0), (maxGuard < fld w2 63 32, 160, 0),
    ((none_ && bit w2 20) || (!none_ && farthest t < dl), 192, 0), (al 4 64, 256, 0), (al 5 64, 320, 0), (al 6 64, 384, 0),
    (al 7 64, 448, 0), (al 8 8 || (bm == 0 && bit w2 20), 512, 0),
    (sparse && (tb.isNone || fpOff), 576, 0),
    (sparse && (fld (word t 9) 29 16 == 0 || 8192 < fld (word t 9) 29 16), 592, 0), (sparse && al 10 64, 640, 0),
    (sparse && al 11 8, 704, 0)]

/-- The regions of R360, R361 and R636 after the length table, in field order. -/
def attRegions (sparse : Bool) (t : Taken) (md : Model) (pages : Nat) (s : State) : List Region :=
  let n := fld (word t 1) 31 16
  let w2 := word t 2
  let rows := n * md.heads * fld w2 4 0 * fld w2 11 8
  let oe := if bit w2 18 then 2 else 4
  let bm := (pages + 63) / 64 * 8
  let a := fun k => (word t k).toNat
  [hostRegion t s 1 (a 5) (queryBytes md n (fld w2 4 0) (fld w2 11 8) (fld w2 17 16)) 320,
   hostRegion t s 2 (a 6) (rows * md.dim * oe) 384, hostRegion t s 2 (a 7) (rows * 8) 448]
  ++ (if a 8 == 0 then [] else [hostRegion t s 2 (a 8) bm 512])
  ++ (if sparse then [hostRegion t s 1 (a 10) (32 * n) 640] else [])
  ++ (if sparse && a 11 != 0 then [hostRegion t s 2 (a 11) bm 704] else [])

/-- A region that would pass the top of the address space makes its field bad (R771). -/
def regionsWrap (l : List Region) : Chk :=
  (l.find? fun g => wraps g.addr g.len).map fun g => badAt (g.loc % 2 ^ 32) 0

/-- The checks of runAttend, in their order (R583). -/
def runAttendChecks (sparse : Bool) (t : Taken) (s : State) : List Chk :=
  let w1 := word t 1
  let w2 := word t 2
  let n := fld w1 31 16
  let b := hostArray t 0
  let mdl := streamsModel t s b
  let md := modelD s (mdl.getD 64)
  let rows := attRows t s (fld w2 23 22) n b
  let pages := pageCount rows
  let lens := hostRegion t s 1 (word t 4).toNat (16 * n) 256
  let regs := attRegions sparse t md pages s
  [
    (if sparse then unitFailed s true else none),
    generalCheck t s,
    ptmCheck t (!bit w2 21),
    badFields (attFields sparse t s), regionsWrap [lens], opcodeCheck t s, checkRegions t s [lens],
    (lengthBad t s b n).map (fun o => badIn o 0 256), regionsWrap regs, checkRegions t s regs,
    (if 4096 < n then some (statusWith 0x105 1) else none)]

/-- The bytes of Stage that an allotment of the command needs (R371, R372). -/
def attendNeed (t : Taken) (s : State) : Nat :=
  let w2 := word t 2
  allotNeed (modelD s ((streamsModel t s (hostArray t 0)).getD 64)) (max 1 (fld (word t 1) 7 0))
    (fld w2 4 0 * fld w2 11 8) (if fld w2 17 16 == 2 then 1 else 2)

/-- The command as its packet and host arrays give it (R357, R373, R384, R636). -/
def attendOp (sparse : Bool) (t : Taken) (s : State) : AttOp :=
  let w1 := word t 1
  let w2 := word t 2
  let n := fld w1 31 16
  let b := hostArray t 0
  let mdl := streamsModel t s b
  let hpe := max 1 (fld w1 7 0)
  let tn := fld (word t 9) 3 0
  { seq := t.seq, model := mdl.getD 64, layer := fld w1 15 8, g := fld w2 4 0, r := fld w2 11 8, hpa := fld w1 7 0
    qType := fld w2 17 16
    outBf16 := bit w2 18, layout := bit w2 19, scale := BitVec.ofNat 32 (fld w1 63 32), deadlineMode := bit w2 20
    deadline := if bit w2 20 || word t 3 != 0 then some (houseTime t (word t 3) (bit w2 21)) else none
    guard := fld w2 63 32, rows := attRows t s (fld w2 23 22) n b, queries := hostArray t 1
    outputs := (word t 6).toNat, stats := (word t 7).toNat, bitmap := (word t 8).toNat
    split := decide (t.budget < attendNeed t s)
    todo := upto (n * (((modelD s (mdl.getD 64)).heads + hpe - 1) / hpe)), active := [], excluded := [], dropped := []
    cutDone := false, sparse := sparse, table := tn
    tbl := t.table.getD { company := 0, bytes := [], order := 0 }
    sketchQ := hostArray t 2
    keep := (fld (word t 9) 29 16, fld (word t 9) 39 32, fld (word t 9) 47 40)
    selection := (word t 11).toNat, scores := [] }

/-- The command is under way; one whose cutoff has passed excludes the pages that are not ready (R380). -/
def beginAttend (t : Taken) (op : AttOp) (s : State) : State :=
  let s := if op.split then modPerf2 (fun p => { p with attSplit := satInc p.attSplit }) s else s
  let s := setRunning t.seq s
  let s := modWork (fun w => { w with atts := w.atts ++ [op] }) s
  if op.deadlineMode && decide (op.deadline.getD 0 - op.guard ≤ now s) then
    modAtt t.seq (fun o => { o with cutDone := true })
      (excludePages op (fun i j => !pageReady s t.company (.scene (rowScene (rowD op.rows i) j) op.layer)) s)
  else s

/-- ATTEND and ATTEND_SPARSE (R354 to R361, R370 to R372, R377, R384, R389, R392, R393, R636). -/
def runAttend (sparse : Bool) (opc : Nat) (r : CmdRef) (s : State) : Res :=
  runRow opc r s fun t s =>
    checked t (runAttendChecks sparse t s) s fun s =>
      let need := attendNeed t s
      let budget := t.budget
      if 5 * budget < 4 * need then
        finish t { statusWith 0x105 2 with r1 := w64 (need + budget * 2 ^ 32) }
          (modPerf2 (fun p => { p with attTooLarge := satInc p.attTooLarge }) s)
      else
        let s := beginAttend t (attendOp sparse t s) s
        if sparse then s else (upto (fld (word t 1) 31 16)).foldl (fun s i => meetRow t t.seq i s) s

/-- ATTEND (R636). -/
def execAttend (r : CmdRef) (s : State) : Res := runAttend false 0x40 r s
/-- ATTEND_SPARSE (R384, R636). -/
def execAttendSparse (r : CmdRef) (s : State) : Res := runAttend true 0x41 r s

/-! Dispatch and cutoff. -/

/-- A logical cluster that an allotment of the company may take: idle, held for no waiting run, and clean (R462, R471). -/
def allotFree (s : State) (c company : Nat) : Bool :=
  clusterFree s c && cleanFor s c company && !s.work.runs.any fun r => r.started.isNone && inRun r c

/-- The command whose allotment goes next: the first taken in that has one whose stream is scored (R369, R422). -/
def nextAllot (s : State) : Option (AttOp × Nat) :=
  let ready := s.work.atts.filterMap fun o =>
    match o.todo with
    | [] => none
    | a :: _ => if rowScored o (a / blocksOf (modelD s o.model) o) then some (o, a) else none
  ready.foldl (fun m x => match m with
    | none => some x
    | some y => if x.1.seq < y.1.seq then some x else some y) none

/-- A cluster takes an allotment (CLUS_STATE 1), with its stream's translations by its row's unit (R31, R337). -/
def holdAllot (c company : Nat) (s : State) : State :=
  match physOf s c with
  | none => s
  | some p => trimWorking (modCluster p (fun x => { x with st := 1, company := company, dirty := true }) s)

/-- The other clusters that an allotment of the company may take; in split-head mode the device takes one of them as partner,
which no rule chooses: the place of it is a free value (R373; notes/assumptions/43.md). -/
def partners (s : State) (c company : Nat) : List Nat := (upto 160).filter fun d => d != c && allotFree s d company

/-- ALLOTMENT_DISPATCH: cluster c, idle, takes the next allotment, in split-head mode with a partner (R369, R373, R462). -/
def execAllotmentDispatch (c : Nat) (s : State) : Res :=
  if 160 ≤ c then .fault .noSuchThing else
  match nextAllot s with
  | none => .next s
  | some (op, a) =>
    match s.taken.find? (·.seq == op.seq) with
    | none => .next s
    | some t =>
      if !allotFree s c t.company then .next s else
      let others := partners s c t.company
      if op.split && others.isEmpty then .next s else
      let (f, s) := if op.split then takeFree s else (0, s)
      let members := if op.split then [c, others.getD (f.toNat % others.length) 0] else [c]
      let i := a / blocksOf (modelD s op.model) op
      let r := rowD op.rows i
      let s := members.foldl (fun s d => holdAllot d t.company s) s
      let s := translate r.mode (c / 10) t.company ((keptPages op i).map (rowScene r)) s
      .next (progressAtt op.seq (modAtt op.seq (fun o => { o with
        todo := o.todo.tail, active := o.active ++ members.map fun d => (d, a) }) s))

/-- A running ATTEND or ATTEND_SPARSE. -/
def attRunning (r : CmdRef) (s : State) : Option Taken :=
  match findRunning 0x40 r s with
  | some t => some t
  | none => findRunning 0x41 r s

/-- ATTEND_CUTOFF: at deadline − guard, pages with no copy in Stage or Wings are excluded (R311, R380 to R382). -/
def execAttendCutoff (r : CmdRef) (s : State) : Res :=
  match attRunning r s with
  | none => .next s
  | some t =>
    match attOf s t.seq with
    | none => .next s
    | some op =>
      if !op.deadlineMode || op.cutDone || now s < op.deadline.getD 0 - op.guard then .next s
      else .next (progressAtt op.seq (modAtt op.seq (fun o => { o with cutDone := true })
        (excludePages op (fun i j => !pageReady s t.company (.scene (rowScene (rowD op.rows i) j) op.layer)) s)))

/-! Selection. -/

/-- The place of a page by score: higher first, then the lower position (R385). -/
def scoreBefore (sc : List (BitVec 16)) (a b : Nat) : Bool :=
  let x := (sc.getD a 0).toNat
  let y := (sc.getD b 0).toNat
  decide (y < x) || (x == y && decide (a < b))

def insertBy (lt : Nat → Nat → Bool) (x : Nat) : List Nat → List Nat
  | [] => [x]
  | y :: r => if lt x y then x :: y :: r else y :: insertBy lt x r

/-- The n pages of a list that come first by score. -/
def topPages (sc : List (BitVec 16)) (n : Nat) (pages : List Nat) : List Nat :=
  (pages.foldr (insertBy (scoreBefore sc)) []).take n

/-- The pages of a stream that are not kept, for its scores and its keep counts (R385). -/
def notKept (sc : List (BitVec 16)) (keep : Nat × Nat × Nat) : List Nat :=
  let n := sc.length
  let (kn, kf, kl) := keep
  let rest := (upto n).filter fun j => decide (kf ≤ j) && decide (j + kl < n)
  let best := topPages sc kn rest
  rest.filter fun j => !best.contains j

/-- Row i is scored: its pages are selected, and the command meets those it keeps (R385, R386, R422). -/
def selectRow (t : Taken) (seq i : Nat) (s : State) : State :=
  match attOf s seq with
  | none => s
  | some op =>
    let b := pageBase op.rows i
    let sc := (op.scores.drop b).take (rowPages (rowD op.rows i))
    meetRow t seq i (modAtt seq (fun o => { o with dropped := o.dropped ++ (notKept sc op.keep).map (b + ·) }) s)

end Sys2Proof.Machine
end

