-- ==== Sys2Proof/Machine/Prompter.lean ====
section
/-!
DEFINITION. SKETCH_QUERY (R420, R421, R427, R637), the Prompter's batches (R401, R418, R419, R422, R423) and pre-staging
(R340 to R343).
-/
namespace Sys2Proof.Machine
open Sys2Proof

/-- Packet fields of SKETCH_QUERY (R416, R637). -/
def sketchFields (t : Taken) (s : State) : List Bad :=
  let w1 := word t 1
  let md := (streamsModel t s (hostArray t 0)).map (modelD s)
  let tb := t.table
  let fpOff := (tb.bind fun x => md.map fun m => leAt x.bytes 24 8 != m.fingerprint.toNat).getD false
  let al := fun (k : Nat) => (word t k).toNat % 64 != 0
  reservedBad t [0, bits 47 32 + bits 15 8 + bits 3 0, bits 63 0, bits 63 0, bits 63 0] ++
  bads [(tb.isNone || fpOff, 64, 0), ((md.map fun m => decide (m.layers ≤ fld w1 15 8)).getD false, 72, 0),
    (fld w1 47 32 == 0, 96, 0), (al 2, 128, 0), (al 3, 192, 0), (al 4, 256, 0)]

/-- The checks of SketchQuery, in their order (R583). A Prompter that has failed answers INTERNAL whether or not PD6 is gated: no rule orders the
two (R88, R824; DESIGN CHOICE, notes/assumptions/85.md). -/
def sketchQueryChecks (t : Taken) (s : State) : List Chk :=
  let w1 := word t 1
  let n := fld w1 47 32
  let b := hostArray t 0
  let rows := attRows t s 0 n b
  let pages := pageCount rows
  let lens := hostRegion t s 1 (word t 2).toNat (16 * n) 128
  let regs := [hostRegion t s 1 (word t 3).toNat (32 * n) 192, hostRegion t s 2 (word t 4).toNat (2 * pages) 256]
  [unitFailed s true, generalCheck t s,
    badFields (sketchFields t s), regionsWrap [lens], opcodeCheck t s, checkRegions t s [lens],
    (lengthBad t s b n).map (fun o => badIn o 0 128), regionsWrap regs, checkRegions t s regs,
    (if 4096 < n then some (status 0x105) else none)]

/-- The command as its packet and host arrays give it (R420). -/
def sketchOpOf (t : Taken) (s : State) : SketchOp :=
  let w1 := word t 1
  let b := hostArray t 0
  let tn := fld w1 3 0
  { seq := t.seq, table := tn, tbl := t.table.getD { company := 0, bytes := [], order := 0 }
    model := (streamsModel t s b).getD 64, layer := fld w1 15 8, rows := attRows t s 0 (fld w1 47 32) b
    sketchQ := hostArray t 1, scores := [], addr := (word t 4).toNat }

/-- SKETCH_QUERY (R420, R421, R427, R637). -/
def execSketchQuery (r : CmdRef) (s : State) : Res :=
  runRow 0x42 r s fun t s =>
    checked t (sketchQueryChecks t s) s fun s =>
      let op := sketchOpOf t s
      if pageCount op.rows == 0 then finish t okay s else
      modWork (fun w => { w with sketches := w.sketches ++ [op] })
        (setRunning t.seq s)

/-! Batches. -/

/-- What a command's scoring needs. -/
structure Scorer where
  table   : Nat
  tbl     : Table
  layer   : Nat
  rows    : List AttRow
  sketchQ : List Byte
  scores  : List (BitVec 16)

def attScorer (o : AttOp) : Scorer :=
  { table := o.table, tbl := o.tbl, layer := o.layer, rows := o.rows, sketchQ := o.sketchQ, scores := o.scores }
def sketchScorer (o : SketchOp) : Scorer :=
  { table := o.table, tbl := o.tbl, layer := o.layer, rows := o.rows, sketchQ := o.sketchQ, scores := o.scores }

/-- The network of a model layer (R412). -/
def netIndex (x : Scorer) : Nat := if tblNets x.tbl.bytes == 1 then 0 else x.layer

/-- Row and place of a page number (R382). -/
def pagePlace (rows : List AttRow) (k : Nat) : Nat × Nat :=
  let i := ((upto rows.length).find? fun i => decide (k < pageBase rows (i + 1))).getD 0
  (i, k - pageBase rows i)

/-- The next batch: up to 64 pages not yet scored, in page order (R422, R423). -/
def nextBatch (x : Scorer) : List Nat :=
  (upto (min 64 (pageCount x.rows - x.scores.length))).map (x.scores.length + ·)

/-- No page of the scene has a copy above the Loft and its record is not among those held, so scoring reads it from the Loft (R400,
R401). -/
def recordInLoft (s : State) (c : Nat) (id : SceneId) : Bool :=
  ((findScene s c id).map fun y => !(y.stage.contains true || y.wings.contains true || s.work.records.contains (c, id))).getD false

/-- Bytes of a scene's sketch record (R400). -/
def recordBytes (s : State) (p : Nat × SceneId) : Nat :=
  ((findScene s p.1 p.2).map fun x => 32 * (modelD s x.model).layers).getD 0

/-- The first records of a list that together have at most n bytes. -/
def recordsWithin (s : State) : Nat → List (Nat × SceneId) → List (Nat × SceneId)
  | _, [] => []
  | n, p :: r => if recordBytes s p ≤ n then p :: recordsWithin s (n - recordBytes s p) r else []

/-- Records read from the Loft are held, up to 1 GiB of the latest (R400). -/
def holdRecords (l : List (Nat × SceneId)) (s : State) : State :=
  modWork (fun w => { w with records := recordsWithin s (2 ^ 30) (l.reverse ++ w.records) }) s

/-- The raw score of a page of a batch, and whether its record failed (R401, R406). -/
def scoreOne (s : State) (c : Nat) (x : Scorer) (unread : List Nat) (k : Nat) : BitVec 16 × Bool :=
  let (i, j) := pagePlace x.rows k
  let id := rowScene (rowD x.rows i) j
  if unread.contains k && recordInLoft s c id then (0, true) else
  let sk := ((findScene s c id).map fun y => y.sketches.getD x.layer []).getD []
  (pageScore x.tbl.bytes (netIndex x) (slice x.sketchQ (32 * i) 32) sk, false)

/-- A batch whose network is spilled and not in the fetch buffer waits for its fetch (R419). -/
def fetchNet (x : Scorer) (s : State) : State :=
  let j := netIndex x
  if !netSpilled s x.tbl j || s.store.fetchBuf == some (x.tbl.order, j) then s else
  modPerf2 (fun p => { p with spillFetches := satInc p.spillFetches })
    (modStore (fun st => { st with fetchBuf := some (x.tbl.order, j) }) s)

/-! Pre-staging. -/

/-- After a stream is scored, its n_pages best pages that lie only in the Loft are copied to Wings by background reads, and with to_stage
on to Stage working area as they land (R341, R342). -/
def prestageRow (c layer : Nat) (r : AttRow) (sc : List (BitVec 16)) (s : State) : State :=
  let v := ((companyOf s c).map (·.prestage)).getD 0
  if !bit v 0 || pd6Gated s then s else
  (topPages sc (fld v 31 16) (upto sc.length)).foldl (fun s j =>
    let id := rowScene r j
    let p : PageRef := .scene id layer
    if pageAbove s c p || pageRetired s c p || !pageInLoft s c p then s else askPage none c p false true (bit v 1) false s) s

/-- Scores of row i. -/
def rowScores (x : Scorer) (i : Nat) : List (BitVec 16) :=
  (x.scores.drop (pageBase x.rows i)).take (rowPages (rowD x.rows i))

/-- Rows whose last page lies in the pages from `before` on that are now scored. -/
def rowsFinished (x : Scorer) (before : Nat) : List Nat :=
  (upto x.rows.length).filter fun i =>
    let e := pageBase x.rows (i + 1)
    decide (before < e) && decide (e ≤ x.scores.length) && rowPages (rowD x.rows i) != 0

/-- Scenes of a batch whose records it read from the Loft (R401). -/
def recordsRead (s : State) (c : Nat) (x : Scorer) (unread : List Nat) : List (Nat × SceneId) :=
  ((nextBatch x).filterMap fun k =>
    let (i, j) := pagePlace x.rows k
    let id := rowScene (rowD x.rows i) j
    if recordInLoft s c id && !unread.contains k then some (c, id) else none).eraseDups

/-- What a finished batch leaves: counts, the new scores, the records it read, and pre-staging of the streams it finished (R341, R400, R401,
R423). -/
def runBatch (t : Taken) (x : Scorer) (unread : List Nat) (s : State) : Scorer × State :=
  let s := fetchNet x s
  let got := recordsRead s t.company x unread
  let r := (nextBatch x).map (scoreOne s t.company x unread)
  let y := { x with scores := x.scores ++ r.map (·.1) }
  let s := modPerf2 (fun p => { p with pagesScored := satAdd p.pagesScored r.length,
                                       sketchFails := satAdd p.sketchFails (r.filter (·.2)).length })
    (if got.isEmpty then s else holdRecords got s)
  (y, (rowsFinished y x.scores.length).foldl (fun s i =>
    prestageRow t.company y.layer (rowD y.rows i) (rowScores y i) s) s)

/-- SCORING_BATCH_COMPLETE (R401, R419 to R423). After the cutoff no record is read from the Loft: every page whose record is only there
scores 0x0000 (R422). -/
def execScoringBatchComplete (r : CmdRef) (unread : List Nat) (s : State) : Res :=
  if pd6Off s then .next s else
  match (findRunning 0x42 r s).bind fun t => (s.work.sketches.find? (·.seq == t.seq)).map fun o => (t, o) with
  | some (t, o) =>
    let (y, s) := runBatch t (sketchScorer o) unread s
    if y.scores.length < pageCount y.rows then
      .next (modWork (fun w => { w with sketches := w.sketches.map fun z =>
        if z.seq == o.seq then { z with scores := y.scores } else z }) s)
    else
      let s := modWork (fun w => { w with sketches := w.sketches.filter (·.seq != o.seq) }) s
      .next (finish t (okWith (w64 y.scores.length) 0 0)
        (toHost t o.addr (y.scores.flatMap fun v => leBytes 2 v.toNat) s))
  | none =>
    match (findRunning 0x41 r s).bind fun t => (attOf s t.seq).map fun o => (t, o) with
    | none => .next s
    | some (t, o) =>
      if pageCount o.rows ≤ o.scores.length then .next s else
      let x := attScorer o
      let (y, s) := runBatch t x (if o.cutDone then nextBatch x else unread) s
      let s := modAtt o.seq (fun z => { z with scores := y.scores }) s
      .next (progressAtt o.seq ((rowsFinished y o.scores.length).foldl (fun s i => selectRow t o.seq i s) s))

end Sys2Proof.Machine
end

