-- ==== Sys2Proof/Machine/LoftMedium.lean ====
section
/-!
DEFINITION. The Loft medium at work (06_the_loft_medium.md): write-back and programs (R221, R260 to R262, R277 to R284), the
journal's programs and checkpoints (R188 to R190), reads and the copies they make (R234, R243 to R245, R265, R270 to R274,
R320), lost data (R285 to R289), bad blocks and failed dies (R279, R291 to R295, R300), and background work (R266, R267, R297 to
R299).
-/
namespace Sys2Proof.Machine
open Sys2Proof

/-! Write-back. -/

/-- The parent's creation record is complete (R189). -/
def parentRecorded (s : State) (x : Scene) : Bool :=
  x.parent == 0 || ((findScene s x.company x.parent).map (·.recorded)).getD true

/-- The encrypted footprints of a scene. -/
def sceneFeet (s : State) (x : Scene) : List (LoftObj × Nat × List Byte) :=
  (upto x.pages.length).flatMap fun l => pageFeet s x.company (.scene x.id l)

/-- The write-back of a queued scene takes its Loft room, the scene itself staying, and becomes a D0 item (R221, R232). -/
def startWriteBack (s : State) (p : Nat × SceneId) : Option State :=
  let (c, id) := p
  match findScene s c id with
  | none => none
  | some x =>
    if inFlight s c id || x.retired || !parentRecorded s x then none else
    let n := sceneBytes (modelD s x.model)
    (makeRoomBeside [id] .loft c n s).map fun s =>
      startItem .writeBack c (some id) 0 n (sceneFeet s x)
        (modLoft (fun l => { l with wbQueue := l.wbQueue.filter (· != (c, id)) }) s)

/-- WRITE_BACK_START: the first queued scene whose parent's record is complete and whose room is there (R189, R221, R254).
Medium read-only mode starts none (R283, R284). -/
def execWriteBackStart (s : State) : Res :=
  if !loftOn s || s.loft.roCause == 1 then .next s
  else .next ((s.loft.wbQueue.findSome? (startWriteBack s)).getD s)

/-! Read-only mode and wear. -/

/-- A channel that still has a working die has none that may take new stripes, or no channel at all has one (R282). -/
def mediumFull (s : State) : Bool :=
  ((upto 32).any fun c => (channelDies c).any (dieWorks s) && !(channelDies c).any (takesStripes s))
  || !(upto 1024).any (takesStripes s)

/-- Medium read-only mode begins (R282, R284). -/
def beginRo (l : LoftBlk) : LoftBlk := { l with roCause := 1, roItem := l.nextItem }

/-- Enter read-only mode where the medium calls for it (R282); bring the health causes up to date. -/
def checkMedium (s : State) : State :=
  if s.loft.roCause != 1 && mediumFull s then updateRo (modLoft beginRo s) else syncHealth s

/-- The second die of a group is gone (R294): DOUBLE_DIE, with read-only mode where that is the same happening's. -/
def doubleDie (s : State) : State :=
  raiseCause 8 (if s.loft.roCause != 1 && mediumFull s
    then modDev (fun d => { d with roMode := true }) (modLoft beginRo s) else s)

/-- LOFT_WEAR: device-wide counts, and pct_used as the greater of its two measures (R278). -/
def updateWear (s : State) : State :=
  let total := (s.loft.dies.map fun p => peSum p.2).sum
  let most := (s.loft.dies.map fun p => peMost p.2).foldl max 0
  let blocks := 1024 * 4096
  let pct := max (total * 100 / (3000 * blocks)) (s.loft.gbWritten.toNat * 100 / 200000000)
  modLoft (fun l => { l with
    pctUsed := BitVec.ofNat 16 (min 65535 (max pct l.pctUsed.toNat))
    peMax := BitVec.ofNat 16 (max l.peMax.toNat most)
    peAvg := BitVec.ofNat 16 (min 65535 (max l.peAvg.toNat (total / blocks))) }) s

/-- LOFT_WRITTEN counts footprint bytes of write-back exactly (R277). -/
def countWritten (n : Nat) (s : State) : State :=
  if n == 0 then s else
  let t := s.loft.remainder + n
  updateWear (modLoft (fun l => { l with
    gbWritten := l.gbWritten + w64 (t / 1000000000), remainder := t % 1000000000 }) s)

/-! D0 items that end. -/

/-- Pages that an item wrote. -/
def pagesWritten (s : State) (n : Nat) : List PageRef :=
  (s.loft.stripes.flatMap fun p => p.2.units.flatMap fun u => (u.spans.filter (·.item == n)).map fun a =>
    match a.obj with
    | .page _ id l => PageRef.scene id l
    | .chunk _ k l _ => PageRef.weights k l).eraseDups

/-- The Loft holds the page, or no longer does. -/
def setLoft (c : Nat) (what : PageRef) (b : Bool) (s : State) : State :=
  match what with
  | .scene id l => modScene c id (fun x => { x with loft := setAt x.loft l b }) s
  | .weights n l => modSet n (fun w => { w with loft := setAt w.loft l b }) s

/-- An item whose programs are done leaves the drain and the index takes its copies, of which Usher's units learn where they replace
others: a write-back forms the creation record of its scene, or the record of its set's load (R188, R262, R285, R298, R338). -/
def completeItem (x : D0Item) (s : State) : State :=
  let pages := pagesWritten s x.num
  let s := switchHome x.num (modLoft (fun l => { l with d0 := l.d0.filter (·.num != x.num) }) s)
  match x.kind, x.scene with
  | .writeBack, some id =>
    let s := modScene x.company id (fun y => { y with loft := y.loft.map fun _ => true }) s
    match findScene s x.company id with
    | some y => formRecord (.scenePut y) none s
    | none => s
  | .writeBack, none =>
    match findSet s x.set with
    | some w => if w.pending then formRecord (.weightsPut w) (some (w.madeBy, okWith (w64 x.size) 0 0)) s else s
    | none => s
  | .rewrite, _ => pages.foldl (fun s p => setLoft x.company p true s) s
  | .move, some id => invalidate x.company id s
  | .move, none => s

/-- Complete every item that is done, oldest first. -/
def completeItems (s : State) : State :=
  s.loft.d0.foldl (fun s x => if itemDone s x.num then completeItem x s else s) s

/-! Bad blocks. -/

/-- A bad block leaves service once its data has gone: a spare replaces it, but the last 8 spares never replace one, and then the
die's over-provisioning shrinks (R279, R825). -/
def retireBlock (d b : Nat) (s : State) : State :=
  let x := die s d
  let spare := decide (8 < x.spares)
  let s := modDie d (fun x => { x with spares := if spare then x.spares - 1 else x.spares }) (modBlk d b (fun y => { y with moving := false }) s)
  let s := modLoft (fun l => { l with spareLeft := if spare then l.spareLeft - 1 else l.spareLeft }) s
  healthRecord 6 (if spare then 0 else 1) (Config.recordTarget 6 d b) (Config.recordRepl 6 d (if spare then some x.spares else none)) s

/-- Bad blocks whose relocation has ended. -/
def retireBad (s : State) : State :=
  s.loft.dies.foldl (fun s p =>
    let held := (unitsOn s p.1).flatMap fun q => q.2.2.blocks
    (p.2.blocks.filter fun q => q.2.bad && q.2.moving && !held.contains q.1).foldl (fun s q => retireBlock p.1 q.1 s) s) s

/-- Data that has come to lie in a block being relocated goes on, but not in read-only mode (R284, R298). -/
def chaseMoves (s : State) : State :=
  if s.dev.roMode then s else
  s.loft.dies.foldl (fun s p => (p.2.blocks.filter (·.2.moving)).foldl (fun s q => moveData p.1 q.1 s) s) s

/-- What follows a change of the medium: items end, stale stripes go, bad blocks leave, and the dies take up new work. -/
def afterMedium (s : State) : State := checkMedium (pump (retireBad (dropStale (chaseMoves (completeItems s)))))

/-- A block is bad: whatever can be read of it is relocated, except in read-only mode, which relocates nothing (R279, R284, R299). -/
def badBlock (d b : Nat) (s : State) : State :=
  let was := (blk (die s d) b).bad
  let s := modDie d (fun x => { x with
    badBlocks := if was then x.badBlocks else x.badBlocks + 1
    open_ := if x.open_.contains b then [] else x.open_, erases := x.erases.filter (· != b)
    blocks := kmodD x.blocks b Blk.fresh fun y => { y with bad := true, moving := y.moving && was } }) s
  if s.dev.roMode then s else relocate d b s

/-! Lost data. -/

/-- A page of the scene; of the weight set. -/
def ofScene (id : SceneId) : PageRef → Bool
  | .scene i _ => i == id
  | .weights _ _ => false
def ofSet (n : Nat) : PageRef → Bool
  | .scene _ _ => false
  | .weights k _ => k == n

/-- Pages that a transfer of a cluster's run reads. -/
def readsOf (s : State) (cl : Cluster) (x : Transfer) : List PageRef :=
  match x.kind with
  | .page => [PageRef.scene x.scene x.layer]
  | .moveIn =>
    match (cl.run.bind (runOf s)).bind fun r => r.bufs[x.peer]? with
    | some b => pagesMoved b x.offset x.len s
    | none => []
  | _ => []

/-- PAGE and MOVE transfers that wait for a page of the scene or set fault as they end: MEDIA_FAIL for the page whose read failed,
MEDIA_RETIRED otherwise (R469, R485). -/
def xfersLose (c : Nat) (mine : PageRef → Bool) (page : Option PageRef) (s : State) : State :=
  { s with clusters := kmap s.clusters fun _ cl =>
      if ((cl.run.bind (runOf s)).map (·.company)) != some c then cl else
      { cl with xfers := cl.xfers.map fun x =>
          let l := (readsOf s cl x).filter fun p => mine p && !pageAbove s c p
          if l.isEmpty || x.failed.isSome then x
          else { x with failed := some (if page.any l.contains then 8 else 9) } } }

/-- PLACE and MIGRATE that wait for a page of the scene or set end as STALL commands (R242, R244, R286). -/
def movesLose (c : Nat) (mine : PageRef → Bool) (page : Option PageRef) (s : State) : State :=
  (s.taken.filter fun t => t.company == c && t.running && (t.opcode == 0x32 || t.opcode == 0x33)).foldl (fun s t =>
    match s.work.staging.find? fun g => g.company == c && mine g.what && g.waiters.any (·.1 == t.seq) with
    | some g => failMove t (if page.isSome then 0x501 else 0x502) (page.getD g.what) s
    | none => s) s

/-- The layers of a weight set that an XFER reads (R647, R663). -/
def netPages (s : State) (o : NetOp) : List PageRef :=
  let (kind, n, off) := o.local_
  if o.atomic || kind != 2 then []
  else (((findSet s n).map fun w => layersMet off o.length w.layers 0 0).getD []).map (.weights n ·)

/-- XFERs that wait for a page of the set end as STALL commands (R242, R244, R289). -/
def netsLose (n : Nat) (page : Option PageRef) (s : State) : State :=
  (s.work.nets.filter (·.msg.isNone)).foldl (fun s o =>
    match s.taken.find? fun t => t.seq == o.seq && (netPages s o).any fun p => ofSet n p && !pageReady s t.company p with
    | some t => finish t (status (if page.isSome then 0x501 else 0x502)) (modWork (fun w => { w with nets := w.nets.filter (·.seq != o.seq) }) s)
    | none => s) s

/-- Copies being made of which p holds are given up; a foreground read among them leaves its dies. -/
def dropCopies (p : PageCopy → Bool) (s : State) : State :=
  let gone := s.work.staging.filter p
  let s := modWork (fun w => { w with staging := w.staging.filter fun g => !p g }) s
  issueReads (gone.foldl (fun s g =>
    if g.issued && g.ended.isNone && !g.background then g.dies.foldl (fun s d => leaveDie d s) s else s) s)

/-- What waits for a retired scene ends; `page` is the page whose read by a command found the failure (R244, R286, R345). -/
def sceneLost (c : Nat) (id : SceneId) (page : Option Nat) (s : State) : State :=
  let p := page.map (PageRef.scene id ·)
  let s := movesLose c (ofScene id) p (xfersLose c (ofScene id) p (attsLose c id page (cuesLose c id page s)))
  dropCopies (fun g => g.company == c && ofScene id g.what) s

/-- A page has failed with no intact copy: its scene is retired (R286). -/
def retireScene (c : Nat) (id : SceneId) (page : Option Nat) (s : State) : State :=
  let s := formRecord (.sceneRetire c id true) none (modScene c id (fun x => { x with retired := true }) s)
  sceneLost c id page s

/-- What waits for a retired weight set ends (R244, R289). -/
def setLost (c n : Nat) (layer : Option Nat) (s : State) : State :=
  let p := layer.map (PageRef.weights n ·)
  let s := movesLose c (ofSet n) p (xfersLose c (ofSet n) p (netsLose n p (streamsLose n layer s)))
  dropCopies (fun g => ofSet n g.what) s

/-- A layer of a weight set has failed with no intact copy: the set is retired (R289). -/
def retireSet (c n : Nat) (layer : Option Nat) (s : State) : State :=
  match findSet s n with
  | none => s
  | some w => setLost c n layer (formRecord (.weightsRetire c w.name) none (modSet n (fun w => { w with retired := true }) s))

/-- Retire what a page belongs to; `found` says that a command's read of this page found it. -/
def retirePage (c : Nat) (what : PageRef) (found : Bool) (s : State) : State :=
  match what with
  | .scene id l => retireScene c id (if found then some l else none) s
  | .weights n l => retireSet c n (if found then some l else none) s

/-- End what waits for a page of something that has already been retired. -/
def endWaiters (c : Nat) (what : PageRef) (s : State) : State :=
  match what with
  | .scene id _ => sceneLost c id none s
  | .weights n _ => setLost c n none s

/-- The Loft copy of a failed page is written anew from the copy above it; until it is complete the Loft does not hold the page.
Read-only mode writes nothing: the page then persists only while its upper copy lives (R283, R285). -/
def rewritePage (c : Nat) (what : PageRef) (s : State) : State :=
  let units := unitsOfPage s c what
  let s := setLoft c what false (dropData (fun o _ => units.contains o) s)
  if s.dev.roMode then s else
  match what with
  | .scene id _ => startItem .rewrite c (some id) 0 0 (pageFeet s c what) s
  | .weights n _ => startItem .rewrite c none n 0 (pageFeet s c what) s

/-- A page that scrub, a read or a die failure finds failed: with a copy in Stage or Wings the Loft copy is rewritten from it and the
scene or set is unaffected; otherwise it is retired (R285, R286, R289). -/
def losePage (c : Nat) (what : PageRef) (s : State) : State :=
  if !pageInLoft s c what || pageRetired s c what then s
  else if pageAbove s c what then rewritePage c what s
  else retirePage c what false s

def losePages (l : List (Nat × PageRef)) (s : State) : State := l.foldl (fun s p => losePage p.1 p.2 s) s

/-- The page that a data unit is part of. -/
def pageOf : LoftObj → Nat × PageRef
  | .page c id l => (c, .scene id l)
  | .chunk c n l _ => (c, .weights n l)

/-! Dies that fail. -/

/-- Footprints of a unit that has not been programmed go back to wait for the next open stripe (R300). -/
def unitFeet (u : LUnit) : List Foot :=
  u.spans.map fun a => { obj := a.obj, item := a.item, chan := channelOf a.obj, off := a.off, data := slice u.data a.at_ a.len }

/-- Units not yet programmed on a failed die: their footprints wait again. A parity unit, and a data unit that a programmed parity already
covers, is rebuilt with the units programmed there; any other data unit leaves its stripe (R292, R300; notes/assumptions/49.md). -/
def clearUnits (d : Nat) (s : State) : State :=
  let waits := fun (u : LUnit) => u.die == d && u.st != .done
  let feet := s.loft.stripes.flatMap fun p => (p.2.units.filter waits).flatMap unitFeet
  let clear := fun (p : Stripe) =>
    if !p.units.any waits then p
    else if p.units.any fun u => u.parity && u.st == .done && !u.blocks.isEmpty then
      { p with units := p.units.map fun u => if waits u then { u with st := .done, spans := [] } else u }
    else
      let left := { p with members := p.members.filter fun m => !(p.units.any fun u => waits u && u.member == m)
                           units := p.units.filter fun u => !waits u }
      { left with units := left.units.map fun u => if u.parity then { u with data := parityOf left } else u }
  let clear := fun (p : Stripe) =>
    clear { p with units := p.units.map fun u => if u.parity && waits u && p.closed then { u with st := .done } else u }
  modLoft (fun l => { l with feet := feet ++ l.feet, stripes := kmap l.stripes fun _ p => clear p }) s

/-- Open stripes of the die's group end early (R300). -/
def endStripes (d : Nat) (s : State) : State :=
  s.loft.openStripe.foldl (fun s p =>
    match kget s.loft.stripes p.2 with
    | some x => if x.group == dieGroup d then closeStripe p.2 s else s
    | none => s) s

/-- Progress of the rebuild in percent, over the units of the dies being rebuilt (R293). -/
def rebuildProgress (l : LoftBlk) : LoftBlk :=
  { l with rebuildPct := BitVec.ofNat 8 (if l.rebuildTotal == 0 then 0 else (l.rebuildTotal - l.rebuilds.length) * 100 / l.rebuildTotal) }

/-- The units of a failed die: those of a stripe that also has a unit of another die still to be rebuilt are lost with it, and the others are
to be rebuilt (R293, R294). The answer is the pages that the lost units held. -/
def fileUnits (d : Nat) (s : State) : List (Nat × PageRef) × State :=
  let mine := (unitsOn s d).filter fun q => stripeLive q.2.1
  let both := (mine.filter fun q => s.loft.rebuilds.any (·.stripe == q.1)).map (·.1)
  let dead := fun (k : Nat) (u : LUnit) => both.contains k &&
    (u.die == d || s.loft.rebuilds.any fun r => r.stripe == k && r.member == u.member)
  let pages := (s.loft.stripes.flatMap fun p => (p.2.units.filter (dead p.1)).flatMap fun u =>
    (u.spans.filter (·.home)).map fun a => pageOf a.obj).eraseDups
  let todo := (mine.filter fun q => !both.contains q.1).map fun q =>
    ({ die := d, stripe := q.1, member := q.2.2.member, target := none, issued := false } : Rebuilt)
  let keep := s.loft.rebuilds.filter fun r => !both.contains r.stripe
  (pages, modLoft (fun l => { l with
    stripes := l.stripes.map fun p => (p.1, { p.2 with units := p.2.units.map fun u => if dead p.1 u then { u with lost := true } else u })
    rebuilds := (keep.map fun r => if r.target == some d then { r with target := none, issued := false } else r) ++ todo
    rebuildTotal := l.rebuildTotal + todo.length }) s)

/-- Reads that were to be served by the failed die are served by its stripe peers (R292). -/
def redirectReads (d : Nat) (s : State) : State :=
  let s := (s.work.staging.filter fun g => g.issued && g.ended.isNone && g.dies.contains d).foldl (fun s g =>
    let dies := pageDies s g.company g.what
    let s := modWork (fun w => { w with staging := w.staging.map fun h => if h == g then { h with dies := dies } else h }) s
    if g.background then s else
    let s := (dies.filter fun e => !g.dies.contains e).foldl (fun s e => reachDie e s) s
    (g.dies.filter fun e => e != d && !dies.contains e).foldl (fun s e => leaveDie e s) s) s
  redirectLoads d s

/-- A die fails: no work is issued to it, its spares leave spare_left, an open stripe of its group ends early, and its rebuild starts
(R291 to R293, R295, R300). A second failure in a group before the first rebuild is done loses the units of stripes that both hold
(R294). -/
def failDie (d : Nat) (s : State) : State :=
  let x := die s d
  let pair := s.loft.rebuilding.any fun e => dieGroup e == dieGroup d
  let s := modDie d (fun x => { x with
    state := 2, failedAt := s.health.lifeS.toNat, op := none, suspends := 0, suspended := false, duskHeld := false, heldAt := none,
    reads := 0, busySince := none, erases := [], open_ := [] }) s
  let s := modLoft (fun l => { l with
    failedDies := satInc l.failedDies, spareLeft := l.spareLeft - BitVec.ofNat 18 x.spares
    rebuilding := l.rebuilding ++ [d], rebuildActive := true }) s
  let (pages, s) := fileUnits d (clearUnits d (endStripes d s))
  let s := healthRecord 7 (if pair then 2 else 0) d (Config.recordRepl 7 d none) (redirectReads d (modLoft rebuildProgress s))
  afterMedium (losePages pages (if pair then doubleDie s else s))

/-- DIE_FAILURE (R291 to R295, R300, R823). -/
def execDieFailure (d : Nat) (s : State) : Res :=
  if !dieOk d then .fault .noSuchThing
  else if !loftOn s || !dieWorks s d then .next s
  else .next (failDie d s)

/-- A program or erase has failed on a block: the block is bad, and with 16 such within 24 h the die has failed (R279, R291). -/
def blockFails (d b : Nat) (s : State) : State :=
  let t := s.health.lifeS.toNat
  let s := modDie d (fun x => { x with failTimes := (x.failTimes.filter fun u => decide (t < u + 86400)) ++ [t] }) (badBlock d b s)
  if 16 ≤ (die s d).failTimes.length then failDie d s else afterMedium s

/-! Programs. -/

/-- A unit is programmed on the open blocks of its die, or on a new set; one drawn from the reserve takes its four blocks from it
(R255, R284). -/
def takeLine (d : Nat) (reserve : Bool) (s : State) : List Nat × Nat × State :=
  let x := die s d
  let blocks := targetBlocks s d reserve
  let line := (blk x (blocks.headD 0)).used
  let draw := if x.open_.isEmpty && erasedBlocks s d < 4 then min 4 x.spares else 0
  let t := s.health.lifeS.toNat
  let put := fun (y : Blk) => if y.used == 0 then { y with used := 1, reads := 0, madeAt := t, scrubAt := t } else { y with used := y.used + 1 }
  let s := modDie d (fun x => { x with
    op := none, suspends := 0, open_ := if line + 1 < wordLines then blocks else [], spares := x.spares - draw
    blocks := blocks.foldl (fun m b => kmodD m b Blk.fresh put) x.blocks }) s
  (blocks, line, modDie d (noteIdle (now s)) (modLoft (fun l => { l with spareLeft := l.spareLeft - BitVec.ofNat 18 draw }) s))

/-- Footprint bytes of write-back in a unit (R277). -/
def writtenIn (s : State) (u : LUnit) : Nat :=
  ((u.spans.filter fun a => s.loft.d0.any fun x => x.num == a.item && x.kind == .writeBack).map (·.len)).sum

/-- The program of a stripe's unit has ended; it may have drawn on the reserve (R284). -/
def landUnit (d k m : Nat) (reserve : Bool) (s : State) : State :=
  let (blocks, line, s) := takeLine d reserve s
  let n := (((kget s.loft.stripes k).bind (unitOf · m)).map (writtenIn s)).getD 0
  countWritten n (modUnit k m (fun u => { u with st := .done, blocks := blocks, line := line }) s)

/-- Pages of a unit that the index names. -/
def unitPages (s : State) (k m : Nat) : List (Nat × PageRef) :=
  ((((kget s.loft.stripes k).bind (unitOf · m)).map fun u => (u.spans.filter (·.home)).map fun a => pageOf a.obj).getD []).eraseDups

/-- Usher's units learn that copies of these pages have moved (R338). -/
def announce (l : List (Nat × PageRef)) (s : State) : State :=
  ((l.filterMap fun p => match p.2 with
    | .scene id _ => some (p.1, id)
    | .weights _ _ => none).eraseDups).foldl (fun s p => invalidate p.1 p.2 s) s

/-- The program of a rebuilt unit has ended: the stripe's member is the new unit from now on (R293). -/
def landRebuilt (d k m : Nat) (reserve : Bool) (s : State) : State :=
  let (blocks, line, s) := takeLine d reserve s
  let s := modUnit k m (fun u => { u with die := d, st := .done, blocks := blocks, line := line }) s
  announce (unitPages s k m) (modLoft (fun l => rebuildProgress { l with
    rebuilds := l.rebuilds.filter fun r => !(r.stripe == k && r.member == m) }) s)

/-- A failed program starts again on other blocks of the die. -/
def againLater (d k m : Nat) (s : State) : State :=
  modUnit k m (fun u => if u.die == d && u.st == .issued then { u with st := .buffered } else u) (modLoft (fun l => { l with
    rebuilds := l.rebuilds.map fun r => if r.stripe == k && r.member == m && r.target == some d then { r with issued := false } else r }) s)

/-- The die runs no operation any more. -/
def endOp (d : Nat) (s : State) : State := modDie d (fun x => noteIdle (now s) { x with op := none, suspends := 0 }) s

/-- LOFT_PROGRAM_COMPLETE: the program that a die runs ends; one that is suspended goes on first (R260 to R262, R271, R277, R279,
R293). -/
def execLoftProgramComplete (o : ProgramOutcome) (s : State) : Res :=
  if !(dieOk o.die && blockOk o.block) then .fault .noSuchThing
  else if !loftOn s || !dieWorks s o.die || (die s o.die).suspended then .next s
  else
    let d := o.die
    let bad := fun (k m : Nat) (reserve : Bool) =>
      if !(targetBlocks s d reserve).contains o.block then Host.Outcome.next s
      else .next (blockFails d o.block (againLater d k m (endOp d s)))
    match (die s d).op with
    | some (.program k m) => if o.failed then bad k m (drawsReserve s k) else .next (afterMedium (landUnit d k m (drawsReserve s k) s))
    | some (.rebuild k m) => if o.failed then bad k m false else .next (afterMedium (landRebuilt d k m false s))
    | _ => .next s

/-- STRIPE_CLOSE_TIMER: 50 ms after its first footprint an open stripe closes, padded (R261). -/
def execStripeCloseTimer (half : Nat) (s : State) : Res :=
  if 2 ≤ half then .fault .noSuchThing else
  match (kget s.loft.openStripe half).bind fun k => (kget s.loft.stripes k).map fun p => (k, p) with
  | none => .next s
  | some (k, p) =>
    if !loftOn s || p.units.isEmpty || now s < p.openAt + 50000000 then .next s else .next (afterMedium (closeStripe k s))

/-- The erase that a die runs has ended, so or so. -/
def eraseEnds (d b : Nat) (s : State) : State :=
  modDie d (fun x => noteIdle (now s) { x with op := none, suspends := 0, erases := x.erases.filter (· != b) }) s

/-- A block has been erased (R276). -/
def blockErased (d b : Nat) (s : State) : State :=
  updateWear (modBlk d b (fun y => { y with pe := y.pe + 1, used := 0, reads := 0, moving := false }) s)

/-- LOFT_ERASE_COMPLETE: the block's count goes up and it is erased, or it is bad; the die takes its next operation. An erase suspended, or
held by Dusk, goes on first (R80, R271, R272, R276, R279). -/
def execLoftEraseComplete (d b : Nat) (failed : Bool) (s : State) : Res :=
  if !(dieOk d && blockOk b) then .fault .noSuchThing
  else if !loftOn s || !dieWorks s d || (die s d).op != some (.erase b) || (die s d).suspended || (die s d).duskHeld then .next s
  else
    let s := eraseEnds d b s
    if failed then .next (blockFails d b s) else .next (afterMedium (blockErased d b s))

/-- SUSPEND_EXPIRY: no foreground read is queued, or 500 µs have passed; after the second suspension UNIFIED loads wait no longer
(R271, R272). -/
def execSuspendExpiry (d : Nat) (s : State) : Res :=
  let x := die s d
  if !dieOk d then .fault .noSuchThing
  else if !x.suspended || (x.reads != 0 && now s < x.suspendAt + 500000) then .next s
  else .next (redirectLoads d (modDie d (fun x => { x with suspended := false }) s))

/-! The journal. -/

/-- A weight set whose load completes takes the place of the older one of its name, which is freed when the commands that read it have ended
(R639, R640, R663). -/
def installWeights (w : Weights) (s : State) : State :=
  freeSets (modStore (fun st => { st with weights := st.weights.map fun x =>
    if x.setNum == w.setNum then { x with pending := false, loft := x.loft.map fun _ => true }
    else if x.company == w.company && x.name == w.name && !x.pending then { x with old := true } else x }) s)

/-- The object of a MIGRATE, as its mapping names it. -/
def migrated (t : Taken) (s : State) : Viewed := (viewOf t (placeObj t s) s).1

/-- MIGRATE to the Loft lets go of the copies above it once the Loft copy is recorded (R224, its table). -/
def dropMigrated (c : Nat) (id : SceneId) (s : State) : State :=
  (s.taken.filter fun t => t.opcode == 0x33 && t.running && t.company == c && fld (word t 1) 57 56 == 3 && t.reads.contains id).foldl
    (fun s t => dropAbove c (migrated t s) [id] s) s

/-- The number of a retired model is free (R603). -/
def freeModel (n : Nat) (s : State) : State :=
  if (modelOf s n).any (·.retiring) then modStore (fun st => { st with models := kdel st.models n }) s else s

/-- What a written record brings about in the device. -/
def recordDone (k : JKind) (s : State) : State :=
  match k with
  | .modelPut n none => freeModel n s
  | .scenePut x => dropMigrated x.company x.id (modScene x.company x.id (fun y => { y with recorded := true, putAt := now s }) s)
  | .weightsPut w => installWeights w s
  | _ => s

/-- The command that a record completes; COMPANY_RULES goes on to its drain (R776, R780). -/
def completeRecord (r : JRec) (s : State) : State :=
  match r.cmd with
  | none => s
  | some (seq, c) =>
    if s.work.rules.any (·.seq == seq) then
      modWork (fun w => { w with rules := w.rules.map fun o => if o.seq == seq then { o with recorded := true } else o }) s
    else match s.taken.find? (·.seq == seq) with
      | some t => finishCore t c s
      | none => s

/-- JOURNAL_RECORD_COMPLETE: both copies of the records that the running journal program writes are written, and the next program takes the
records formed meanwhile. A program issued before Dusk finishes in it (R80, R188). -/
def execJournalRecordComplete (s : State) : Res :=
  let n := s.loft.jprog
  if !loftOn s || n == 0 then .next s
  else
    let done := s.loft.journal.take n
    let s := modLoft (fun l => { l with jprog := 0 }) (writeRecords n s)
    .next (settle (startJournal (done.foldl (fun s r => completeRecord r (recordDone r.kind s)) s)))

/-- INDEX_CHECKPOINT: after 2^24 records, or 600 s with records pending (R190). -/
def execIndexCheckpoint (s : State) : Res :=
  if !loftOn s || programsHeld s || !s.dev.curUp then .next s
  else if 2 ^ 24 ≤ s.loft.written.length || (!s.loft.written.isEmpty && decide (s.loft.ckptAt + 600000000000 ≤ now s)) then
    .next (writeCheckpoint s)
  else .next s

/-! Reads and the copies they make. -/

/-- A die can end a background read: no operation runs on it, and no foreground read is queued (R270, R273). -/
def canReadBack (s : State) (d : Nat) : Bool :=
  loftOn s && dieWorks s d && ((die s d).op.isNone || (die s d).duskHeld) && (die s d).reads == 0 && !onHold s d

/-- The read of a page can end so (R265, R270 to R274, R292). -/
def readMayEnd (s : State) (g : PageCopy) (o : ReadOutcome) : Bool :=
  g.dies.all (if g.background then canReadBack s else canRead s) && (unitsOfPage s g.company g.what).all fun u => readCanEnd s u o

/-- The Loft read of a page copy has ended so: its dies go on, and it counts toward the read disturb of the blocks (R265, R266, R270). -/
def readEnds (g : PageCopy) (o : ReadOutcome) (s : State) : State :=
  let s := modWork (fun w => { w with staging := w.staging.map fun h => if h == g then { h with ended := some o } else h }) s
  let s := (unitsOfPage s g.company g.what).foldl (fun s u => countReads u s) s
  if g.background then s else g.dies.foldl (fun s d => leaveDie d s) s

/-- LOFT_READ_COMPLETE: the Loft read of a page copy ends, through the stages of R265. A page that fails with an intact copy above is rewritten
from it, and its command goes on; with none its scene or set is retired (R244, R285, R286, R289). -/
def execLoftReadComplete (c : Nat) (what : PageRef) (o : ReadOutcome) (s : State) : Res :=
  match s.work.staging.find? fun g => g.company == c && g.what == what && g.issued && g.ended.isNone && readMayEnd s g o with
  | none => .next s
  | some g =>
    let s := readEnds g o s
    if refBytes s c what == 0 then .next (dropCopies (fun h => h.company == c && h.what == what) s)
    else if o != .failed then .next (issueReads s)
    else if pageAbove s c what then .next (issueReads (losePage c what s))
    else if pageRetired s c what then .next (endWaiters c what s)
    else .next (afterMedium (retirePage c what (!g.waiters.isEmpty) s))

/-- The waiting command is a STALL one, and goes on waiting (R243). -/
def stallWait (s : State) (q : Nat) : Bool :=
  (s.taken.any fun t => t.seq == q && t.running) && !(((cueOf s q).map fun o => o.deadlineMode || o.cancelled).getD false)
  && !(((attOf s q).map (·.deadlineMode)).getD false) && !(((wsOf s q).map (·.deadlineMode)).getD false)

/-- Each wait of a STALL command longer than 10 µs counts once under its cause: read retry or parity rebuild, a calibration hold, or else
Loft busy (R243; notes/assumptions/48.md). -/
def countLate (g : PageCopy) (s : State) : State :=
  let n := (g.waiters.filter fun p => decide (p.2 + 10000 < now s) && stallWait s p.1).length
  modPerf (fun p =>
    if g.ended == some .retried || g.ended == some .rebuilt then { p with lateRetry := satAdd p.lateRetry n }
    else if g.held then { p with lateCalib := satAdd p.lateCalib n }
    else { p with lateLoft := satAdd p.lateLoft n }) s

/-- A transfer of the run waits for the page. -/
def runWants (s : State) (seq c : Nat) (what : PageRef) : Bool :=
  s.clusters.any fun p => p.2.run == some seq && p.2.xfers.any fun x => (readsOf s p.2 x).contains what && c == p.2.company

/-- A command in flight still needs this page: it has not been run yet, or what it is to deliver or compute of it is not done; one whose cutoff
has passed, or which was cancelled, needs none (R234, R245, R335). -/
def stillWanted (s : State) (t : Taken) (c : Nat) (what : PageRef) : Bool :=
  readsPage t c what &&
  match cueOf s t.seq, attOf s t.seq, wsOf s t.seq with
  | some o, _, _ => !o.cutDone && !o.cancelled && o.items.any fun i => !i.sent && !i.missed && (itemLayers i).any fun l => what == .scene i.scene l
  | _, some o, _ => !o.cutDone
  | _, _, some o => (upto o.layers.length).any fun j => layerRef o j == what && !o.sent.contains j && !o.missed.contains j
  | none, none, none =>
    if t.opcode == 0x61 && t.running then runWants s t.seq c what
    else t.opcode != 0x58 || !t.running || s.work.nets.any fun o => o.seq == t.seq && o.msg.isNone

/-- Transient buffers that no command needs any more are free (R234, R245). -/
def pruneTransient (s : State) : State :=
  modWork (fun w => { w with transient := w.transient.filter fun p => s.taken.any fun t => stillWanted s t p.1 p.2 }) s

/-- A command still waits for this page copy. -/
def wanted (s : State) (g : PageCopy) : Bool :=
  s.taken.any fun t => g.waiters.any (·.1 == t.seq) && stillWanted s t g.company g.what

/-- A page is held in Wings; pre-staging with to_stage copies it on to Stage working area (R341). -/
def holdCopy (g : PageCopy) (s : State) : State :=
  let s := setPage g.company g.what g.stage s
  if !g.onward || s.work.working.contains (g.company, g.what) then s
  else trimWorking (modWork (fun w => { w with working := w.working ++ [(g.company, g.what)] }) s)

/-- A page copy lands: in room that it has or finds by steps 1 and 2 of R232, otherwise it passes through a transient buffer
(R234); room that only a copy being read would give is waited for (R247). One that no command waits for any more is discarded
(R245). -/
def landCopy (g : PageCopy) (s : State) : State :=
  let out := fun (s : State) => countLate g (modWork (fun w => { w with staging := w.staging.filter (· != g) }) s)
  let owner := g.waiters.head?.map (·.1)
  if refBytes s g.company g.what == 0 then out s
  else if g.allocated then setPage g.company g.what g.stage (out s)
  else if !g.waiters.isEmpty && !wanted s g then out s
  else match roomForCopy owner (if g.stage then .stage else .wings) g.company (refBytes s g.company g.what) s with
    | some u => if copyWaits owner g.company s u then s else holdCopy g (out u)
    | none => modWork (fun w => { w with transient := w.transient ++ [(g.company, g.what)] }) (out s)

/-- What waits for page copies goes on (R224, R320, R327, R378). -/
def resume (s : State) : State := pruneTransient (settle (progressStreams (progressAtts (progressCues s))))

/-- STAGING_COMPLETE (R234, R320, R324, R329, R338, R351). -/
def execStagingComplete (c : Nat) (what : PageRef) (s : State) : Res :=
  let here := s.work.staging.filter fun g => g.company == c && g.what == what && g.ended.isSome
  if here.isEmpty then .next s else .next (issueReads (resume (here.foldl (fun s g => landCopy g s) s)))

/-! Rebuild. -/

/-- REBUILD_COMPLETE: no unit of the die is left to rebuild (R293). -/
def execRebuildComplete (d : Nat) (s : State) : Res :=
  if !dieOk d then .fault .noSuchThing
  else if !loftOn s || !s.dev.curUp || !s.loft.rebuilding.contains d || s.loft.rebuilds.any (·.die == d) then .next s
  else
    let rest := s.loft.rebuilding.filter (· != d)
    let s := modLoft (fun l => { l with
      rebuilding := rest, rebuildActive := !rest.isEmpty, rebuildTotal := if rest.isEmpty then 0 else l.rebuildTotal
      rebuildPct := if rest.isEmpty then 100 else l.rebuildPct }) s
    .next (healthRecord 8 0 d (Config.recordRepl 8 d none) (modDie d (fun x => { x with state := 3 }) s))

/-! Background work. -/

/-- A die starts background work only with nothing that goes before it: no foreground read, no program or erase, and for scrub and calibration
no pre-staging read (R270, R304). -/
def dieIdle (s : State) (d : Nat) : Bool := canReadBack s d
def scrubFree (s : State) (d : Nat) : Bool :=
  canReadBack s d && !s.work.staging.any fun g => g.background && g.issued && g.ended.isNone && g.dies.contains d

/-- LOFT_BG_CTRL.scrub_days as it acts, in seconds, and calib_min, in ns (R266). -/
def scrubPeriod (s : State) : Nat := 86400 * max 1 (min 30 s.loft.scrubDays.toNat)
def calibPeriod (s : State) : Nat := 60000000000 * max 1 (min 60 s.loft.calibMin.toNat)

/-- A programmed block is due for its patrol scrub: by the period, or in the full pass after a power-on (R266, R267). -/
def scrubDue (s : State) (d b : Nat) : Bool :=
  let y := blk (die s d) b
  y.used != 0 && (decide (y.scrubAt + scrubPeriod s ≤ s.health.lifeS.toNat) || s.loft.scrubPass.any fun t => decide (y.scrubAt < t))

/-- The full pass ends when every programmed block has been scrubbed in it (R267). -/
def endPass (s : State) : State :=
  if s.loft.scrubPass.any fun t => s.loft.dies.all fun p => 2 ≤ p.2.state || p.2.blocks.all fun q => q.2.used == 0 || decide (t ≤ q.2.scrubAt)
  then modLoft (fun l => { l with scrubPass := none }) s else s

/-- A page lies in a block, whole or in part. -/
def liesIn (s : State) (d b : Nat) (p : Nat × PageRef) : Bool :=
  (unitsOfPage s p.1 p.2).any fun o => (placesOf s o).any fun q => q.2.2.die == d && q.2.2.blocks.contains b

/-- The stripes of a block's units allow the rebuild of stage 3 (R265). -/
def blockRebuilds (s : State) (d b : Nat) : Bool :=
  ((unitsOn s d).filter fun q => q.2.2.blocks.contains b).all fun q => peersRead s q.2.1 q.2.2

/-- What the scrub of a block finds: a codeword that needs retry, or more than 70 % of the limit, relocates its data, but not in read-only
mode; an uncorrectable one that the stripe rebuilds makes the block bad too; pages beyond rebuild are lost (R266, R279, R285 to R289,
R299, R653). -/
def scrubBlock (d b : Nat) (o : ReadOutcome) (lost : List (Nat × PageRef)) (s : State) : State :=
  let s := modBlk d b (fun y => { y with scrubAt := s.health.lifeS.toNat }) s
  match o with
  | .hard => s
  | .retried =>
    if s.dev.roMode || (blk (die s d) b).moving then s
    else relocate d b (modPerf (fun p => { p with retentionMoves := satInc p.retentionMoves }) s)
  | .rebuilt => if blockRebuilds s d b then badBlock d b s else s
  | .failed => badBlock d b (losePages (lost.filter (liesIn s d b)) s)

/-- PATROL_SCRUB of a block (R266, R267). -/
def execPatrolScrub (d b : Nat) (o : ReadOutcome) (lost : LostData) (s : State) : Res :=
  if !(dieOk d && blockOk b) then .fault .noSuchThing
  else if !scrubFree s d || !scrubDue s d b then .next s
  else .next (afterMedium (endPass (scrubBlock d b o lost.pages s)))

/-- House time since which a die's calibration has been due: by its period, or by a temperature that has moved 8 °C (R266). -/
def calibSince (s : State) (d : Nat) (moved : Option Nat) : Nat :=
  let p := (die s d).calibAt + calibPeriod s
  match moved with
  | some t => min p (max t (die s d).calibAt)
  | none => p

/-- READ_RETRY_CALIBRATION, by its period or by temperature, on an idle die or in the hold of an overdue one; a calibration that finds no table
fails the die (R266, R274, R291). -/
def execReadRetryCalibration (d : Nat) (ok moved : Bool) (s : State) : Res :=
  if !dieOk d then .fault .noSuchThing
  else if !loftOn s || !dieWorks s d then .next s
  else
    let overdue := onHold s d
    let due := moved || decide ((die s d).calibAt + calibPeriod s ≤ now s)
    if !overdue && !(scrubFree s d && due) then .next s
    else if !ok then .next (failDie d s)
    else .next (kick d (modDie d (fun x => { x with calibAt := now s, heldAt := none }) s))

/-- CALIBRATION_OVERDUE: a calibration due for 30 s on a die that has not been idle meanwhile holds foreground reads to the die (R243, R274,
R301). -/
def execCalibrationOverdue (d : Nat) (moved : Option Nat) (s : State) : Res :=
  if !dieOk d then .fault .noSuchThing
  else if !loftOn s || !dieWorks s d || onHold s d || now s < calibSince s d moved + 30000000000
    || !((die s d).busySince.any fun t => decide (t + 30000000000 ≤ now s)) then .next s
  else
    let s := modPerf (fun p => { p with calibHolds := satInc p.calibHolds }) (modDie d (fun x => { x with heldAt := some (now s) }) s)
    let mark : PageCopy → PageCopy := fun g => if g.issued && g.ended.isNone && g.dies.contains d then { g with held := true } else g
    .next (redirectLoads d (modWork (fun w => { w with staging := w.staging.map mark }) s))

/-- READ_DISTURB_REFRESH: 100,000 reads of a block relocate its data, once (R266, R297). Read-only mode relocates nothing. -/
def execReadDisturbRefresh (d b : Nat) (s : State) : Res :=
  if !(dieOk d && blockOk b) then .fault .noSuchThing
  else if !dieIdle s d || s.dev.roMode || (blk (die s d) b).moving || (blk (die s d) b).reads < 100000 then .next s
  else .next (afterMedium (relocate d b (modPerf (fun p => { p with disturbMoves := satInc p.disturbMoves }) s)))

/-- Bytes of a block's word lines, as parts of their units, that hold no valid data (R266). -/
def staleBytes (s : State) (d b : Nat) : Nat :=
  let valid := ((unitsOn s d).filter fun q => q.2.2.blocks.contains b && unitValid q.2.1 q.2.2).map fun q =>
    if q.2.2.parity then unitBytes else (q.2.2.spans.map (·.len)).sum
  (blk (die s d) b).used * unitBytes - valid.sum

/-- A block that reclamation may take: programmed, with stale data, not open, not bad, not already on its way. -/
def reclaimable (s : State) (d b : Nat) : Bool :=
  let x := die s d
  let y := blk x b
  y.used != 0 && !y.bad && !y.moving && !x.open_.contains b && !x.erases.contains b && staleBytes s d b != 0

/-- RECLAMATION: with fewer than 32 erased blocks, the data of the block with the most stale data is relocated and it is erased
(R266, R268). -/
def execReclamation (d b : Nat) (s : State) : Res :=
  if !(dieOk d && blockOk b) then .fault .noSuchThing
  else if !dieIdle s d || s.dev.roMode || 32 ≤ erasedBlocks s d || !reclaimable s d b
    || (die s d).blocks.any (fun q => reclaimable s d q.1 && decide (staleBytes s d b < staleBytes s d q.1)) then .next s
  else .next (afterMedium (relocate d b s))

/-- Good blocks by their count: the lowest and highest of a die (R266). -/
def goodPe (x : Die) : List Nat := (x.blocks.filter fun p => !p.2.bad).map (·.2.pe)
def peSpread (x : Die) : Nat :=
  let l := goodPe x
  l.foldl max 0 - (if (x.blocks.length) < 4096 then 0 else l.foldl min (l.headD 0))

/-- The coldest block with valid data, and the most-worn erased block, have these counts (R266). -/
def isColdest (s : State) (d b : Nat) : Bool :=
  let l := (validBlocks s d).filter fun k => !(blk (die s d) k).bad
  l.contains b && !(die s d).open_.contains b && !(blk (die s d) b).moving && l.all fun k => decide ((blk (die s d) b).pe ≤ (blk (die s d) k).pe)
def isMostWorn (s : State) (d b : Nat) : Bool :=
  let x := die s d
  blkErased x b && x.blocks.all fun q => !blkErased x q.1 || decide (q.2.pe ≤ (blk x b).pe)

/-- The units in block `cold` of a die lie in block `worn` from now on; the index takes the new location in one update (R298, R338). -/
def shiftBlock (d cold worn : Nat) (s : State) : State :=
  let here := (unitsOn s d).filter fun q => q.2.2.blocks.contains cold
  let pages := here.flatMap fun q => unitPages s q.1 q.2.2.member
  let old := blk (die s d) cold
  let s := here.foldl (fun s q => modUnit q.1 q.2.2.member (fun u =>
    { u with blocks := u.blocks.map fun b => if b == cold then worn else b }) s) s
  let s := modBlk d worn (fun y => { y with used := old.used, reads := 0, madeAt := s.health.lifeS.toNat, scrubAt := s.health.lifeS.toNat }) s
  announce pages.eraseDups (modBlk d cold (fun y => { y with moving := true }) s)

/-- STATIC_WEAR_LEVELLING: a spread above 250 moves the coldest block's data into the most-worn erased block (R266). -/
def execStaticWearLevelling (d cold worn : Nat) (s : State) : Res :=
  if !(dieOk d && blockOk cold && blockOk worn) then .fault .noSuchThing
  else if !dieIdle s d || programsHeld s || s.dev.roMode || peSpread (die s d) ≤ 250 || !isColdest s d cold || !isMostWorn s d worn then .next s
  else .next (afterMedium (shiftBlock d cold worn s))

end Sys2Proof.Machine
end

