-- ==== Sys2Proof/Machine/Companies.lean ====
section
/-!
DEFINITION. Company, reservation and model commands of 13_commands_store.md: COMPANY_CREATE, COMPANY_DESTROY, ADMIT,
RELEASE, MODEL_REGISTER and MODEL_RETIRE (R231, R232, R236, R237, R252, R597, R598, R600 to R603, R784, R786, R787).
-/
namespace Sys2Proof.Machine
open Sys2Proof

/-- The journal record of a company as it stands (R188). -/
def recordCompany (c : Nat) (s : State) : JKind := .companyPut c ((companyOf s c).getD Company.fresh) (agentsOf s c)

/-- The atomic region and the coherent window of a company read as zero (R686, R694). -/
def zeroRegions (c : Nat) (s : State) : State :=
  { s with atomics := s.atomics.filter fun p => !(decide (1024 * c ≤ p.1) && decide (p.1 < 1024 * (c + 1)))
           coherent := kdel s.coherent c
           snoops := s.snoops.filter fun l => l.company != c }

/-! COMPANY_CREATE. -/

def ownsQueue (s : State) (p : Nat → Queue → Bool) : Bool := s.queues.any fun x => x.1 != 0 && p x.1 x.2

/-- A named agent that may not be bound (R597, R714). -/
def agentTaken (s : State) (a : Nat) : Bool :=
  !agentExists s a || (agent s a).company != 0 || (agent s a).company == 0 && a == s.flash.actrl.toNat / 2 ^ 24 % 32
  || ownsQueue s fun _ q => q.agent == a

/-- A COMPANY_DESTROY of the company has run and is not complete (R595, R598, R614). -/
def destroying (s : State) (c : Nat) : Bool := s.taken.any fun u => u.opcode == 0x09 && u.company == c && u.running

/-- The checks of CompanyCreate, in their order (R583). -/
def companyCreateChecks (t : Taken) (s : State) : List Chk :=
  let c := t.company
  let named := (upto 32).filter fun a => bit (word t 1) a
  let lim := fld (word t 2) 15 0
  [
    (if lim != 0 then unitFailed s false else none),
    generalCheck t s,
    badFields (reservedBad t [0, bits 31 0, bits 15 0] ++
      bads [(c == 0, 10, 1), (c != 0 && (companyOf s c).isSome || destroying s c, 10, 2), (named.any (agentTaken s), 64, 3),
            (16384 < lim, 128, 4)]),
    opcodeCheck t s,
    (if !s.store.tenancy && 1 < s.store.companies.length then some (status 0x302) else none)]

/-- COMPANY_CREATE (R597, R720, R770, R775, R784). -/
def execCompanyCreate (r : CmdRef) (s : State) : Res :=
  runRow 0x08 r s fun t s =>
    let c := t.company
    let named := (upto 32).filter fun a => bit (word t 1) a
    let lim := fld (word t 2) 15 0
    checked t (companyCreateChecks t s) s fun s =>
      let salt := Config.salt s.free
      let co : Company := { Company.fresh with salt := salt, key := some s.free, connLimit := lim }
      let s := { s with free := s.free + 1 }
      let s := modStore (fun st => { st with companies := kset st.companies c co }) s
      let s := named.foldl (fun s a => modAgent a (fun g => { g with company := c }) s) s
      let s := zeroRegions c { s with lock := { s.lock with ruleViol := kdel s.lock.ruleViol c } }
      holdFor (recordCompany c s) t okay s

/-! COMPANY_DESTROY. -/

/-- A data unit of the company. -/
def ofCompanyData (c : Nat) (o : LoftObj) : Bool := (pageOf o).1 == c

/-- Nothing of the company is in flight to the Loft, on it, or on its way up any more (R268, R786). -/
def dropMedium (c : Nat) (s : State) : State :=
  let s := modLoft (fun l => { l with wbQueue := l.wbQueue.filter fun p => p.1 != c }) (dropItems (fun x => x.company == c) s)
  let s := dropCopies (fun g => g.company == c) (dropStale (dropData (fun o _ => ofCompanyData c o) s))
  pump (modWork (fun w => { w with
    transient := w.transient.filter (·.1 != c), working := w.working.filter (·.1 != c), records := w.records.filter (·.1 != c) }) s)

/-- Everything of a company ends; its scenes and weight sets leave without records of their own (R598, R786). -/
def destroyCompany (c : Nat) (s : State) : State :=
  let s := dropMedium c s
  let sole := !s.store.tenancy
  let mine := (s.store.models.filter fun p => p.2.company == c).map (·.1)
  { s with
    store := { s.store with
      companies := kdel s.store.companies c
      models := s.store.models.filter fun p => !mine.contains p.1
      streams := s.store.streams.filter fun p => p.2.company != c
      scenes := s.store.scenes.filter fun x => x.company != c
      weights := s.store.weights.filter fun w => w.company != c
      scratch := s.store.scratch.filter fun p => p.2.company != c
      maps := s.store.maps.filter fun m => m.company != c
      tables := s.store.tables.filter fun p => p.2.company != c
      lingering := s.store.lingering.filter fun g => g.company != c }
    conns := s.conns.filter fun p => p.2.company != c
    agents := (agentsOf s c).foldl (fun m a => kmodD m a (Agent.shipped a) fun g => { g with company := 0 }) s.agents
    ulb := s.ulb.map fun p => (p.1, p.2.filter fun e => e.company != c)
    flash := { s.flash with prestage := kdel s.flash.prestage c }
    clusters := kmap s.clusters fun _ x =>
      if sole || x.company == c then { x with work := [], imem := [], imageLen := 0 } else x }

/-- The checks of CompanyDestroy, in their order (R583). -/
def companyDestroyChecks (t : Taken) (s : State) : List Chk :=
  let c := t.company
  [generalCheck t s,
    badFields (reservedBad t [0] ++ bads [(c == 0 || (companyOf s c).isNone, 10, 0)]),
    opcodeCheck t s,
    (if ownsQueue s fun _ q => q.company == c then some (status 0x303) else none)]

/-- COMPANY_DESTROY (R595, R598, R614, R763, R786): it waits for the admin commands of the company taken in before it,
which a step of the row with none left then follows. -/
def execCompanyDestroy (r : CmdRef) (s : State) : Res :=
  runRow 0x09 r s fun t s =>
    let c := t.company
    checked t (companyDestroyChecks t s) s fun s =>
      if s.taken.any fun u => decide (u.seq < t.seq) && u.company == c && u.queue == 0 then
        modCompany c (fun k => { k with dying := true }) s
      else
        holdFor (.companyDestroy c) t okay (zeroRegions c (destroyCompany c s))

/-! ADMIT and RELEASE. -/

/-- Lower what a company holds in a tier to at most n bytes by R232's steps; none when that cannot be. -/
def shrinkTo (t : Tier) (c n : Nat) (s : State) : Option State :=
  makeRoomBy t c [] true (fun s => decide (held s t c ≤ n)) s

def shrinkAll (c st wi lo : Nat) (s : State) : Option State :=
  ((shrinkTo .stage c st s).bind (shrinkTo .wings c wi)).bind (shrinkTo .loft c lo)

def heldAll (s : State) (c : Nat) : Nat := stageHeld s c + wingsHeld s c + loftHeld s c

def twoMiB : Nat := 2097152

/-- The checks of Admit, in their order (R583). -/
def admitChecks (t : Taken) (s : State) : List Chk :=
  let c := t.company
  let st := (word t 1).toNat
  let wi := (word t 2).toNat
  let lo := (word t 3).toNat
  let un := (word t 4).toNat
  let n := low (word t 5)
  let split := bit (word t 6) 0
  let k := (companyOf s c).getD Company.fresh
  let excess := fun (x : Tier) (v : Nat) => decide (admittable x < sumReserved s x - reserved s x c + v)
  [generalCheck t s,
    badFields (reservedBad t [0, bits 63 0, bits 63 0, bits 63 0, bits 63 0, bits 31 0, bits 0 0] ++
      bads [(c == 0 || (companyOf s c).isNone, 10, 0), (st % twoMiB != 0, 64, 0), (wi % twoMiB != 0, 128, 0),
            (lo % twoMiB != 0, 192, 0),
            (un % twoMiB != 0 || (if split then un != 0 else decide (2 ^ 46 < un)), 256, 0),
            (split != k.split && s.store.maps.any fun m => m.company == c, 384, 0)]),
    opcodeCheck t s,
    (if excess .stage st || excess .wings wi || excess .loft lo || streamLimit < sumStreams s - k.streamRes + n
      then some (status 0x302) else none),
    (if n < openStreams s c || (shrinkAll c st wi lo s).isNone then some (status 0x303) else none)]

/-- ADMIT (R216, R231, R236, R252, R600). -/
def execAdmit (r : CmdRef) (s : State) : Res :=
  runRow 0x10 r s fun t s =>
    let c := t.company
    let st := (word t 1).toNat
    let wi := (word t 2).toNat
    let lo := (word t 3).toNat
    let un := (word t 4).toNat
    let n := low (word t 5)
    let split := bit (word t 6) 0
    checked t (admitChecks t s) s fun s =>
      let before := heldAll s c
      inRoomMade t s (shrinkAll c st wi lo s) fun s =>
      let freed := before - heldAll s c
      let s := modCompany c (fun k => { k with stageRes := st, wingsRes := wi, loftRes := lo, unified := un,
                                               streamRes := n, split := split }) s
      holdFor (recordCompany c s) t (okWith (w64 freed) 0 0) s

/-- Scenes children first: the deepest first. -/
def deepestFirst (x y : Scene) : Bool := decide (y.depth < x.depth)

/-- Remove every scene of which p holds, children first (R189). -/
def removeAll (p : Scene → Bool) : Nat → State → State
  | 0, s => s
  | n + 1, s =>
    match pickFirst deepestFirst (s.store.scenes.filter p) with
    | none => s
    | some x => removeAll p n (removeScene x.company x.id s)

/-- The checks of Release, in their order (R583). -/
def releaseChecks (t : Taken) (s : State) : List Chk :=
  let c := t.company
  [generalCheck t s,
    badFields (reservedBad t [0] ++ bads [(c == 0 || (companyOf s c).isNone, 10, 0)]),
    opcodeCheck t s,
    (if openStreams s c != 0 || (ownsQueue s fun _ q => q.company == c) || (s.store.maps.any fun m => m.company == c)
        || ((ofCompany s c).any fun x => x.pins != 0) then some (status 0x303) else none)]

/-- RELEASE (R231, R237, R601). A scene whose write-back runs is removed once that is complete (R201). -/
def execRelease (r : CmdRef) (s : State) : Res :=
  runRow 0x11 r s fun t s =>
    let c := t.company
    checked t (releaseChecks t s) s fun s =>
      if (ofCompany s c).any fun x => inFlight s c x.id then s else
      let n := (ofCompany s c).length
      let s := removeAll (fun x => x.company == c) n s
      let s := (s.store.weights.filter fun w => w.company == c).foldl
        (fun s w => formRecord (.weightsRemove c w.name) none s) (dropMedium c s)
      let s := modStore (fun st => { st with weights := st.weights.filter fun w => w.company != c
                                             scratch := st.scratch.filter fun p => p.2.company != c }) s
      let s := modCompany c (fun k => { k with stageRes := 0, wingsRes := 0, loftRes := 0, streamRes := 0 }) s
      holdFor (recordCompany c s) t (okWith (w64 n) 0 0) s

/-! Models. -/

def headDims : List Nat := [64, 80, 96, 128, 192, 256]

/-- The checks of ModelRegister, in their order (R583). -/
def modelRegisterChecks (t : Taken) (s : State) : List Chk :=
  let c := t.company
  let fp := word t 1
  let w := word t 2
  let layers := fld w 7 0
  let heads := fld w 15 8
  let dim := fld w 31 16
  let kv := fld w 39 32
  let same := s.store.models.filter fun p => p.2.company == c && p.2.fingerprint == fp
  [generalCheck t s, badFields (reservedBad t [0, bits 63 0, bits 39 0]),
    (if c == 0 || (companyOf s c).isNone then some (badAt 10 6) else none),
    (if layers == 0 || 160 < layers then some (badAt 128 1) else none),
    (if heads == 0 || 64 < heads then some (badAt 136 2) else none),
    (if !headDims.contains dim then some (badAt 144 3) else none),
    (if 5 < kv then some (badAt 160 4) else none),
    (if fp == 0 || (same.any fun p => !p.2.retiring) then some (badAt 64 5) else none),
    opcodeCheck t s,
    (if 64 ≤ s.store.models.length then some (status 0x302) else none),
    (if same.any (·.2.retiring) then some (status 0x303) else none)]

/-- MODEL_REGISTER (R155, R192, R602). -/
def execModelRegister (r : CmdRef) (s : State) : Res :=
  runRow 0x18 r s fun t s =>
    let c := t.company
    let fp := word t 1
    let w := word t 2
    let layers := fld w 7 0
    let heads := fld w 15 8
    let dim := fld w 31 16
    let kv := fld w 39 32
    checked t (modelRegisterChecks t s) s fun s =>
      let k := (kfree s.store.models 64).getD 0
      let m : Model := { fingerprint := fp, layers := layers, heads := heads, dim := dim, kvType := kv, company := c,
                         retiring := false }
      let s := modStore (fun st => { st with models := kset st.models k m }) s
      holdFor (.modelPut k (some m)) t (okWith (w64 k) 0 0) s

/-- Nothing holds a retirement up: no command taken in earlier reads a scene of the model or has a list yet to be read, no write-back of
one runs. -/
def retireReady (s : State) (t : Taken) (k : Nat) : Bool :=
  let ids := (s.store.scenes.filter fun x => x.model == k).map (·.id)
  !(s.taken.any fun u => decide (u.seq < t.seq) && u.company == t.company
      && ((listOps.contains u.opcode && !u.fetched) || u.reads.any fun i => ids.contains i))
  && !(s.store.scenes.any fun x => x.model == k && inFlight s x.company x.id)

/-- Pins and placements of the model's scenes end, the scenes leave, its tables are unloaded; its number is free once the record is
complete (R603, R186). -/
def retireModel (t : Taken) (k : Nat) (s : State) : State :=
  let fp := (modelD s k).fingerprint.toNat
  let s := modStore (fun st => { st with scenes := st.scenes.map fun x =>
    if x.model == k then { x with pins := 0, placed := none } else x }) s
  let s := removeAll (fun x => x.model == k) s.store.scenes.length s
  let s := modStore (fun st => { st with
    tables := st.tables.filter fun p => !(p.2.company == t.company && leAt p.2.bytes 24 8 == fp) }) s
  holdFor (.modelPut k none) t okay
    (modWork (fun w => { w with drains := kdel w.drains t.seq }) s)

/-- The checks of MODEL_RETIRE, in their order (R583). -/
def modelRetireChecks (t : Taken) (s : State) : List Chk :=
  let k := fld (word t 0) 53 48
  let m := modelOf s k
  [generalCheck t s,
    badFields (reservedBad t [bits 53 48] ++
      bads [((m.filter fun m => m.company == t.company).isNone, 48, 1),
            (m.any fun m => m.company == t.company && m.retiring, 48, 2)]),
    opcodeCheck t s,
    (if s.store.streams.any fun p => p.2.model == k then some (status 0x303) else none)]

/-- MODEL_RETIRE (R603, R615): at intake the model is retiring; the scenes leave once the earlier readers have ended,
at the row's next step if they have not yet. -/
def execModelRetire (r : CmdRef) (s : State) : Res :=
  match findRun 0x19 r s with
  | some t =>
    let k := fld (word t 0) 53 48
    .next (checked t (modelRetireChecks t s) s fun s =>
      let s := modStore (fun st => { st with models := kmod st.models k fun m => { m with retiring := true } }) s
      if retireReady s t k then retireModel t k s
      else modWork (fun w => { w with drains := kset w.drains t.seq okay }) (setRunning t.seq s))
  | none =>
    match findRunning 0x19 r s with
    | some t =>
      let k := fld (word t 0) 53 48
      .next (if khas s.work.drains t.seq && retireReady s t k then retireModel t k s else s)
    | none => .next s

end Sys2Proof.Machine
end

