-- ==== Sys2Proof/Machine/CxlView.lean ====
section
/-!
DEFINITION. What a device physical address shows to a company's agents and peers (R210 to R215, R680 to R682), and the
DevLoad and answers of CXL.mem (R701).
-/
namespace Sys2Proof.Machine
open Sys2Proof

/-! DevLoad and answers. -/

/-- Agents of a port under the maps in effect. -/
def portAgents (s : State) (k : Nat) : List Nat := (upto 32).filter fun a => agentValid s a && agentPort s a == k

/-- CXL.mem requests of a port that have no answer yet, reads and writes (R701). -/
def readsWaiting (s : State) (k : Nat) : Nat :=
  let mine := portAgents s k
  (s.work.loads.filter fun x => !x.answered && x.sh.isNone && mine.contains x.agent).length
  + (s.snoopWaits.filter fun w => w.sh.isNone && w.data.isNone && mine.contains w.agent).length
def writesWaiting (s : State) (k : Nat) : Nat :=
  let mine := portAgents s k
  (s.snoopWaits.filter fun w => w.sh.isNone && w.data.isSome && mine.contains w.agent).length
def portLoad (s : State) (k : Nat) : Nat := readsWaiting s k + writesWaiting s k

def requestQueue : Nat := 1024

/-- The port's queue has an entry for one more read, or write: of the two classes that it carries each has one entry of its own (R135, R701;
notes/assumptions/118.md). -/
def queueTakes (s : State) (k : Nat) (write : Bool) : Bool :=
  let r := readsWaiting s k + b2n (!write)
  let w := writesWaiting s k + b2n write
  decide ((r - 1) + (w - 1) ≤ requestQueue - 2)

/-- DevLoad of a response to an agent: 0 light, 1 optimal, 2 moderate, 3 severe (R701). -/
def devLoad (a : Nat) (s : State) : Nat :=
  if s.store.bandwidth then
    let g := refill (now s) (agent s a)
    if !g.waiting.isEmpty || g.level == 0 then 3
    else if effBurst g ≤ 2 * g.level then 0 else if effBurst g ≤ 8 * g.level then 1 else 2
  else
    let n := portLoad s (agentPort s a) + 1
    if requestQueue ≤ n then 3 else if 4 * n < requestQueue then 0 else if 4 * n < 3 * requestQueue then 1 else 2

def answerData (a d : Nat) (b : List Byte) (s : State) : State := emit (.memData a d b (devLoad a s)) s
def answerPoison (a d : Nat) (s : State) : State := emit (.memPoison a d (devLoad a s)) s
def answerAck (a d : Nat) (s : State) : State := emit (.memAck a d (devLoad a s)) s

/-! What an address shows. -/

def coherentBase : Nat := 0x410000000000
def stageBase : Nat := 0x400000000000
def coherentSize : Nat := 0x4000000

/-- Offset in the coherent window (R680). -/
def coherentAt (d : Nat) : Option Nat :=
  if coherentBase ≤ d && d < coherentBase + coherentSize then some (d - coherentBase) else none

/-- The region of a company's layout that an address lies in: the Stage window or not, and the offset (R680). -/
def regionAt (s : State) (c d : Nat) : Option (Bool × Nat) :=
  if d < stageBase then (if d < windowSize s c false then some (false, d) else none)
  else if isSplit s c && decide (d - stageBase < windowSize s c true) then some (true, d - stageBase) else none

/-- What a line of a view shows. -/
inductive Seen where
  | page (id : SceneId) (l off : Nat)
  | tail (h l off : Nat)
  | weights (name off : Nat)
  | scratch (h off : Nat)
  /-- A scene that the stream does not hold yet (R214). -/
  | blank
  /-- The view's rounding to 2 MiB beyond the object: the spec states no content (notes/assumptions/2.md). -/
  | beyond

/-- Offset o of a view (R213, R214). -/
def seenAt (s : State) (c : Nat) (v : Viewed) (o : Nat) : Seen :=
  match v with
  | .scene id =>
    match findScene s c id with
    | none => .beyond
    | some x => let f := max 1 (footOf s x); if o / f < x.pages.length then .page id (o / f) (o % f) else .beyond
  | .stream h n =>
    match kget s.store.streams h with
    | none => .beyond
    | some t =>
      let md := modelD s t.model
      let f := max 1 (footprint md)
      let k := o / f / max 1 md.layers
      let l := o / f % max 1 md.layers
      if n ≤ k then .beyond
      else match t.chain[k]? with
        | some id => .page id l (o % f)
        | none => if k == t.chain.length && t.tailCount != 0 then .tail h l (o % f) else .blank
  | .weights name => if o < ((findWeights s c name).map weightBytes).getD 0 then .weights name o else .beyond
  | .scratch h => if o < ((kget s.store.scratch h).map (·.size)).getD 0 then .scratch h o else .beyond

/-- The mapping that an offset of a region lies in (R213, R215). -/
def mappingAt (s : State) (c : Nat) (stage : Bool) (o : Nat) : Option Mapping :=
  s.store.maps.find? fun m => m.company == c && m.stage == stage && m.offset ≤ o && decide (o < m.offset + m.size)

/-- A line whose content no rule states. -/
def freeLine (s : State) : List Byte × State :=
  ((upto 64).map (Config.freeByte s.free), { s with free := s.free + 1 })

def countUnmapped (s : State) : State := modPerf (fun p => { p with unmapped := satInc p.unmapped }) s

/-! Contents. -/

def windowOf (s : State) (c : Nat) : Memory := kgetD s.coherent c []
def weightsLine (w : Weights) (off : Nat) : List Byte := slice w.layers.flatten off 64

/-- The layer in which byte `off` of a weight set lies, and the byte within it. -/
def layerAt : List (List Byte) → Nat → Nat → Nat × Nat
  | [], k, off => (k, off)
  | x :: r, k, off => if off < x.length then (k, off) else layerAt r (k + 1) (off - x.length)

/-- What a line shows with its data at hand, from whichever tier holds it: none where a load gives poison (R207, R214, R215,
R250, R818). -/
def lineBytes (s : State) (c d : Nat) : Option (List Byte) :=
  match coherentAt d with
  | some o => some ((windowOf s c).reads (o / 64 * 64) 64)
  | none =>
    match regionAt s c d with
    | none => none
    | some (st, o) =>
      match mappingAt s c st o with
      | none => none
      | some m =>
        match seenAt s c m.what (o - m.offset) with
        | .page id l off => some (((findScene s c id).map fun x => slice (x.pages.getD l []) off 64).getD (slice [] 0 64))
        | .tail h l off =>
          match kget s.store.streams h with
          | none => none
          | some t => if t.tailPoison.contains (l, off / 64) then none else some (slice (t.tailPages.getD l []) off 64)
        | .weights name off => (findWeights s c name).map fun w => weightsLine w off
        | .scratch h off =>
          match kget s.store.scratch h with
          | none => none
          | some x => if x.poison.contains (off / 64) then none else some (x.mem.reads off 64)
        | .blank => some (slice [] 0 64)
        | .beyond => some ((upto 64).map (Config.freeByte s.free))

/-- The lines of n bytes from an address. -/
def linesOf (a n : Nat) : List Nat := (upto ((a + n - 1) / 64 + 1 - a / 64)).map fun i => (a / 64 + i) * 64

/-- n bytes from an address, none where one of its lines gives poison. -/
def rangeBytes (s : State) (c a n : Nat) : Option (List Byte) :=
  ((linesOf a n).mapM (lineBytes s c)).map fun l => slice l.flatten (a % 64) n

end Sys2Proof.Machine
end

