-- ==== Sys2Proof/Machine/Inbound.lean ====
section
/-!
DEFINITION. How inbound Stagehand messages go on once their bytes are placed or at hand (R729, R733, R740): the steps that
follow a WRITE packet whose payload is visible, and a read whose lines can all be read.
-/
namespace Sys2Proof.Machine
open Sys2Proof

/-! Messages being received. -/

def inMsg (x : Conn) (id opcode : Nat) : Option InMsg := x.inMsgs.find? fun m => m.msgId == id && m.opcode == opcode

def setInMsg (k : Nat) (m : InMsg) (s : State) : State :=
  modConn k (fun x => { x with inMsgs := (x.inMsgs.filter fun y => !(y.msgId == m.msgId && y.opcode == m.opcode)) ++ [m] }) s

def dropInMsg (k id opcode : Nat) (s : State) : State :=
  modConn k (fun x => { x with inMsgs := x.inMsgs.filter fun y => !(y.msgId == id && y.opcode == opcode) }) s

/-- Bytes from `at_` on that stretches cover without a gap. -/
def coveredTo : Nat → List (Nat × Nat) → Nat → Nat
  | 0, _, e => e
  | n + 1, l, e =>
    let m := l.foldl (fun m p => if p.1 ≤ e then max m (p.1 + p.2) else m) e
    if m == e then e else coveredTo n l m

/-- Every byte of the message has arrived (R729). -/
def allArrived (m : InMsg) : Bool := decide (m.length ≤ coveredTo m.spans.length m.spans 0)

/-- Message byte counts of a packet: the message with this packet's stretch. -/
def withSpan (m : InMsg) (p : ShPacket) : InMsg :=
  { m with spans := m.spans ++ [(p.offset.toNat, p.payload.length)], notify := m.notify || bit p.flags 0 }

/-- The arrive counter of a connection counts a notified WRITE message (R729). -/
def notifyArrival (k : Nat) (s : State) : State :=
  match conn s k with
  | none => s
  | some x =>
    if !x.entry.arrive then s else
    let woff := 8192 * x.company + 8 * x.entry.counter
    setCounter woff (counterAt s woff + 1) s

/-- A WRITE packet's payload is visible: the message counts it, and completes when all its bytes have arrived
(R728, R729, R733). -/
def writeVisible (k : Nat) (p : ShPacket) (s : State) : State :=
  match (conn s k).bind fun x => inMsg x p.msgId.toNat 1 with
  | none => received k p.psn false s
  | some m =>
    let m := withSpan m p
    if allArrived m then
      let s := dropInMsg k m.msgId 1 s
      received k p.psn true (if m.notify && !m.ended then notifyArrival k s else s)
    else received k p.psn false (setInMsg k m s)

/-! Reads being gathered. -/

def shReadKey (id : Nat) : Nat := 2 ^ 32 + id

/-- Something that this operation waits for is still under way. -/
def shPending (s : State) (tag : Nat × Nat) : Bool :=
  s.snoopWaits.any (fun w => w.sh == some tag) || s.work.loads.any fun x => x.sh == some tag && !x.answered

/-- The bytes of a source range of a read: the company's layout, or its atomic region (R730). -/
def sourceBytes (s : State) (c remote n : Nat) : Option (List Byte) :=
  let a := remote % 2 ^ 62
  if remote / 2 ^ 62 == 0 then rangeBytes s c a n
  else
    let first := a / 8
    let words := (upto ((a + n - 1) / 8 + 1 - first)).flatMap fun i => leBytes 8 (counterAt s (8 * (first + i))).toNat
    some (slice words (a % 8) n)

/-- A read whose lines are at hand is answered by READ_RESP, one that met poison by NAK code 2 (R732, R740). -/
def readReady (k : Nat) (r : InRead) (s : State) : State :=
  match conn s k with
  | none => s
  | some x =>
    let s := modConn k (fun x => { x with inReads := x.inReads.filter fun y => y.msgId != r.msgId }) s
    let got := if r.failed then none else sourceBytes s x.company r.remote r.length
    match got with
    | some b => queueMessage k r.msgId (response 3 r.land r.length b) { s with free := s.free + 1 }
    | none => queueMessage k r.msgId (response 7 0 8 ([2, 0, 0, 0] ++ leBytes 4 r.psn.toNat)) s

/-- Go on with an inbound operation when the last thing it waited for has ended. -/
def shContinue (tag : Option (Nat × Nat)) (s : State) : State :=
  match tag with
  | none => s
  | some (k, n) =>
    if shPending s (k, n) then s else
    match conn s k with
    | none => s
    | some x =>
      if n < 2 ^ 32 then
        match x.held.find? fun p => p.psn.toNat == n with
        | none => s
        | some p => writeVisible k p (modConn k (fun x => { x with held := x.held.filter fun q => q.psn != p.psn }) s)
      else
        match x.inReads.find? fun r => shReadKey r.msgId == n with
        | none => s
        | some r => readReady k r s

/-- A line or page that an inbound read needs gave poison (R732). -/
def shPoison (tag : Option (Nat × Nat)) (s : State) : State :=
  match tag with
  | none => s
  | some (k, n) =>
    let fail : InRead → InRead := fun r => if shReadKey r.msgId == n then { r with failed := true } else r
    modConn k (fun x => { x with inReads := x.inReads.map fail }) s

end Sys2Proof.Machine
end

