-- ==== Sys2Proof/Machine/CxlMem.lean ====
section
/-!
DEFINITION. CXL.mem: reads and writes of device physical addresses (R172, R205, R219, R238 to R241, R681, R707, R774),
Loft-backed loads, the coherent window with its snoop filter (R686 to R689) and the token buckets (R699, R700). An inbound
Stagehand operation is served by the same steps and has no CXL.mem answer (R731).
-/
namespace Sys2Proof.Machine
open Sys2Proof

/-- Who a request is for: an agent's CXL.mem request has an answer, an inbound Stagehand operation has none. -/
abbrev ShTag := Option (Nat × Nat)
def toAgent (sh : ShTag) (f : State → State) (s : State) : State := if sh.isSome then s else f s

/-- In service a FAILED cause completes CXL.mem reads with poison and drops CXL.mem writes, those that wait among them (R811; DEDUCED,
notes/assumptions/130.md). -/
def memDown (s : State) : Bool := s.dev.curUp && healthState s == 3

/-! Loads from the Loft. -/

/-- A load whose page has no copy above the Loft waits for the Loft read (R238, R240, R272, R274). -/
def startLoad (a c d : Nat) (what : PageRef) (off : Nat) (sh : ShTag) (arrival : Nat) (s : State) : State :=
  if sh.isSome && s.work.loads.any fun x => x.sh == sh && x.company == c && x.what == what then s else
  let dies := loadDies s c what
  let s := modPerf (fun p => { p with loftLoads := satInc p.loftLoads }) s
  let n := (s.work.loads.map (·.id)).foldl max 0 + 1
  let load : LoftLoad := { id := n, agent := a, company := c, dpa := d, what := what, offset := off, arrival := arrival,
                           dies := dies, answered := false, sh := sh }
  dies.foldl (fun s e => reachDie e s) (modWork (fun w => { w with loads := w.loads ++ [load] }) s)

/-- A load with no copy anywhere: poison, counted; the Loft counts are of UNIFIED loads (R238, R286). -/
def poisonMedia (a d : Nat) (sh : ShTag) (unified : Bool) (s : State) : State :=
  shPoison sh (toAgent sh (answerPoison a d) (modPerf (fun p =>
    let q := { p with poisonMedia := satInc p.poisonMedia }
    if unified then { q with loftLoads := satInc p.loftLoads, loftPoisoned := satInc p.loftPoisoned } else q) s))

/-- A line of a view with nothing behind it: poison, counted as unmapped (R215). -/
def poisonUnmapped (a d : Nat) (sh : ShTag) (s : State) : State :=
  shPoison sh (toAgent sh (answerPoison a d) (countUnmapped s))

/-- The window's own tier holds the page (R211). -/
def pageInTier (s : State) (c : Nat) (what : PageRef) (stage : Bool) : Bool :=
  match what with
  | .scene id l => ((findScene s c id).map fun x => (if stage then x.stage else x.wings).getD l false).getD false
  | .weights n l => ((findSet s n).map fun w => (if stage then w.stage else w.wings).getD l false).getD false

/-- Read 64 bytes of a page. In SPLIT visibility the address names the copy of its window alone, and the Loft is reachable only by command: a
page that has lost it reads as unmapped (R211, R215; notes/assumptions/101.md). In UNIFIED visibility the highest tier serves it, and at
last the Loft (R219, R238). -/
def readPage (a c d : Nat) (stage : Bool) (what : PageRef) (off : Nat) (b : List Byte) (sh : ShTag) (arrival : Nat) (s : State) : State :=
  if isSplit s c then
    if pageInTier s c what stage then toAgent sh (answerData a d b) s
    else if pageRetired s c what then poisonMedia a d sh false s
    else poisonUnmapped a d sh s
  else if pageAbove s c what then toAgent sh (answerData a d b) s
  else if pageRetired s c what || !pageInLoft s c what then poisonMedia a d sh true s
  else startLoad a c d what off sh arrival s

def readScene (a c d : Nat) (stage : Bool) (id : SceneId) (l off : Nat) (sh : ShTag) (arrival : Nat) (s : State) : State :=
  match findScene s c id with
  | none => toAgent sh (answerData a d (slice [] 0 64)) s
  | some x => readPage a c d stage (.scene id l) off (slice (x.pages.getD l []) off 64) sh arrival s

def readWeights (a c d : Nat) (stage : Bool) (name off : Nat) (sh : ShTag) (arrival : Nat) (s : State) : State :=
  match findWeights s c name with
  | none => poisonUnmapped a d sh s
  | some w =>
    let (l, o) := layerAt w.layers 0 off
    readPage a c d stage (.weights w.setNum l) o (weightsLine w off) sh arrival s

/-! The coherent window. -/

def snoopOf (s : State) (c line : Nat) : Option SnoopLine := s.snoops.find? fun x => x.company == c && x.line == line
def setSnoop (x : SnoopLine) (s : State) : State :=
  if s.snoops.any fun y => y.company == x.company && y.line == x.line then
    { s with snoops := s.snoops.map fun y => if y.company == x.company && y.line == x.line then x else y }
  else { s with snoops := s.snoops ++ [x] }
def dropSnoop (c line : Nat) (s : State) : State :=
  { s with snoops := s.snoops.filter fun y => !(y.company == c && y.line == line) }

def filterLines : Nat := 4194304

def writeLine (c line off : Nat) (b : List Byte) (s : State) : State :=
  { s with coherent := kset s.coherent c ((windowOf s c).writes (64 * line + off) b) }

/-- Snoop agents for a waiting request (R687). -/
def snoopFor (w : SnoopWait) (shared : Bool) (s : State) : State :=
  w.waitFor.foldl (fun s h => emit (.biSnoop h w.target.2 shared) s) { s with snoopWaits := s.snoopWaits ++ [w] }

/-- Grant a request of the coherent window (R686, R687, R811). A Stagehand write or read leaves the filter as it is. -/
def grant (w : SnoopWait) (s : State) : State :=
  let d := coherentBase + 64 * w.line
  if memDown s then
    if w.data.isSome then toAgent w.sh (answerAck w.agent d) s
    else shPoison w.sh (toAgent w.sh (answerPoison w.agent d) s)
  else match w.data with
  | some (off, b) => toAgent w.sh (answerAck w.agent d) (writeLine w.company w.line off b s)
  | none =>
    let held := ((snoopOf s w.company w.line).map (·.holders)).getD []
    let add := if held.contains w.agent then held else held ++ [w.agent]
    let s := match w.hold with
      | .uncached => s
      | .shared => setSnoop { company := w.company, line := w.line, holders := add, exclusive := false } s
      | .exclusive => setSnoop { company := w.company, line := w.line, holders := [w.agent], exclusive := true } s
    toAgent w.sh (answerData w.agent d ((windowOf s w.company).reads (64 * w.line) 64)) s

/-- Other holders that a request must snoop first (R687); a Stagehand operation acts for the charge agent, whose own host may
hold the line, so that host is snooped too. -/
def conflicts (s : State) (w : SnoopWait) : List Nat :=
  match snoopOf s w.company w.line with
  | none => []
  | some x =>
    let others := if w.sh.isSome then x.holders else x.holders.filter (· != w.agent)
    if w.data.isSome || w.hold == .exclusive || x.exclusive then others else []

/-- A read takes a line with it, for which the filter needs an entry (R687, R688). -/
def needsEntry (s : State) (w : SnoopWait) : Bool :=
  w.data.isNone && w.hold != .uncached && (snoopOf s w.company w.line).isNone && decide (filterLines ≤ s.snoops.length)

/-- A request of the coherent window: granted, or waiting on snoops; a full filter gives up its oldest line first
(R687, R688). -/
def coherentRequest (w : SnoopWait) (s : State) : State :=
  let need := conflicts s w
  if !need.isEmpty then
    snoopFor { w with target := (w.company, w.line), waitFor := need, since := now s } (w.data.isNone && w.hold != .exclusive) s
  else if needsEntry s w then
    match s.snoops.head? with
    | none => grant w s
    | some v =>
      if v.holders.isEmpty then grant w (dropSnoop v.company v.line s)
      else snoopFor { w with target := (v.company, v.line), waitFor := v.holders, since := now s } false s
  else grant w s

/-- A request for a line of a company's window. -/
def windowRequest (a c line : Nat) (data : Option (Nat × List Byte)) (hold : LineHold) (sh : ShTag) (arrival : Nat) :
    SnoopWait :=
  { agent := a, company := c, line := line, data := data, hold := hold, sh := sh, target := (c, line), waitFor := [],
    since := arrival, arrival := arrival }

/-- A holder has answered: it no longer holds up the requests that wait on the line, and those that wait for no one go
on (R687). -/
def answered (c line h : Nat) (s : State) : State :=
  let drop : SnoopWait → SnoopWait := fun w =>
    if w.target == (c, line) then { w with waitFor := w.waitFor.filter (· != h) } else w
  let ws := s.snoopWaits.map drop
  let s := { s with snoopWaits := ws.filter fun w => !w.waitFor.isEmpty }
  (ws.filter fun w => w.waitFor.isEmpty).foldl (fun s w => shContinue w.sh (coherentRequest w s)) s

/-- A holder gives up a line, or keeps it shared. -/
def release (c line h : Nat) (keepShared : Bool) (s : State) : State :=
  match snoopOf s c line with
  | none => s
  | some x =>
    let left := if keepShared then x.holders else x.holders.filter (· != h)
    if left.isEmpty then dropSnoop c line s
    else setSnoop { x with holders := left, exclusive := x.exclusive && !keepShared } s

def lineOk (line : Nat) : Bool := decide (line < 1048576)

/-- BIRSP: holder a answers the snoop of a line of its company's window; dirty data is written first (R687). -/
def execBirsp (a line : Nat) (dirty : Option (List Byte)) (s : State) : Res :=
  if 32 ≤ a || !lineOk line || dirty.any (·.length != 64) then .fault .noSuchThing else
  let c := (agent s a).company
  match s.snoopWaits.find? fun w => w.target == (c, line) && w.waitFor.contains a with
  | none => .next s
  | some w =>
    let s := match dirty with
      | some b => writeLine c line 0 b s
      | none => s
    let keep := w.target == (w.company, w.line) && w.data.isNone && w.hold != .exclusive
    .next (answered c line a (release c line a keep s))

def isLate (t bound : Nat) (s : State) : Bool := decide (t + bound ≤ now s)

/-- BI_SNOOP_TIMEOUT: no answer of holder a within 4 ms (R689). -/
def execBiSnoopTimeout (a line : Nat) (s : State) : Res :=
  if 32 ≤ a || !lineOk line then .fault .noSuchThing else
  let c := (agent s a).company
  let excess := fun (w : SnoopWait) => w.target == (c, line) && w.waitFor.contains a && isLate w.since 4000000 s
  if !s.snoopWaits.any excess then .next s else
  let hit := s.snoopWaits.filter excess
  let s := { s with snoopWaits := s.snoopWaits.filter fun w => !excess w }
  let s := hit.foldl (fun s w =>
    let d := coherentBase + 64 * w.line
    if w.data.isSome then toAgent w.sh (answerAck w.agent d) s
    else shPoison w.sh (toAgent w.sh (answerPoison w.agent d) s)) s
  let s := hit.foldl (fun s w => shContinue w.sh s) s
  let k := agentPort s a
  .next (postEvent 7 c (w64 (k * 256 + 1)) (w64 a) (modPort k (fun p => { p with perfBi := satInc p.perfBi }) s))

/-! Serving a request. -/

/-- Serve a read that has passed the port's checks (R214, R215, R219, R240, R246, R811, R818). -/
def serveRead (a c d : Nat) (hold : LineHold) (sh : ShTag) (arrival : Nat) (s : State) : State :=
  if memDown s then shPoison sh (toAgent sh (answerPoison a d) s) else
  match coherentAt d with
  | some o => coherentRequest (windowRequest a c (o / 64) none hold sh arrival) s
  | none =>
    match regionAt s c d with
    | none => poisonUnmapped a d sh s
    | some (st, o) =>
      match mappingAt s c st o with
      | none => poisonUnmapped a d sh s
      | some m =>
        match seenAt s c m.what (o - m.offset) with
        | .page id l off => readScene a c d st id l off sh arrival s
        | .weights name off => readWeights a c d st name off sh arrival s
        | .beyond => let (b, s) := freeLine s; toAgent sh (answerData a d b) s
        | .blank => toAgent sh (answerData a d (slice [] 0 64)) s
        | .tail _ _ _ | .scratch _ _ =>
          match lineBytes s c d with
          | some b => toAgent sh (answerData a d b) s
          | none => shPoison sh (toAgent sh (answerPoison a d) s)

/-- Write a tail page before its SEAL; a write of a whole 64-byte unit clears its poison (R205, R818). -/
def writeTail (h l off : Nat) (b : List Byte) (s : State) : State :=
  modStream h (fun t => { t with
    tailPages := modAt t.tailPages l fun pg => splice pg off b
    tailPoison := t.tailPoison.filter fun q =>
      !(q.1 == l && decide (off ≤ 64 * q.2) && decide (64 * q.2 + 64 ≤ off + b.length)) }) s

/-- A SEAL of the stream has been taken in, after which writes to its tail are discarded (R205). -/
def sealTaken (s : State) (c h : Nat) : Bool :=
  s.taken.any fun t => t.opcode == 0x2A && t.company == c && low (word t 1) == h

/-- Serve a write of bytes within one line that has passed the port's checks (R172, R205, R214, R215, R241, R687, R811). -/
def serveWrite (a c d : Nat) (b : List Byte) (sh : ShTag) (arrival : Nat) (s : State) : State :=
  let done := toAgent sh (answerAck a d)
  let sealed := fun (s : State) => modPerf2 (fun p => { p with sealedWrites := satInc p.sealedWrites }) s
  if memDown s then done s else
  match coherentAt d with
  | some o => coherentRequest (windowRequest a c (o / 64) (some (o % 64, b)) .uncached sh arrival) s
  | none =>
    match regionAt s c d with
    | none => done (countUnmapped s)
    | some (st, o) =>
      match mappingAt s c st o with
      | none => done (countUnmapped s)
      | some m =>
        match seenAt s c m.what (o - m.offset) with
        | .page _ _ _ => done (sealed s)
        | .weights _ _ => done (sealed s)
        | .tail h l off => done (if sealTaken s c h then sealed s else writeTail h l off b s)
        | .scratch h off => done (writeScratch h off b s)
        | .blank => done s
        | .beyond => done s

def serveHeld (i : Instr) (arrival : Nat) (s : State) : State :=
  match i with
  | .cxlMemRead a d h => serveRead a (agent s a).company d.toNat h none arrival s
  | .cxlMemWrite a d b _ => serveWrite a (agent s a).company d.toNat b none arrival s
  | _ => s

/-! The port's checks. -/

/-- A committed decoder of the agent's logical device covers the address (R681); otherwise no request reaches it. -/
def decoded (s : State) (a d : Nat) : Bool :=
  (port s (agentPort s a)).decoders.any fun p =>
    p.1 / 4 == agentLd s a && p.2.committed && p.2.dpa ≤ d && decide (d < p.2.dpa + p.2.size.toNat)

/-- The port serves no CXL.mem: an insecure stream, LOCK_IDE without a secure stream, or FAILED in service (R697, R792,
R811). -/
def memRefused (s : State) (a : Nat) : Bool :=
  !ioServed s a || memDown s

/-- Too early for CXL.mem: before the end of WINGS everything, and before curtain up a Stage window and Loft-backed
pages (R68, R72). -/
def tooEarly (s : State) (a d : Nat) : Bool :=
  if s.dev.curUp then false
  else if !(port s (agentPort s a)).memActive || s.dev.dawnPhase.toNat < 4 then true
  else
    let c := (agent s a).company
    match coherentAt d, regionAt s c d with
    | some _, _ => false
    | none, some (true, _) => true
    | none, some (false, o) =>
      match mappingAt s c false o with
      | none => false
      | some m =>
        match seenAt s c m.what (o - m.offset) with
        | .page id l _ => !pageAbove s c (.scene id l)
        | .weights name off =>
          !((findWeights s c name).map fun w => pageAbove s c (.weights w.setNum (layerAt w.layers 0 off).1)).getD true
        | _ => false
    | none, none => false

/-- Room in the agent's bucket for 64 bytes now, with nothing waiting before it (R699, R700). -/
def bucketHas (s : State) (a n : Nat) : Bool :=
  let g := refill (now s) (agent s a)
  g.waiting.isEmpty && decide (n ≤ g.level)

/-- Serve a request now, or hold it until the bucket has its bytes. -/
def throughBucket (a : Nat) (i : Instr) (s : State) : State :=
  if !s.store.bandwidth then serveHeld i (now s) s
  else if bucketHas s a 64 then
    serveHeld i (now s) (modAgent a (fun g => let g := refill (now s) g; { g with level := g.level - 64 }) s)
  else modAgent a (fun g =>
    let g := refill (now s) g
    { g with waiting := g.waiting ++ [(64, some (i, now s))] }) s

/-- Can a CXL.mem request reach the device: the agent is on a trained link, a decoder covers the line, and the port's
queue has an entry for it (R135, R677, R681, R701)? -/
def memReaches (s : State) (a d : Nat) (write : Bool) : Bool :=
  reachable s a && decoded s a d && (s.store.bandwidth || queueTakes s (agentPort s a) write)

def memOk (a d : Nat) : Bool := decide (a < 32) && d % 64 == 0

/-- CXL_MEM_READ of the 64-byte line at a device physical address. -/
def execCxlMemRead (a : Nat) (dpa : BitVec 64) (hold : LineHold) (s : State) : Res :=
  let d := dpa.toNat
  if !memOk a d then .fault .noSuchThing
  else if !memReaches s a d false then .next s
  else if memRefused s a then .next (answerPoison a d s)
  else if tooEarly s a d then
    .next (answerPoison a d (modPerf2 (fun p => { p with earlyReads := satInc p.earlyReads }) s))
  else if (rangeRefused s (agent s a).company 2 0 1 a d 64).isSome then
    .next (answerPoison a d (countPortRefusal (agent s a).company s))
  else .next (throughBucket a (.cxlMemRead a dpa hold) s)

/-- CXL_MEM_WRITE of a 64-byte line (R72, R697, R707, R774, R792). -/
def execCxlMemWrite (a : Nat) (dpa : BitVec 64) (data : List Byte) (poison : Bool) (s : State) : Res :=
  let d := dpa.toNat
  if !memOk a d || data.length != 64 then .fault .noSuchThing
  else if !memReaches s a d true then .next s
  else if memRefused s a then .next (answerAck a d s)
  else if tooEarly s a d then
    .next (answerAck a d (modPerf2 (fun p => { p with earlyWrites := satInc p.earlyWrites }) s))
  else if (rangeRefused s (agent s a).company 2 0 2 a d 64).isSome then
    .next (answerAck a d (countPortRefusal (agent s a).company s))
  else if poison then
    .next (answerAck a d (modPort (agentPort s a) (fun p =>
      { p with perfPoison := satInc p.perfPoison, headerLog := some (a, d) }) s))
  else .next (throughBucket a (.cxlMemWrite a dpa data poison) s)

/-- TOKEN_BUCKET_RELEASE: the oldest waiting transfer of an agent whose bucket holds its bytes, or whose mode is FREE
again (R700, R702). -/
def execTokenBucketRelease (a : Nat) (s : State) : Res :=
  if 32 ≤ a then .fault .noSuchThing else
  let g := refill (now s) (agent s a)
  match g.waiting with
  | [] => .next s
  | (n, held) :: r =>
    if s.store.bandwidth && decide (g.level < n) then .next s else
    let s := modAgent a (fun _ => { g with waiting := r, level := if s.store.bandwidth then g.level - n else g.level }) s
    match held with
    | none => .next s
    | some (i, arrival) => .next (serveHeld i arrival s)

/-! Loads that wait on the Loft. -/

def findLoad (s : State) (id : Nat) : Option LoftLoad := s.work.loads.find? (·.id == id)
def dropLoad (id : Nat) (s : State) : State := modWork (fun w => { w with loads := w.loads.filter (·.id != id) }) s

/-- The 1 ms bound of R238. -/
def loadBound : Nat := 1000000

/-- Answer a load with poison at its bound. -/
def poisonLate (x : LoftLoad) (s : State) : State :=
  shPoison x.sh (toAgent x.sh (answerPoison x.agent x.dpa) (modPerf (fun p => { p with
    loftPoisoned := satInc p.loftPoisoned, poisonLate := satInc p.poisonLate }) s))

/-- The page of a fetch lands in Wings, where steps 1 and 2 of R232 find room, as a device-made copy; otherwise it passes through a transient
buffer and no copy stays (R234, R240, R247). -/
def installPage (x : LoftLoad) (o : ReadOutcome) (s : State) : State :=
  if refBytes s x.company x.what == 0 || pageAbove s x.company x.what then s else
  let g : PageCopy := { company := x.company, what := x.what, stage := false, waiters := [], issued := true, dies := [],
                        ended := some o, held := false, background := true, onward := false, allocated := false }
  resume (landCopy g (modWork (fun w => { w with staging := w.staging ++ [g] }) s))

/-- The bytes that a load reads. -/
def loadBytes (s : State) (x : LoftLoad) : List Byte := slice (refData s x.company x.what) x.offset 64

/-- UNIFIED_LOFT_FILL: the fetch of load `id` ends (R811, R238, R240, R265, R272, R274, R286, R289). -/
def execUnifiedLoftFill (id : Nat) (o : ReadOutcome) (s : State) : Res :=
  match findLoad s id with
  | none => .next s
  | some x =>
    if !x.dies.all (canRead s) || !loadCanEnd s x.company x.what x.dies o then .next s else
    let s := (unitsOfPage s x.company x.what).foldl (fun s u => countReads u s) s
    let s := x.dies.foldl (fun s d => leaveDie d s) (dropLoad id s)
    if o == .failed then
      let s := if x.answered then s else
        shPoison x.sh (toAgent x.sh (answerPoison x.agent x.dpa) (modPerf (fun p => { p with
          loftPoisoned := satInc p.loftPoisoned, poisonMedia := satInc p.poisonMedia }) s))
      .next (shContinue x.sh (afterMedium (losePage x.company x.what s)))
    else
      let s := if x.answered then s
        else if isLate (x.arrival + 1) loadBound s then poisonLate x s
        else if memDown s then
          shPoison x.sh (toAgent x.sh (answerPoison x.agent x.dpa) (modPerf (fun p => { p with loftPoisoned := satInc p.loftPoisoned }) s))
        else toAgent x.sh (answerData x.agent x.dpa (loadBytes s x)) s
      .next (shContinue x.sh (installPage x o s))

/-- UNIFIED_LOAD_TIMEOUT: 1 ms from its arrival a load completes with poison; its fetch goes on (R238). -/
def execUnifiedLoadTimeout (id : Nat) (s : State) : Res :=
  match findLoad s id with
  | none => .next s
  | some x =>
    if x.answered || !isLate x.arrival loadBound s then .next s else
    let mark : LoftLoad → LoftLoad := fun y => if y.id == id then { y with answered := true } else y
    .next (shContinue x.sh (poisonLate x (modWork (fun w => { w with loads := w.loads.map mark }) s)))

end Sys2Proof.Machine
end

