-- ==== Sys2Proof/Machine/CxlPort.lean ====
section
/-!
DEFINITION. The host ports as links and PCIe devices (15_cxl_ports.md): resets (R575, R676, R678, R704, R705, R710),
training (R673, R711), configuration space and HDM decoders (R68, R674, R681), the atomic window (R690 to R693), IDE
failures (R697), PTM (R306, R307), and the DOE discovery and CDAT answers (R684, R695).
-/
namespace Sys2Proof.Machine
open Sys2Proof

def portOk (k : Nat) : Bool := decide (k < 8)

/-! Port reset. -/

/-- A command whose queue is gone carries this queue number: its completion is discarded (R575). -/
def noQueue : Nat := 4096

/-- End a queue at a reset of its agent's port: its commands end with ABORTED_RESET, their completions go nowhere, and the
queue is deleted; commands that no flush ends run on (R562, R575), except those that still need data of the host (R706). -/
def resetQueue (y : Nat) (s : State) : State :=
  let s := modPerf2 (fun p => { p with flushes := satInc p.flushes }) (removeQueue y s)
  let s := (abortAll 0x602 (fun t => t.queue == y) s).1
  let s := (s.taken.filter fun t => t.queue == y && !t.fetched).foldl (fun s t => finishCore t (status 0x602) s) s
  { s with taken := s.taken.map fun t => if t.queue == y then { t with queue := noQueue, dispatched := true } else t }

/-- The admin queue is flushed in the same way and restarts once the link is up again (R575). -/
def resetAdmin (s : State) : State :=
  match queue s 0 with
  | none => s
  | some q =>
    let s := resetQueue 0 s
    { s with queues := kset s.queues 0 { q with head := q.sqTail, needs := 1, spill := [], wait := none } }

/-- Snoop-filter holder bits of agents are cleared; what they held exclusive is not defined (R704, R705, R710). -/
def dropHolder (a : Nat) (s : State) : State :=
  let mine := s.snoops.filter fun x => x.holders.contains a
  mine.foldl (fun s x =>
    let s := if x.exclusive then
        let (b, s) := freeLine s
        writeLine x.company x.line 0 b s
      else s
    answered x.company x.line a (release x.company x.line a false s)) s

/-- CXL.mem requests of agents go unanswered; their Loft fetches go on (R704). -/
def dropRequests (mine : List Nat) (s : State) : State :=
  let mark : LoftLoad → LoftLoad := fun x =>
    if mine.contains x.agent && x.sh.isNone then { x with answered := true } else x
  let s := modWork (fun w => { w with loads := w.loads.map mark }) s
  let s := { s with snoopWaits := s.snoopWaits.filter fun w => w.sh.isSome || !mine.contains w.agent }
  mine.foldl (fun s a => modAgent a (fun g => { g with waiting := g.waiting.filter fun p => p.2.isNone }) s) s

/-- The port's own registers at its reset: the written configuration takes effect, decoders, IDE streams and PTM state are
cleared (R307, R676, R704, R713, R791). -/
def portCleared (t : Nat) (p : Port) : Port :=
  { p with
    actLd := p.cfgLd, actSkid := p.cfgSkid, actMld := p.cfgMld, linkUp := false, speed := 0, width := 0
    ideIo := IdeStream.off, ideMem := IdeStream.off, memInfo := false, resetEnd := t, ptmEnable := false
    ptmValid := false, decoders := [], busMaster := 0, msixOn := 0, msixMask := 0, msix := [] }

/-- An agent map whose last awaited port has been reset takes effect (R678). -/
def mapReset (k : Nat) (g : Agent) : Agent :=
  if !g.waitPorts.contains k then g else
  let left := g.waitPorts.filter (· != k)
  { g with waitPorts := left, eff := if left.isEmpty then g.map else g.eff }

/-- SPDM sessions and negotiations on a port's DOE mailboxes end (R788, R803). -/
def endDoe (k : Nat) (s : State) : State :=
  let on : Endpoint → Bool := fun e => match e with
    | .doe p _ => p == k
    | .mctp => false
  { s with sessions := s.sessions.filter fun x => !on x.ep, spdm := s.spdm.filter fun x => !on x.1 }

/-- CXL_PORT_RESET: PERST#, a hot reset or a surprise link down (R346, R575, R676, R678, R704, R705). -/
def execCxlPortReset (k : Nat) (s : State) : Res :=
  if !portOk k then .fault .noSuchThing
  else if !bit s.pwr.on 5 then .next s
  else
    let mine := portAgents s k
    let queues := (s.queues.filter fun p => p.1 != 0 && mine.contains p.2.agent).map (·.1)
    let admin := (queue s 0).any fun q => mine.contains q.agent
    let s := modPort k (portCleared (now s)) (dropRequests mine s)
    let s := queues.foldl (fun s y => resetQueue y s) s
    let s := if admin then resetAdmin s else s
    let s := resetStreams (fun o => !o.stagehand && mine.contains o.target)
      (resetCues (fun d => !d.stagehand && mine.contains d.agent) s)
    let s := mine.foldl (fun s a => dropHolder a s) s
    .next (settle (endDoe k { s with agents := kmap s.agents fun _ g => mapReset k g }))

/-! Training. -/

/-- Speeds and widths at which a link trains (R673). -/
def trainable (speed width : Nat) : Bool := (speed == 5 || speed == 6) && (width == 4 || width == 8)

def setLink (k speed width : Nat) (s : State) : State :=
  modPort k (fun p => { p with linkUp := true, speed := BitVec.ofNat 3 speed, width := BitVec.ofNat 4 width }) s

/-- CXL_LINK_UP (R68, R673); the admin queue of an agent of the port restarts (R575). -/
def execCxlLinkUp (k speed width : Nat) (s : State) : Res :=
  if !portOk k then .fault .noSuchThing
  else if !bit s.pwr.on 5 || (port s k).linkUp || !trainable speed width then .next s
  else
    let s := setLink k speed width s
    .next (if (queue s 0).any fun q => agentPort s q.agent == k then restartAdmin s else s)

/-- LINK_RETRAIN: only speed and width change (R711). -/
def execLinkRetrain (k speed width : Nat) (s : State) : Res :=
  if !portOk k then .fault .noSuchThing
  else if !(port s k).linkUp || !trainable speed width then .next s
  else .next (setLink k speed width s)

/-! Configuration space. -/

/-- FUSE has ended (R68). -/
def fuseDone (s : State) : Bool := decide (2 ≤ s.dev.dawnPhase.toNat) || (s.dev.dawnPhase == 1 && s.dev.stopped)

/-- Places of the registers in configuration space, by byte offset: the type 0 header is that of PCIe, those of the MSI-X
capability, the PTM control register and the CXL DVSEC range 1 size low register are the model's (notes/assumptions/30.md). -/
def cfgId : Nat := 0x000
def cfgCommand : Nat := 0x004
def cfgClass : Nat := 0x008
def cfgMsix : Nat := 0x0B0
def cfgPtmControl : Nat := 0x108
def cfgRangeLow : Nat := 0x21C

/-- A register with some bits given and the others open (notes/assumptions/2.md). -/
def withOpen (v mask : Word32) (s : State) : Word32 × State :=
  let (f, s) := takeFree s
  ((v &&& mask) ||| (f.truncate 32 &&& ~~~mask), s)

/-- Memory_Active_Timeout, 010b for 16 s, at its place in the CXL DVSEC range 1 size low register (R71; PRESUMED, notes/assumptions/30.md). -/
def memTimeout : Nat := 2 * 2 ^ 13

/-- The value a configuration read returns (R70, R71, R306, R674). -/
def configValue (k ld reg : Nat) (s : State) : Word32 × State :=
  let p := port s k
  if reg == cfgId then (0x01601F3A, s)
  else if reg == cfgCommand then withOpen (w32 (b2n (bit p.busMaster ld) * 4)) 4 s
  else if reg == cfgClass then withOpen 0x05800000 0xFFFFFF00 s
  else if reg == cfgMsix then
    withOpen (w32 (0x11 + 2047 * 2 ^ 16 + b2n (bit p.msixMask ld) * 2 ^ 30 + b2n (bit p.msixOn ld) * 2 ^ 31)) 0xFFFF00FF s
  else if reg == cfgMsix + 4 then (w32 (msixTable + 2), s)
  else if reg == cfgMsix + 8 then (w32 (msixPending + 2), s)
  else if reg == cfgPtmControl then withOpen (w32 (b2n p.ptmEnable)) 1 s
  else if reg == cfgRangeLow then withOpen (w32 (memTimeout + b2n p.memActive * 2 + b2n p.memInfo)) 0xE003 s
  else withOpen 0 0 s

/-- A field of four bits, one for each logical device, with that of ld replaced. -/
def putLd (old : BitVec 4) (ld : Nat) (b : Bool) : BitVec 4 :=
  (old &&& ~~~(BitVec.ofNat 4 (2 ^ ld))) ||| BitVec.ofNat 4 (b2n b * 2 ^ ld)

/-- A configuration write: bus master enable, MSI-X enable and function mask of the logical device, PTM Enable of the port (R73, R306,
R568). -/
def configWrite (k ld reg : Nat) (v : Word32) (s : State) : State :=
  if reg == cfgCommand then
    modPort k (fun p => { p with busMaster := putLd p.busMaster ld (bit v 2) }) s
  else if reg == cfgMsix then
    sendPending k ld (modPort k (fun p => { p with
      msixOn := putLd p.msixOn ld (bit v 31), msixMask := putLd p.msixMask ld (bit v 30) }) s)
  else if reg == cfgPtmControl then modPort k (fun p => { p with ptmEnable := bit v 0 }) s
  else s

/-- CONFIG_REQUEST to a logical device that the port presents (R68, R674, R677, R712). -/
def execConfigRequest (k ld reg : Nat) (write : Option Word32) (s : State) : Res :=
  if !portOk k || 4 ≤ ld || 4096 ≤ reg || reg % 4 != 0 then .fault .noSuchThing
  else if !(port s k).linkUp || ldCount (port s k) ≤ ld then .next s
  else if !fuseDone s then .next (emit (.configRetry k ld) s)
  else match write with
    | some v => .next (configWrite k ld reg v s)
    | none =>
      let (v, s) := configValue k ld reg s
      .next (emit (.configData k ld reg v) s)

/-- MEMORY_INFO_VALID: after FUSE, and 10 ms after the port's last reset (R70). -/
def execMemoryInfoValid (k : Nat) (s : State) : Res :=
  if !portOk k then .fault .noSuchThing
  else if (port s k).memInfo || !fuseDone s || !isLate (port s k).resetEnd 10000000 s then .next s
  else .next (modPort k (fun p => { p with memInfo := true }) s)

/-! The atomic window. -/

/-- An AtomicOp of n bytes at a BAR0 offset: served in the agent's own region when aligned, allowed and the port serves
CXL.io; Unsupported Request otherwise (R677, R691, R692, R697, R774, R792). -/
def atomicOp (a off n : Nat) (f : BitVec 128 → BitVec 128) (s : State) : Res :=
  if 32 ≤ a || 2 ^ 20 ≤ off then .fault .noSuchThing
  else if !reachable s a then .next s
  else
    let c := (agent s a).company
    let w := off - 0x80000
    let refusedNow := !ioServed s a || off < 0x80000 || off % n != 0 || !ownCounter c w
    if refusedNow then .next (emit (.unsupported a) s)
    else if (rangeRefused s c 2 1 4 a w n).isSome then .next (emit (.unsupported a) (countPortRefusal c s))
    else
      let both : BitVec 128 := BitVec.ofNat 128 ((counterAt s w).toNat + (if n == 16 then (counterAt s (w + 8)).toNat * 2 ^ 64 else 0))
      let sh := if n == 4 then 8 * (w % 8) else 0
      let mask : BitVec 128 := BitVec.ofNat 128 (2 ^ (8 * n) - 1)
      let old := (both >>> sh) &&& mask
      let new := (both &&& ~~~(mask <<< sh)) ||| ((f old &&& mask) <<< sh)
      let s := setCounter w (new.truncate 64) s
      let s := if n == 16 then setCounter (w + 8) ((new >>> 64).truncate 64) s else s
      .next (emit (.atomicValue a old) s)

/-- FETCHADD of 4 or 8 bytes. -/
def execFetchAdd (a off size : Nat) (operand : Word64) (s : State) : Res :=
  if !(size == 4 || size == 8) then .fault .noSuchThing
  else atomicOp a off size (fun old => old + operand.zeroExtend 128) s

/-- SWAP of 4 or 8 bytes. -/
def execSwap (a off size : Nat) (operand : Word64) (s : State) : Res :=
  if !(size == 4 || size == 8) then .fault .noSuchThing
  else atomicOp a off size (fun _ => operand.zeroExtend 128) s

/-- CAS of 4, 8 or 16 bytes; of 16 it acts on two adjacent counters as one (R692). -/
def execCas (a off size : Nat) (compare operand : BitVec 128) (s : State) : Res :=
  if !(size == 4 || size == 8 || size == 16) then .fault .noSuchThing
  else
    let mask : BitVec 128 := BitVec.ofNat 128 (2 ^ (8 * size) - 1)
    atomicOp a off size (fun old => if old == compare &&& mask then operand else old) s

/-! IDE failures and PTM. -/

/-- IDE_CHECK_FAILURE of a stream in use: its traffic is discarded and the stream is insecure (R697). -/
def execIdeCheckFailure (k : Nat) (cachemem : Bool) (s : State) : Res :=
  if !portOk k then .fault .noSuchThing else
  let p := port s k
  let x := if cachemem then p.ideMem else p.ideIo
  if !p.linkUp || x.activeRx.isNone then .next s else
  let bad : IdeStream := { x with insecure := true, activeRx := none, activeTx := none }
  .next (postEvent 7 0xFF (w64 (k * 256 + 2)) 0 (modPort k (fun p =>
    let p : Port := { p with perfIde := satInc p.perfIde }
    if cachemem then { p with ideMem := bad } else { p with ideIo := bad }) s))

/-- PTM_DIALOGUE with the host time that the root returns and the measured link delay; a failed one changes nothing
(R306, R307). -/
def execPtmDialogue (k : Nat) (ok : Bool) (hostTime : Word64) (delay : BitVec 16) (s : State) : Res :=
  if !portOk k then .fault .noSuchThing
  else if !ok || !(port s k).linkUp || !(port s k).ptmEnable then .next s
  else .next (modPort k (fun p => { p with
    ptmOfs := s.dev.time - (hostTime + delay.zeroExtend 64), ptmDelay := delay, ptmValid := true
    ptmLast := some (now s) }) s)

/-- PTM_VALID_TIMEOUT: no success for 100 ms (R307, R347). -/
def execPtmValidTimeout (k : Nat) (s : State) : Res :=
  if !portOk k then .fault .noSuchThing
  else if !(port s k).ptmValid || !isLate ((port s k).ptmLast.getD 0) 100000000 s then .next s
  else .next (modPort k (fun p => { p with ptmValid := false }) s)

/-! DOE. -/

/-- A DOE mailbox that answers: the link is up and the port presents the logical device (R677, R695). -/
def doeServed (s : State) (k ld : Nat) : Bool := (port s k).linkUp && decide (ld < ldCount (port s k)) && fuseDone s

/-- The DOE protocols of a logical device as (vendor, type): discovery, CMA/SPDM and secured CMA/SPDM of the PCI-SIG, table
access of the CXL consortium (R695; notes/assumptions/30.md). -/
def doeProtocols : List (Nat × Nat) := [(1, 0), (1, 1), (1, 2), (0x1E98, 2)]

/-- DOE_DISCOVERY: the protocol at an index and the index of the next, 0 after the last (R695). -/
def execDoeDiscovery (k ld idx : Nat) (s : State) : Res :=
  if !portOk k || 4 ≤ ld then .fault .noSuchThing
  else if !doeServed s k ld then .next s
  else match doeProtocols[idx]? with
    | none => .next (emit (.doe k ld [0xFFFF, 0, 0]) s)
    | some p => .next (emit (.doe k ld [p.1, p.2, if idx + 1 < doeProtocols.length then idx + 1 else 0]) s)

/-- CDAT entries for one region: DSMAS [0, handle, base, bytes], then DSLBIS [1, handle, type, value] with types 1 read
latency and 2 write latency in ns, 4 read and 5 write bandwidth in GB/s (R684). -/
def cdatRegion (handle base bytes rd wr : Nat) : List (List Nat) :=
  [[0, handle, base, bytes], [1, handle, 1, rd], [1, handle, 2, wr], [1, handle, 4, 56], [1, handle, 5, 56]]

/-- The CDAT of a company's agents (R680, R684). -/
def cdatEntries (s : State) (c : Nat) : List (List Nat) :=
  let main := windowSize s c false
  let stage := if isSplit s c then windowSize s c true else 0
  (if main == 0 then [] else cdatRegion 0 0 main 700 600)
  ++ (if stage == 0 then [] else cdatRegion 1 stageBase stage 400 350)
  ++ cdatRegion 2 coherentBase coherentSize 750 650

/-- CDAT_READ: the entry asked for and the number of the next, 0xFFFF after the last (R684). -/
def execCdatRead (k ld entry : Nat) (s : State) : Res :=
  if !portOk k || 4 ≤ ld then .fault .noSuchThing
  else if !doeServed s k ld then .next s
  else
    let l := match agentOfLd s k ld with
      | none => []
      | some a => cdatEntries s (agent s a).company
    match l[entry]? with
    | none => .next (emit (.doe k ld [0xFFFF]) s)
    | some e => .next (emit (.doe k ld ((if entry + 1 < l.length then entry + 1 else 0xFFFF) :: e)) s)

end Sys2Proof.Machine
end

