-- ==== Sys2Proof/Machine/Engine.lean ====
section
/-!
DEFINITION. The vector and tile engine (11_vector_tile_engine.md). A row of an engine instruction passes it to the
engine's queue with the result that its shadow state holds (R511, R512), computed on the shadow state of the entry
before; ENGINE_COMMIT makes the oldest entry's result visible, or raises the fault that it holds (R512 to R514, R527,
R528).
-/
namespace Sys2Proof.Machine
open Sys2Proof

abbrev VReg := BitVec 16384
abbrev TReg := BitVec 32768

/-! Registers and their elements. -/

def vreg (e : Engine) (r : Nat) : VReg := e.v.getD r 0
def treg (e : Engine) (r : Nat) : TReg := e.t.getD r 0
/-- m0 reads as all ones (R487). -/
def mreg (e : Engine) (k : Nat) : BitVec 1024 := if k == 0 then BitVec.allOnes 1024 else e.m.getD k 0
def setV (r : Nat) (x : VReg) (e : Engine) : Engine := { e with v := setAt e.v r x }
def setT (r : Nat) (x : TReg) (e : Engine) : Engine := { e with t := setAt e.t r x }
/-- Writes to m0 are discarded (R487). -/
def setM (k : Nat) (x : BitVec 1024) (e : Engine) : Engine := if k == 0 then e else { e with m := setAt e.m k x }

/-- Element i of w bits. -/
def elemAt {n : Nat} (w : Nat) (x : BitVec n) (i : Nat) : Nat := x.toNat / 2 ^ (w * i) % 2 ^ w
def elems {n : Nat} (w : Nat) (x : BitVec n) : List Nat := (upto (n / w)).map (elemAt w x)
def packElems (n w : Nat) (l : List Nat) : BitVec n := BitVec.ofNat n (l.foldr (fun x acc => acc * 2 ^ w + x) 0)

/-- Bits of a vector element, its type, and the tile element's type (R488). -/
def ew (e : Engine) : Nat := typeBits e.etype
def isFp (e : Engine) : Bool := isFloat e.etype
def tileType (e : Engine) : Nat := if isFp e then 2 else 4
def etFmt (e : Engine) : Fmt := (fmtOf e.etype).getD .fp32

/-- Lane i is active under mask vm (R489). -/
def active (e : Engine) (vm i : Nat) : Bool := decide (i < e.vl) && bit (mreg e vm) i

/-- Replace the elements of which p holds; the flags are gathered. -/
def mapElems {n : Nat} (w : Nat) (p : Nat → Bool) (old : BitVec n) (f : Nat → Flagged) : BitVec n × Nat :=
  let l := (elems w old).zipIdx.map fun (x, i) => if p i then f i else (x, 0)
  (packElems n w (l.map (·.1)), l.foldl (fun a q => a ||| q.2) 0)

/-- A free element: 32 bits of free number k (notes/assumptions/2.md). -/
def freeElem (k i : Nat) : Nat := leNat ((upto 4).map fun j => Config.freeByte k (4 * i + j))

/-- A scalar operand under R494. -/
def scalarIn (e : Engine) (v : Word64) : Flagged :=
  if isFp e then convert 2 e.etype (low v) 0 else (v.toNat % 2 ^ ew e, 0)

/-- A vector element read into a scalar register under R494. -/
def scalarOut (e : Engine) (x : Nat) : Word64 × Nat :=
  if isFp e then
    let (b, fl) := convert e.etype 2 x 0
    (w64 b, fl)
  else (sext (ew e) x, 0)

/-! The form of an engine row. -/

structure EngCtx where
  core : CoreCtx
  /-- Shadow state of the entry before. -/
  e    : Engine
  /-- Free number of this instruction. -/
  k    : Nat

/-- The result of an engine instruction. -/
inductive EngRes where
  | fault (code : Nat)
  | done (e : Engine) (flags : Nat) (writes : List Host.Cell) (rd : Option (Nat × Word64)) (memory : Bool)

def shadow (cl : Cluster) : Engine := (cl.engQ.getLast?.map (·.eng)).getD cl.eng

/-- Pass an entry to the queue and go on (R511). -/
def enqueue (x : CoreCtx) (n : EngEntry) (s : State) : State :=
  modCluster x.p (fun cl => { cl with
    engQ := cl.engQ ++ [{ n with pc := cl.core.pc.toNat }]
    core := nextPc { cl.core with pendRd := match n.rd with
      | some (rd, _) => if rd == 0 then cl.core.pendRd else cl.core.pendRd ++ [rd]
      | none => cl.core.pendRd } }) s

def emptyEntry (e : Engine) (fault : Option Nat) : EngEntry :=
  { pc := 0, eng := e, flags := 0, writes := [], rd := none, fault := fault, memory := false }

/-- The core of logical cluster c passes the engine instruction at its pc to the queue, of 16 entries (R434, R511, R526,
R527). -/
def engRow (op c : Nat) (legal : Word32 → Bool) (regs : Word32 → List Nat) (body : EngCtx → EngRes) (s : State) : Res :=
  if 160 ≤ c then .fault .noSuchThing else
  match running c s with
  | none => .next s
  | some x =>
    let e := shadow x.cl
    if !fetched x || opOf x.w != op || x.cl.engQ.any (fun n => n.fault.isSome) || 16 ≤ x.cl.engQ.length then .next s
    else if !legal x.w then .next (enqueue x (emptyEntry e (some 1)) s)
    else if !guardOf x then .next (enqueue x (emptyEntry e none) s)
    else if (regs x.w).any fun r => x.cl.core.pendRd.contains r then .next s
    else
      let s' := spend (spend s)
      match body { core := x, e := e, k := s.free } with
      | .fault code => .next (enqueue x (emptyEntry e (some code)) s')
      | .done e' fl ws rd mem =>
        .next (enqueue x { pc := 0, eng := e', flags := BitVec.ofNat 5 fl, writes := ws, rd := rd, fault := none,
                           memory := mem } s')

def sOf (y : EngCtx) (r : Nat) : Word64 := sreg y.core.cl.core r
def noRegs (_ : Word32) : List Nat := []

/-- A result in one vector register. -/
def toV (y : EngCtx) (vd : Nat) (r : VReg × Nat) : EngRes := .done (setV vd r.1 y.e) r.2 [] none false
def toT (y : EngCtx) (td : Nat) (r : TReg × Nat) : EngRes := .done (setT td r.1 y.e) r.2 [] none false

/-! VSETVL. -/

/-- VSETVL (R495, R520). -/
def execVsetvl (c : Nat) (s : State) : Res :=
  engRow 0x30 c (fun w => decide (fw w 11 9 < 5) && fw w 8 0 == 0) (fun w => [rdOf w, raOf w]) (fun y =>
    let et := fw y.core.w 11 9
    let n := min (sOf y (raOf y.core.w)).toNat (vlmax et)
    .done { y.e with etype := et, vl := n } 0 [] (some (rdOf y.core.w, w64 n)) false) s

/-! Lane arithmetic. -/

/-- A function of VOP on floats; the third operand is vd's element. -/
def fpFn (f : Fmt) (fn a b d : Nat) : Flagged :=
  match fn with
  | 0 => f.add a b
  | 1 => f.sub a b
  | 2 => f.mul a b
  | 3 => f.fma a b d
  | 4 => f.min a b
  | 5 => f.max a b
  | _ => f.div a b

/-- A function of VOP on integers of w bits, modulo their width. -/
def intFn (w fn a b d : Nat) : Nat :=
  let x := toSigned w a
  let y := toSigned w b
  match fn with
  | 0 => (a + b) % 2 ^ w
  | 1 => (a + 2 ^ w - b % 2 ^ w) % 2 ^ w
  | 2 => a * b % 2 ^ w
  | 3 => (a * b + d) % 2 ^ w
  | 4 => if x ≤ y then a else b
  | 5 => if x ≤ y then b else a
  | 6 => (divS (BitVec.ofNat w a) (BitVec.ofNat w b)).toNat
  | 7 => a &&& b
  | 8 => a ||| b
  | 9 => a ^^^ b
  | 10 => a * 2 ^ (b % w) % 2 ^ w
  | 11 => a / 2 ^ (b % w)
  | _ => ofSigned w (x / 2 ^ (b % w))

def laneFn (e : Engine) (fn a b d : Nat) : Flagged :=
  if isFp e then fpFn (etFmt e) fn a b d else (intFn (ew e) fn a b d, 0)

/-- A float element as a copy leaves it: every NaN result is canonical (R493). -/
def copyElem (e : Engine) (x : Nat) : Nat := if isFp e then (etFmt e).canon x else x

/-- Is fn defined for the element type (VOP, VOPS)? -/
def vopIllegal (e : Engine) (fn : Nat) : Bool := isFp e && decide (7 ≤ fn) && decide (fn ≤ 12)

/-- VOP and VOPS share all but their second operand. -/
def vopBody (y : EngCtx) (b : Nat → Nat) (bFlags : Nat) : EngRes :=
  let w := y.core.w
  let fn := fw w 3 0
  let vm := fw w 6 4
  let e := y.e
  let va := vreg e (raOf w)
  let vd := vreg e (rdOf w)
  if vopIllegal e fn then .fault 1
  else if fn == 13 then
    let any := (upto e.vl).any fun i => !bit (mreg e vm) i
    let r := mapElems (ew e) (fun i => decide (i < e.vl)) vd fun i =>
      (copyElem e (if bit (mreg e vm) i then elemAt (ew e) va i else b i), 0)
    toV y (rdOf w) (r.1, if any then bFlags else 0)
  else
    let any := (upto e.vl).any (active e vm)
    let r := mapElems (ew e) (active e vm) vd fun i => laneFn e fn (elemAt (ew e) va i) (b i) (elemAt (ew e) vd i)
    toV y (rdOf w) (r.1, r.2 ||| (if any then bFlags else 0))

def execVop (c : Nat) (s : State) : Res :=
  engRow 0x31 c (fun w => decide (fw w 3 0 < 14)) noRegs (fun y =>
    vopBody y (fun i => elemAt (ew y.e) (vreg y.e (rbOf y.core.w)) i) 0) s

def execVops (c : Nat) (s : State) : Res :=
  engRow 0x32 c (fun w => decide (fw w 3 0 < 14)) (fun w => [rbOf w]) (fun y =>
    let (b, fl) := scalarIn y.e (sOf y (rbOf y.core.w))
    vopBody y (fun _ => b) fl) s

/-- A function of VUN on one element. -/
def unFn (e : Engine) (fn mt k i a : Nat) : Flagged :=
  let f := etFmt e
  let w := ew e
  match fn with
  | 0 => (copyElem e a, 0)
  | 1 => if isFp e then (f.neg a, 0) else ((2 ^ w - a % 2 ^ w) % 2 ^ w, 0)
  | 2 => if isFp e then (f.abs a, 0) else (ofSigned w (toSigned w a).natAbs, 0)
  | 3 => f.expOf a
  | 4 => f.rcp a
  | 5 => f.rsqrtOf a
  | 6 => f.sqrt a
  | 7 =>
    let (m, fl) := convert e.etype mt a (freeElem k (2 * i))
    let (r, fl') := convert mt e.etype m (freeElem k (2 * i + 1))
    (r, fl ||| fl')
  | _ => convert 4 e.etype i i

def vunLegal (w : Word32) : Bool :=
  let fn := fw w 3 0
  decide (fn < 9) && !bit w 11 && (if fn == 7 then decide (fw w 10 7 < 9) else fw w 10 7 == 0)
  && (fn != 8 || raOf w == 0)

def execVun (c : Nat) (s : State) : Res :=
  engRow 0x33 c vunLegal noRegs (fun y =>
    let w := y.core.w
    let e := y.e
    let fn := fw w 3 0
    if !isFp e && 3 ≤ fn && fn ≤ 6 then .fault 1
    else
      toV y (rdOf w) (mapElems (ew e) (active e (fw w 6 4)) (vreg e (rdOf w)) fun i =>
        unFn e fn (fw w 10 7) (y.k + 1) i (elemAt (ew e) (vreg e (raOf w)) i))) s

/-- A condition of VCMP on one pair (R497). -/
def cmpElem (e : Engine) (cc a b : Nat) : Bool × Nat :=
  if isFp e then fcmp cc ((etFmt e).value a) ((etFmt e).value b)
  else fcmp cc (intVal (toSigned (ew e) a)) (intVal (toSigned (ew e) b))

/-- Bits i of which p holds, replaced. -/
def mapMask (p : Nat → Bool) (old : BitVec 1024) (f : Nat → Bool) : BitVec 1024 :=
  BitVec.ofNat 1024 ((upto 1024).foldr (fun i acc => acc * 2 + b2n (if p i then f i else bit old i)) 0)

def execVcmp (c : Nat) (s : State) : Res :=
  engRow 0x34 c (fun w => decide (fw w 18 16 < 6) && fw w 1 0 == 0)
    (fun w => if bit w 5 then [fw w 10 6] else []) (fun y =>
    let w := y.core.w
    let e := y.e
    let md := fw w 21 19
    let (sb, sfl) := if bit w 5 then scalarIn e (sOf y (fw w 10 6)) else (0, 0)
    let on := active e (fw w 4 2)
    let r := fun i => cmpElem e (fw w 18 16) (elemAt (ew e) (vreg e (fw w 15 11)) i)
      (if bit w 5 then sb else elemAt (ew e) (vreg e (fw w 10 6)) i)
    let fl := (upto e.vl).foldl (fun a i => if on i then a ||| (r i).2 ||| sfl else a) 0
    .done (setM md (mapMask on (mreg e md) fun i => (r i).1) e) fl [] none false) s

/-! VMISC. -/

def vmiscLegal (w : Word32) : Bool :=
  let fn := fw w 3 0
  let d := rdOf w
  let a := raOf w
  let b := rbOf w
  let vm := fw w 6 4
  if fn ≤ 3 then decide (d < 8) && decide (a < 8) && decide (b < 8) && vm == 0
  else if fn ≤ 5 then decide (a < 8) && b == 0 && vm == 0
  else if fn ≤ 7 then vm == 0
  else fn == 8 && b == 0

def vmiscRegs (w : Word32) : List Nat :=
  match fw w 3 0 with
  | 4 | 5 => [rdOf w]
  | 6 => [rdOf w, rbOf w]
  | 7 => [raOf w, rbOf w]
  | 8 => [raOf w]
  | _ => []

def execVmisc (c : Nat) (s : State) : Res :=
  engRow 0x35 c vmiscLegal vmiscRegs (fun y =>
    let w := y.core.w
    let e := y.e
    let fn := fw w 3 0
    let d := rdOf w
    let ma := mreg e (raOf w)
    if fn ≤ 3 then
      let mb := mreg e (rbOf w)
      .done (setM d (mapMask (fun i => decide (i < e.vl)) (mreg e d) fun i => predFn fn (bit ma i) (bit mb i)) e) 0 [] none false
    else if fn == 4 then .done e 0 [] (some (d, w64 ((upto e.vl).filter (bit ma)).length)) false
    else if fn == 5 then
      .done e 0 [] (some (d, (((upto e.vl).find? (bit ma)).map w64).getD (BitVec.allOnes 64))) false
    else if fn == 6 then
      let i := (sOf y (rbOf w)).toNat
      if vlmax e.etype ≤ i then .fault 1 else
      let (v, fl) := scalarOut e (elemAt (ew e) (vreg e (raOf w)) i)
      .done e fl [] (some (d, v)) false
    else if fn == 7 then
      let i := (sOf y (rbOf w)).toNat
      if vlmax e.etype ≤ i then .fault 1 else
      toV y d (mapElems (ew e) (· == i) (vreg e d) fun _ => scalarIn e (sOf y (raOf w)))
    else toV y d (mapElems (ew e) (active e (fw w 6 4)) (vreg e d) fun _ => scalarIn e (sOf y (raOf w)))) s

/-! Loads and stores. -/

/-- Byte a as an engine instruction reads it: earlier engine stores that wait to commit are seen (R515). -/
def seenByte (y : EngCtx) (own : List Host.Cell) (a : Nat) : Byte :=
  let cl := y.core.cl
  match (own.reverse.find? fun p => p.1 == a) with
  | some p => p.2
  | none =>
    match (cl.engQ.map (·.writes)).flatten.reverse.find? fun p => p.1 == a with
    | some p => p.2
    | none => (areaLoad cl y.k a 1).headD 0

/-- Where an element lies: a byte address, and for INT4 whether it is the high half (R159, R496). -/
def elemPlace (mt : Nat) (base : Word64) (stride : Word64) (i : Nat) : Nat × Bool :=
  if mt == 8 then ((base + w64 (i / 2)).toNat, i % 2 == 1) else ((base + w64 i * stride).toNat, false)

def elemSize (mt : Nat) : Nat := max 1 (typeBits mt / 8)

/-- The fault of a set of element addresses: ALIGN, then LOCAL_RANGE (R441, R496, R517; notes/assumptions/15.md). -/
def placesFault (y : EngCtx) (mt : Nat) (l : List (Nat × Bool)) : Option Nat :=
  if l.any fun p => p.1 % elemSize mt != 0 then some 3
  else if l.any fun p => decide (y.core.cl.wlimit < p.1 + elemSize mt) then some 5
  else none

def readElem (y : EngCtx) (mt : Nat) (p : Nat × Bool) : Nat :=
  if mt == 8 then
    let b := (seenByte y [] p.1).toNat
    if p.2 then b / 16 else b % 16
  else leNat ((upto (elemSize mt)).map fun j => seenByte y [] (p.1 + j))

/-- The bytes that writing an element adds to the stores before it. -/
def writeElem (y : EngCtx) (mt : Nat) (own : List Host.Cell) (p : Nat × Bool) (x : Nat) : List Host.Cell :=
  if mt == 8 then
    let b := (seenByte y own p.1).toNat
    own ++ [(p.1, BitVec.ofNat 8 (if p.2 then b % 16 + 16 * (x % 16) else b / 16 * 16 + x % 16))]
  else own ++ (leBytes (elemSize mt) x).zipIdx.map fun (b, j) => (p.1 + j, b)

/-- Mtype at most 8, and no stride register for INT4 (R496). -/
def vmemLegal (w : Word32) : Bool := decide (fw w 3 0 < 9) && (fw w 3 0 != 8 || rbOf w == 0)
def vmemRegs (w : Word32) : List Nat := [raOf w, rbOf w]

def vmemStride (y : EngCtx) : Word64 :=
  if rbOf y.core.w == 0 then w64 (elemSize (fw y.core.w 3 0)) else sOf y (rbOf y.core.w)

def vmemPlace (y : EngCtx) (i : Nat) : Nat × Bool :=
  elemPlace (fw y.core.w 3 0) (sOf y (raOf y.core.w)) (vmemStride y) i

def execVld (c : Nat) (s : State) : Res :=
  engRow 0x36 c vmemLegal vmemRegs (fun y =>
    let w := y.core.w
    let e := y.e
    let mt := fw w 3 0
    let on := active e (fw w 6 4)
    match placesFault y mt (((upto e.vl).filter on).map (vmemPlace y)) with
    | some code => .fault code
    | none =>
      let r := mapElems (ew e) on (vreg e (rdOf w)) fun i =>
        convert mt e.etype (readElem y mt (vmemPlace y i)) (freeElem (y.k + 1) i)
      .done (setV (rdOf w) r.1 e) r.2 [] none true) s

/-- Stores of a list of elements, in order: of two that write one byte the later holds (R521). -/
def storeElems (y : EngCtx) (frm mt : Nat) (l : List ((Nat × Bool) × Nat)) : List Host.Cell × Nat :=
  l.zipIdx.foldl (fun (acc : List Host.Cell × Nat) q =>
    let (x, fl) := convert frm mt q.1.2 (freeElem (y.k + 1) q.2)
    (writeElem y mt acc.1 q.1.1 x, acc.2 ||| fl)) ([], 0)

def execVst (c : Nat) (s : State) : Res :=
  engRow 0x37 c vmemLegal vmemRegs (fun y =>
    let w := y.core.w
    let e := y.e
    let mt := fw w 3 0
    let lanes := (upto e.vl).filter (active e (fw w 6 4))
    match placesFault y mt (lanes.map (vmemPlace y)) with
    | some code => .fault code
    | none =>
      let (ws, fl) := storeElems y e.etype mt (lanes.map fun i => (vmemPlace y i, elemAt (ew e) (vreg e (rdOf w)) i))
      .done e fl ws none true) s

/-! Scans and reductions. -/

/-- The inclusive scan of a list of elements from lane i on, segment starts given by p (R498). -/
def scanList (op : Nat → Nat → Flagged) (start : Nat → Bool) : Nat → Nat → List Nat → List Flagged
  | _, _, [] => []
  | i, prev, x :: r =>
    let z := if i == 0 || start i then (x, 0) else op prev x
    z :: scanList op start (i + 1) z.1 r

/-- One round of R499's combination: pairs w apart. -/
def reduceRound (op : Nat → Nat → Flagged) (w : Nat) (l : List Nat) (fl : Nat) : List Nat × Nat :=
  let r := l.zipIdx.map fun (x, k) =>
    if k % (2 * w) == 0 && decide (k + w < l.length) then op x (l.getD (k + w) 0) else (x, 0)
  (r.map (·.1), r.foldl (fun a q => a ||| q.2) fl)

def reduceAll (op : Nat → Nat → Flagged) : Nat → Nat → List Nat → Nat → Nat × Nat
  | 0, _, l, fl => (l.headD 0, fl)
  | n + 1, w, l, fl =>
    if l.length ≤ w then (l.headD 0, fl)
    else
      let (l, fl) := reduceRound op w l fl
      reduceAll op n (2 * w) l fl

/-- The identity of XSCAN and of a reduction. -/
def identityOf (e : Engine) (fn : Nat) : Nat :=
  if isFp e then
    if fn == 5 then (etFmt e).infBits true else if fn == 6 then (etFmt e).infBits false else 0
  else if fn == 5 then 2 ^ (ew e - 1) else if fn == 6 then 2 ^ (ew e - 1) - 1 else 0

/-- The operation of a VSCAN function: add, max or min, in VOP's numbering. -/
def scanOp (fn : Nat) : Nat := if fn == 2 || fn == 5 then 5 else if fn == 3 || fn == 6 then 4 else 0

/-- The lanes that VSCAN of word w leaves in rd, for vl above 0, and the flags (R498, R499). -/
def scanResult (e : Engine) (w : Word32) : VReg × Nat :=
  let fn := fw w 3 0
  let vm := fw w 6 4
  let va := vreg e (raOf w)
  let op := fun a b => laneFn e (scanOp fn) a b 0
  if fn ≤ 3 then
    let start := fun i => vm != 0 && bit (mreg e vm) i
    let xs := (upto e.vl).map (elemAt (ew e) va)
    let ys := scanList op start 0 0 xs
    let fl := ys.foldl (fun a q => a ||| q.2) 0
    let out := fun i =>
      if fn == 1 then (if i == 0 || start i then identityOf e fn else (ys.getD (i - 1) (0, 0)).1)
      else (ys.getD i (0, 0)).1
    let r := mapElems (ew e) (fun i => decide (i < e.vl)) (vreg e (rdOf w)) fun i => (out i, 0)
    (r.1, fl)
  else
    let xs := (upto e.vl).map fun i => if bit (mreg e vm) i then elemAt (ew e) va i else identityOf e fn
    let (x, fl) := reduceAll op 11 1 xs 0
    let r := mapElems (ew e) (· == 0) (vreg e (rdOf w)) fun _ => (x, 0)
    (r.1, fl)

def execVscan (c : Nat) (s : State) : Res :=
  engRow 0x38 c (fun w => decide (fw w 3 0 < 7) && rbOf w == 0) noRegs (fun y =>
    if y.e.vl == 0 then .done y.e 0 [] none false
    else toV y (rdOf y.core.w) (scanResult y.e y.core.w)) s

/-! Tiles. -/

/-- Element (r, c) of a tile. -/
def tileAt (x : TReg) (r c : Nat) : Nat := elemAt 32 x (32 * r + c)
def mapTile (f : Nat → Nat → Flagged) : TReg × Nat := mapElems 32 (fun _ => true) (0 : TReg) fun i => f (i / 32) (i % 32)

/-- TLS: the whole tile, in row order (R496, R500). -/
def execTls (c : Nat) (s : State) : Res :=
  engRow 0x39 c (fun w => decide (fw w 3 0 < 9) && fw w 6 4 == 0) (fun w => [fw w 17 13, fw w 12 8]) (fun y =>
    let w := y.core.w
    let e := y.e
    let mt := fw w 3 0
    let td := fw w 21 18
    let rowBytes := if fw w 12 8 == 0 then w64 (32 * typeBits mt / 8) else sOf y (fw w 12 8)
    let place := fun i => elemPlace mt (sOf y (fw w 17 13) + w64 (i / 32) * rowBytes) (w64 (elemSize mt)) (i % 32)
    match placesFault y mt ((upto 1024).map place) with
    | some code => .fault code
    | none =>
      if bit w 7 then
        let (ws, fl) := storeElems y (tileType e) mt ((upto 1024).map fun i => (place i, elemAt 32 (treg e td) i))
        .done e fl ws none true
      else
        let r := mapElems 32 (fun _ => true) (treg e td) fun i =>
          convert mt (tileType e) (readElem y mt (place i)) (freeElem (y.k + 1) i)
        .done (setT td r.1 e) r.2 [] none true) s

/-- A TMAC operand under prec: as it is, or rounded to a narrower type (R501). -/
def tmacIn (e : Engine) (prec x : Nat) : FVal × Nat :=
  if prec == 0 then (Fmt.fp32.value x, 0)
  else
    let f : Fmt := if prec == 2 then .e4m3 else if e.etype == 0 then .fp16 else .bf16
    let (b, fl) := f.ofVal (Fmt.fp32.value x)
    (f.value b, fl)

/-- One step of TMAC's sum on floats: the product is rounded under prec 0 and exact otherwise (R501). -/
def tmacStep (prec : Nat) (acc : Flagged) (a b : FVal × Nat) : Flagged :=
  if prec == 0 then
    let (p, fl) := Fmt.fp32.finish (exactMul a.1 b.1)
    let (r, fl') := Fmt.fp32.add acc.1 p
    (r, acc.2 ||| fl ||| fl')
  else
    let (r, fl) := Fmt.fp32.finish (exactFma a.1 b.1 (Fmt.fp32.value acc.1))
    (r, acc.2 ||| a.2 ||| b.2 ||| fl)

/-- Element (i, j) of TMAC of word w (R501). -/
def tmacElem (e : Engine) (w : Word32) (i j : Nat) : Flagged :=
  let form := fw w 9 8
  let prec := fw w 6 5
  let ta := treg e (fw w 17 14)
  let tb := treg e (fw w 13 10)
  let x := fun k => if 2 ≤ form then tileAt ta k i else tileAt ta i k
  let y := fun k => if form % 2 == 1 then tileAt tb j k else tileAt tb k j
  let start := if bit w 7 then tileAt (treg e (fw w 21 18)) i j else 0
  if isFp e then
    (upto 32).foldl (fun acc k => tmacStep prec acc (tmacIn e prec (x k)) (tmacIn e prec (y k))) (start, 0)
  else ((upto 32).foldl (fun acc k => (acc + x k * y k) % 2 ^ 32) start, 0)

def execTmac (c : Nat) (s : State) : Res :=
  engRow 0x3A c (fun w => fw w 6 5 != 3 && fw w 4 0 == 0) noRegs (fun y =>
    if !isFp y.e && fw y.core.w 6 5 != 0 then .fault 1
    else toT y (fw y.core.w 21 18) (mapTile (tmacElem y.e y.core.w))) s

/-- A tile operation: sum, product, maximum or minimum of two tile elements. -/
def tileFn (e : Engine) (fn a b : Nat) : Flagged :=
  if isFp e then fpFn .fp32 fn a b 0 else (intFn 32 fn a b 0, 0)

/-- Lane i of TRED of word w: row or column i combined in order (R502); k numbers free values. -/
def tredElem (e : Engine) (k : Nat) (w : Word32) (i : Nat) : Flagged :=
  let t := treg e (fw w 16 13)
  let fn := if fw w 11 10 == 0 then 0 else if fw w 11 10 == 1 then 5 else 4
  let term := fun k => if bit w 12 then tileAt t k i else tileAt t i k
  let (x, fl) := (upto 31).foldl (fun (acc : Flagged) k =>
    let (r, fl) := tileFn e fn acc.1 (term (k + 1))
    (r, acc.2 ||| fl)) (term 0, 0)
  let (r, fl') := convert (tileType e) e.etype x (freeElem k i)
  (r, fl ||| fl')

def execTred (c : Nat) (s : State) : Res :=
  engRow 0x3B c (fun w => fw w 11 10 != 3 && fw w 9 0 == 0) noRegs (fun y =>
    let w := y.core.w
    toV y (rdOf w) (mapElems (ew y.e) (fun i => decide (i < 32)) (vreg y.e (rdOf w)) (tredElem y.e (y.k + 1) w))) s

/-- TBC's functions in VOP's numbering: ADD, SUB, MUL, MAX, MIN. -/
def tbcFn (fn : Nat) : Nat := if fn == 3 then 5 else if fn == 4 then 4 else fn

/-- Element (i, j) of TBC of word w, with v the scalar operand (R503). -/
def tbcElem (e : Engine) (v : Word64) (w : Word32) (i j : Nat) : Flagged :=
  let kind := fw w 8 7
  let vb := vreg e (fw w 13 9)
  let fromElem := fun i => convert e.etype (tileType e) (elemAt (ew e) vb i) 0
  let scalar : Flagged :=
    let (x, fl) := scalarIn e v
    let (r, fl') := convert e.etype (tileType e) x 0
    (r, fl ||| fl')
  let (b, fl) := if kind == 0 then fromElem j else if kind == 1 then fromElem i else scalar
  let (r, fl') := tileFn e (tbcFn (fw w 2 0)) (tileAt (treg e (fw w 17 14)) i j) b
  (r, fl ||| fl')

def execTbc (c : Nat) (s : State) : Res :=
  engRow 0x3C c (fun w => fw w 8 7 != 3 && fw w 6 3 == 0 && decide (fw w 2 0 < 5))
    (fun w => if fw w 8 7 == 2 then [fw w 13 9] else []) (fun y =>
    toT y (fw y.core.w 21 18) (mapTile (tbcElem y.e (sOf y (fw y.core.w 13 9)) y.core.w))) s

def tmovLegal (w : Word32) : Bool :=
  let kind := fw w 12 11
  fw w 5 0 == 0 &&
  (if kind == 2 then rdOf w == 0 && fw w 10 6 == 0 else if kind == 3 then decide (rdOf w < 16) && fw w 10 6 == 0 else true)

def execTmov (c : Nat) (s : State) : Res :=
  engRow 0x3D c tmovLegal noRegs (fun y =>
    let w := y.core.w
    let e := y.e
    let kind := fw w 12 11
    let tn := fw w 16 13
    let r0 := fw w 10 6
    if kind == 2 then toT y tn (0, 0)
    else if kind == 3 then toT y tn (mapTile fun i j => (tileAt (treg e (rdOf w % 16)) j i, 0))
    else if e.vl % 32 != 0 || 32 < r0 + e.vl / 32 then .fault 1
    else if kind == 0 then
      toV y (rdOf w) (mapElems (ew e) (fun i => decide (i < e.vl)) (vreg e (rdOf w)) fun i =>
        convert (tileType e) e.etype (elemAt 32 (treg e tn) (32 * r0 + i)) (freeElem (y.k + 1) i))
    else
      toT y tn (mapElems 32 (fun i => decide (32 * r0 ≤ i) && decide (i < 32 * r0 + e.vl)) (treg e tn) fun i =>
        convert e.etype (tileType e) (elemAt (ew e) (vreg e (rdOf w)) (i - 32 * r0)) 0)) s

/-! Fused chains. -/

/-- Fields of a stage (R506). -/
structure Stage where
  kind : Nat
  src1 : Nat
  src2 : Nat
  imm  : Nat

def stageOf (e : Engine) (k j : Nat) : Stage :=
  let h := fld (e.chain.getD (2 * k + j / 4) 0) (16 * (j % 4) + 15) (16 * (j % 4))
  { kind := h / 2 ^ 13, src1 := h / 2 ^ 10 % 8, src2 := h / 2 ^ 7 % 8, imm := h % 2 ^ 7 }

def stageLegal (t : Stage) : Bool :=
  match t.kind with
  | 0 => t.imm == 0
  | 1 => t.src1 == 0 && t.src2 == 0 && t.imm == 0
  | 2 => t.src2 == 0 && t.imm == 0
  | 3 => t.src1 == 0 && t.src2 == 0
  | 4 => t.src1 == 0 && t.src2 == 0 && decide (t.imm < 9)
  | 5 => t.imm == 0
  | 6 => t.src2 == 0 && decide (t.imm ≤ 10) && decide (t.src1 < 3)
  | _ => t.src2 == 0 && decide (t.imm < 8)

/-- The registers a chain or lane program reads. -/
structure LaneRegs where
  va : VReg
  vb : VReg
  vd : VReg

def regNamed (g : LaneRegs) (n : Nat) : VReg := if n == 0 then g.va else if n == 1 then g.vb else g.vd

/-- Lane i of a register as FP32. -/
def laneIn (e : Engine) (x : VReg) (i : Nat) : Flagged := convert e.etype 2 (elemAt (ew e) x i) 0

def stageSrc (e : Engine) (g : LaneRegs) (i x n : Nat) : Flagged :=
  if n < 3 then laneIn e (regNamed g n) i
  else if n == 3 then (x, 0)
  else ((e.cs.getD (n - 4) 0).toNat, 0)

/-- A value rounded to a memory type and converted back (R506, R508). -/
def throughType (mt k i x : Nat) : Flagged :=
  let (m, fl) := convert 2 mt x (freeElem k i)
  let (r, fl') := convert mt 2 m 0
  (r, fl ||| fl')

/-- One stage on lane i (R506). -/
def runStage (e : Engine) (g : LaneRegs) (k i : Nat) (x : Nat) (t : Stage) : Flagged :=
  let f := Fmt.fp32
  let a := stageSrc e g i x t.src1
  let b := stageSrc e g i x t.src2
  match t.kind with
  | 0 => let (r, fl) := f.fma x a.1 b.1; (r, fl ||| a.2 ||| b.2)
  | 1 => f.expOf x
  | 2 => let (r, fl) := f.max x a.1; (r, fl ||| a.2)
  | 3 => f.scale x (toSigned 7 t.imm)
  | 4 => throughType t.imm k i x
  | 5 =>
    let (u, fl) := f.max x a.1
    let (r, fl') := f.min u b.1
    (r, fl ||| fl' ||| a.2 ||| b.2)
  | 6 =>
    let v := laneIn e (regNamed g t.src1) (i / 2 ^ t.imm)
    let (r, fl) := f.add x v.1
    (r, fl ||| v.2)
  | _ => if bit (mreg e t.imm) i then (x, 0) else a

/-- Stages of chain k, and the chain. -/
def chainCount (e : Engine) (k : Nat) : Nat := e.chainLen.toNat / 2 ^ (4 * k) % 16
def chainStages (e : Engine) (k : Nat) : List Stage := (upto (chainCount e k)).map (stageOf e k)

/-- The registers that word w names. -/
def regsNamed (e : Engine) (w : Word32) : LaneRegs :=
  { va := vreg e (raOf w), vb := vreg e (rbOf w), vd := vreg e (rdOf w) }

/-- Lane i of VCHAIN of word w: a copy for an empty chain, else its stages in order on FP32 (R505, R506). -/
def chainElem (e : Engine) (k : Nat) (w : Word32) (i : Nat) : Flagged :=
  let g := regsNamed e w
  let stages := chainStages e (fw w 3 1)
  if stages.isEmpty then (copyElem e (elemAt (ew e) g.va i), 0)
  else
    let r := stages.foldl (fun (acc : Flagged) t =>
      let (x, fl) := runStage e g k i acc.1 t
      (x, acc.2 ||| fl)) (laneIn e g.va i)
    let (z, fl) := convert 2 e.etype r.1 0
    (z, r.2 ||| fl)

/-- VCHAIN (R505, R506). -/
def execVchain (c : Nat) (s : State) : Res :=
  engRow 0x3E c (fun w => !bit w 0) noRegs (fun y =>
    let w := y.core.w
    let e := y.e
    if 8 < chainCount e (fw w 3 1) || !(chainStages e (fw w 3 1)).all stageLegal then .fault 1
    else toV y (rdOf w) (mapElems (ew e) (active e (fw w 6 4)) (vreg e (rdOf w)) (chainElem e (y.k + 1) w))) s

/-! Lane programs. -/

/-- Fields of a lane word (R508). -/
structure LaneOp where
  op  : Nat
  d   : Nat
  a   : Nat
  b   : Nat
  c   : Nat
  imm : Nat

def laneOp (w : Word32) : LaneOp :=
  { op := fw w 31 28, d := fw w 27 25, a := fw w 24 22, b := fw w 21 19, c := fw w 18 16, imm := fw w 15 0 }

def laneLegal (o : LaneOp) : Bool :=
  match o.op with
  | 0 | 8 => o.imm == 0
  | 1 | 2 | 3 | 4 | 5 => o.c == 0 && o.imm == 0
  | 6 | 7 => o.b == 0 && o.c == 0 && o.imm == 0
  | 9 => o.b == 0 && o.c == 0 && decide (o.imm < 9)
  | 10 => o.a == 0 && o.b == 0 && o.c == 0
  | 11 => o.a == 0 && o.b == 0 && o.c == 0 && decide (o.imm < 4)
  | 12 => o.b == 0 && o.c == 0 && decide (o.imm < 256)
  | _ => false

/-- One operation on the lane's registers x0 to x7. -/
def runLaneOp (e : Engine) (k i : Nat) (x : List Nat) (o : LaneOp) : List Nat × Nat :=
  let f := Fmt.fp32
  let g := fun n => x.getD n 0
  let put := fun (r : Flagged) => (setAt x o.d r.1, r.2)
  match o.op with
  | 0 => put (f.fma (g o.a) (g o.b) (g o.c))
  | 1 => put (f.add (g o.a) (g o.b))
  | 2 => put (f.sub (g o.a) (g o.b))
  | 3 => put (f.mul (g o.a) (g o.b))
  | 4 => put (f.max (g o.a) (g o.b))
  | 5 => put (f.min (g o.a) (g o.b))
  | 6 => put (f.expOf (g o.a))
  | 7 => put (f.rcp (g o.a))
  | 8 =>
    let (less, fl) := fcmp 2 (f.value (g o.a)) (f.value (g o.b))
    put (if less then g o.c else g o.d, fl)
  | 9 => put (throughType o.imm k i (g o.a))
  | 10 => put (o.imm * 2 ^ 16, 0)
  | 11 => put ((e.cs.getD o.imm 0).toNat, 0)
  | _ => put (f.scale (g o.a) (toSigned 8 o.imm))

/-- Words of lane program p, and the program. -/
def laneCount (e : Engine) (p : Nat) : Nat := e.laneLen.toNat / 2 ^ (8 * p) % 64
def laneProgram (e : Engine) (p : Nat) : List LaneOp :=
  (upto (laneCount e p)).map fun j => laneOp (e.laneStore.getD (32 * p + j) 0)

/-- Lane i of VLANE of word w: x0 to x2 hold the lanes of va, vb and vd, and x0 goes to vd (R507, R508). -/
def laneElem (e : Engine) (k : Nat) (w : Word32) (i : Nat) : Flagged :=
  let g := regsNamed e w
  let x0 := laneIn e g.va i
  let x1 := laneIn e g.vb i
  let x2 := laneIn e g.vd i
  let r := (laneProgram e (fw w 3 2)).foldl (fun (acc : List Nat × Nat) o =>
    let (x, fl) := runLaneOp e k i acc.1 o
    (x, acc.2 ||| fl)) ([x0.1, x1.1, x2.1, 0, 0, 0, 0, 0], x0.2 ||| x1.2 ||| x2.2)
  let (z, fl) := convert 2 e.etype (r.1.headD 0) 0
  (z, r.2 ||| fl)

/-- VLANE (R507, R508). -/
def execVlane (c : Nat) (s : State) : Res :=
  engRow 0x3F c (fun w => fw w 1 0 == 0) noRegs (fun y =>
    let w := y.core.w
    let e := y.e
    if 32 < laneCount e (fw w 3 2) || !(laneProgram e (fw w 3 2)).all laneLegal then .fault 1
    else toV y (rdOf w) (mapElems (ew e) (active e (fw w 6 4)) (vreg e (rdOf w)) (laneElem e (y.k + 1) w))) s

/-! Commit. -/

/-- The oldest entry takes effect: registers, flags in FLAGS mode, bytes and the scalar result (R509, R512 to R514). -/
def commitEntry (n : EngEntry) (rest : List EngEntry) (cl : Cluster) : Cluster :=
  let fl := if n.eng.flagsOn then n.flags else 0
  let core := match n.rd with
    | some (rd, v) => { setS rd v cl.core with pendRd := cl.core.pendRd.erase rd }
    | none => cl.core
  n.writes.foldl (fun cl p => areaStore p.1 [p.2] cl)
    { cl with eng := { n.eng with vflags := cl.eng.vflags ||| fl }, engQ := rest, core := core }

/-- ENGINE_COMMIT (R512, R517, R526 to R528). -/
def execEngineCommit (c : Nat) (s : State) : Res :=
  if 160 ≤ c then .fault .noSuchThing else
  match clusterIn c s with
  | none => .next s
  | some x =>
    if !(x.cl.st == 2 || x.cl.st == 3) then .next s else
    match x.cl.engQ with
    | [] => .next s
    | n :: rest =>
      match n.fault with
      | some code =>
        .next (setCore x (fun k => { k with pc := BitVec.ofNat 16 n.pc }) (coreFault x code 0 n.pc s))
      | none => .next (modCluster x.p (commitEntry n rest) s)

end Sys2Proof.Machine
end

