-- ==== Sys2Proof/Machine/Links.lean ====
section
/-!
DEFINITION. Parts that Dawn and service repair alike: lanes and links of the mesh (R113, R115, R819, R820), and rows of Wings
(R821, R822).
-/
namespace Sys2Proof.Machine
open Sys2Proof

/-! Mesh links. -/

/-- A link of the mesh of 16 rows and 11 columns: its end with the lower number, and whether it is vertical. -/
abbrev Link := Nat × Bool

/-- The link at output dir of router p: 0 north, 1 east, 2 south, 3 west, as ARB_MESH_CTRL numbers them. -/
def linkAt (p dir : Nat) : Option Link :=
  let r := p / 11
  let c := p % 11
  if 176 ≤ p then none
  else if dir == 0 then (if r == 0 then none else some (p - 11, true))
  else if dir == 1 then (if c == 10 then none else some (p, false))
  else if dir == 2 then (if r == 15 then none else some (p, true))
  else if dir == 3 then (if c == 0 then none else some (p - 1, false))
  else none

/-- Does the route within row r from column a to column b cross a link? -/
def crossesRow (r a b : Nat) (k : Link) : Bool :=
  !k.2 && k.1 / 11 == r && decide (min a b ≤ k.1 % 11) && decide (k.1 % 11 < max a b)
/-- And within column c from row a to row b? -/
def crossesCol (c a b : Nat) (k : Link) : Bool :=
  k.2 && k.1 % 11 == c && decide (min a b ≤ k.1 / 11) && decide (k.1 / 11 < max a b)

/-- Both orders from p to q cross dead links (R115, R819). -/
def cutOff (dead : List Link) (p q : Nat) : Bool :=
  let rowFirst := dead.any fun k => crossesRow (p / 11) (p % 11) (q % 11) k || crossesCol (q % 11) (p / 11) (q / 11) k
  let colFirst := dead.any fun k => crossesCol (p % 11) (p / 11) (q / 11) k || crossesRow (q / 11) (p % 11) (q % 11) k
  rowFirst && colFirst

def deadSet (s : State) : List Link := s.health.deadLinks.filterMap fun d => linkAt d.1 d.2

/-- A physical cluster that is working: serving, borrowed or a free understudy. -/
def clusterWorks (s : State) (p : Nat) : Bool := (cluster s p).mapState != 2
def clusterServes (s : State) (p : Nat) : Bool := (cluster s p).mapState == 0 || (cluster s p).mapState == 3

/-- The pairs of serving clusters that dead links part, each as its higher physical number (R819). -/
def partedPairs (s : State) : List Nat :=
  let dead := deadSet s
  if dead.isEmpty then [] else
  let l := (upto 176).filter (clusterServes s)
  l.flatMap fun p => l.filter fun q => decide (p < q) && cutOff dead p q

/-! Lanes (R113). -/

/-- Lanes of a link: 32 and 2 spare ones. With at most 2 failing each is steered to a spare; a link with more runs on 16 lanes, and one with
fewer than 16 that work is dead. -/
def linkLanes : Nat := 34
def spareLanes : Nat := 2
def lanesDead (failing : Nat) : Bool := decide (linkLanes - failing < 16)

def linkKey (k : Link) : Nat := 2 * k.1 + b2n k.2
def failingLanes (s : State) (k : Link) : Nat := kgetD s.health.lanes (linkKey k) 0

/-- The link at output dir of router p is dead for the life of the module (R807, R819). -/
def killLink (p dir : Nat) (s : State) : State :=
  syncHealth (healthRecord 3 2 p (Config.recordRepl 3 p none) (modHealth (fun h => { h with deadLinks := h.deadLinks ++ [(p, dir)] }) s))

/-- `failing` lanes of the link at output dir of router p fail: each further one is steered to a spare while one is left; a dead link stays
dead (R113, R820, R825). -/
def steerLanes (p dir failing : Nat) (s : State) : State :=
  match linkAt p dir with
  | none => s
  | some k =>
    if (deadSet s).contains k || failing ≤ failingLanes s k then s
    else
      let s1 := modHealth (fun h => { h with lanes := kset h.lanes (linkKey k) failing }) s
      if lanesDead failing then killLink p dir s1
      else healthRecord 2 (if failing ≤ spareLanes then 0 else 1) p
        (Config.recordRepl 2 p (if failing ≤ spareLanes then some (failing - 1) else none)) s1

/-- Lane counts that a link can have, at outputs that lead to one. -/
def lanesOk (l : List (Nat × Nat × Nat)) : Bool := l.all fun x => (linkAt x.1 x.2.1).isSome && decide (x.2.2 ≤ linkLanes)

/-! Wings rows. -/

/-- A stack and row as REPAIR's target field and a record give them (R654, R825). -/
def rowTarget (stack row : Nat) : Nat := stack + 256 * row

/-- The row of a stack is repaired: its unit moves into the reserve; the repaired unit goes back to the reserve, or with no
repair left in the stack the old unit is retired. The answer is what serves now: the spare row, or the reserve unit
(R654, R821, R822). -/
def repairRow (stack row : Nat) (s : State) : Nat × State :=
  let left := (s.health.pprLeft.getD stack 0).toNat
  let spare := Config.recordRepl 4 stack (some (192 - left))
  let unit := Config.recordRepl 5 stack (some (s.health.wingsRsv.toNat - 1))
  if left != 0 then
    (spare, syncHealth (healthRecord 4 0 (rowTarget stack row) spare
      (modHealth (fun h => { h with pprLeft := modAt h.pprLeft stack (· - 1) }) s)))
  else
    (unit, healthRecord 5 0 (rowTarget stack row) unit (modHealth (fun h => { h with wingsRsv := h.wingsRsv - 1 }) s))

/-- A Wings row has failed: it is repaired, or with an empty reserve WINGS_LOST is set (R821, R822). -/
def failRow (stack row : Nat) (s : State) : State :=
  if s.health.wingsRsv == 0 then raiseCause (2 ^ 17) (healthRecord 5 1 (rowTarget stack row) (Config.recordRepl 5 stack none) s)
  else (repairRow stack row s).2

/-! Stage rows. -/

def spareRows : Nat := 16

/-- n rows of the Stage slice of physical cluster p are replaced by spares; false when they are not enough (R817). -/
def replaceRows (p n : Nat) (s : State) : Bool × State :=
  let used := (cluster s p).rowsUsed
  let m := min n (spareRows - used)
  let s := (upto m).foldl (fun s k => healthRecord 1 0 p (Config.recordRepl 1 p (some (used + k))) s)
    (modCluster p (fun x => { x with rowsUsed := used + m }) s)
  if n == m then (true, s) else (false, healthRecord 1 1 p (Config.recordRepl 1 p none) s)

end Sys2Proof.Machine
end

