-- ==== Sys2Proof/Machine/Measure.lean ====
section
/-!
DEFINITION. The measurement blocks of R790: what FUSE and HOUSE measure (R64, R67), and the blocks that follow the state.
The spec gives what each digest covers and no byte order of it; the digests are of the model's own listing of that content
(notes/assumptions/7.md).
-/
namespace Sys2Proof.Machine
open Sys2Proof

def numBytes (l : List Nat) : List Byte := l.flatMap fun n => leBytes 8 n

/-- Block 1: fuses and repair map. -/
def fuseBytes (s : State) : List Byte :=
  numBytes ([match s.fuses.variant with
      | .f => 0
      | .m => 1
      | .l => 2, s.fuses.baseStep.toNat, s.fuses.metalStep.toNat, s.fuses.secVerMin.toNat, b2n s.fuses.debugOff,
    b2n s.fuses.production] ++ s.health.repairMap)

/-- FUSE measures the fuses and repair map, and the parts of the slot that boots (R64, R790). -/
def measureFuse (slot : Nat) (s : State) : State :=
  let part := fun k => if slot == 3 then 0 else Config.sha384 (Config.fwPart k (fwImage s slot))
  { s with measures := [Config.sha384 (fuseBytes s), part 2, part 3, part 4, 0] }

/-- HOUSE measures the runtime configuration: the tenancy mode and the persisted SET_FEATURE values (R67, R790). -/
def measureConfig (s : State) : State :=
  let eth := s.flash.eth.flatMap fun p => leBytes 8 p.1 ++ leBytes 8 p.2.1.toNat ++ p.2.2
  let pre := s.flash.prestage.flatMap fun p => leBytes 8 p.1 ++ leBytes 8 p.2.toNat
  let digest := Config.sha384 (numBytes [b2n s.flash.tenancy, b2n s.flash.bandwidth] ++ eth ++ pre)
  { s with measures := setAt s.measures 4 digest }

/-- Block 6: the locks, LOCK_FUSE and the rule-lock bits, as they stand. -/
def lockBytes (s : State) : List Byte :=
  numBytes ([b2n s.lock.tenancy, b2n s.lock.fw, b2n s.lock.ide, s.fuses.secVerMin.toNat, b2n s.fuses.debugOff,
    b2n s.fuses.production] ++ (upto 64).filter fun c => ((companyOf s c).map (·.ruleLock)).getD false)

def windowNums (w : Window) : List Nat :=
  [w.kind, w.space, w.rights.toNat, w.scope.toNat, w.base.toNat, w.limit.toNat]
def connNums (e : ConnEntry) : List Nat :=
  [e.connId, e.ports.toNat, e.peerConn, b2n e.ipv6, b2n e.arrive, e.peerPort, e.win, e.agent, e.counter,
   e.peerIp.toNat % 2 ^ 64, e.peerIp.toNat / 2 ^ 64]

/-- Block 7: each existing company in increasing order, its epoch and table. -/
def companyBytes (s : State) : List Byte :=
  s.store.companies.flatMap fun p =>
    let t := p.2.table
    numBytes ([p.1, p.2.epoch.toNat, t.windows.length, t.conns.length, t.graceMs, b2n t.lock])
    ++ leBytes 32 t.cmdAllow.toNat ++ numBytes (t.windows.flatMap windowNums) ++ numBytes (t.conns.flatMap connNums)

/-- Measurement block 1 to 7 (R790). -/
def measureBlock (s : State) (k : Nat) : BitVec 384 :=
  if k == 6 then Config.sha384 (lockBytes s)
  else if k == 7 then Config.sha384 (companyBytes s)
  else s.measures.getD (k - 1) 0

/-- Measurements 2 to 4, from which the Alias key derives (R789). -/
def aliasMeasures (s : State) : List (BitVec 384) := (s.measures.drop 1).take 3

end Sys2Proof.Machine
end

