-- ==== Sys2Proof/Machine/Registers.lean ====
section
/-!
DEFINITION. BAR0 (19_register_map.md): writes to every register under its access code (R15, R835 to R841), the LOCK
block and SANITIZE (R793 to R796, R805), DEV_CTRL and PD6 (R74, R77, R87 to R97), the agent maps (R678), the atomic
window's memory writes (R690, R691, R774), and the value that a read of each register returns (R840, R842).
-/
namespace Sys2Proof.Machine
open Sys2Proof

/-- An 8-byte register slot and the part of it that a write reaches (R836 to R838). -/
def slotOf (off : Nat) : Nat := off / 8 * 8
def partOf (off size : Nat) : Part := if size == 8 then .full else if off % 8 == 0 then .lo else .hi
def inLow (p : Part) : Bool := p != .hi

/-! DEV_CTRL and PD6. -/

/-- An orderly shutdown starts, with or without a restart (R74, R76). -/
def beginShutdown (restart : Bool) (s : State) : State := modDev (fun d => { d with restart := restart, shutdownReq := true }) s

/-- DEV_CTRL (R74, R93, R94): shutdown_req stays 1 once written; restart follows each write. -/
def writeDevCtrl (v : Word32) (s : State) : State :=
  if s.dev.flushed || s.pwr.safeOff then s
  else if bit v 0 then beginShutdown (bit v 1) s
  else modDev (fun d => { d with restart := bit v 1 }) s

/-- SHUTDOWN_REQ (R74, R75, R77, R92 to R94, R906). -/
def execShutdownReq (a : Nat) (v : Word32) (s : State) : Res :=
  if 32 ≤ a then .fault .noSuchThing
  else if !ownerAgent s a || !bit v 0 then .next s
  else .next (writeDevCtrl v s)

/-- Tables are lost when PD6 loses power; the fetch buffer with them (R87, R89). -/
def dropPrompter (s : State) : State := modStore (fun st => { st with tables := [], fetchBuf := none }) s

/-- The domains of CLUSTERS have been switched on, and not all but PD0 off again since (R52, R89, R96). -/
def pd6Due (s : State) : Bool := hasPrompter s && decide (6 ≤ s.dev.dawnPhase.toNat) && !s.pwr.safeOff && !s.dev.flushed

/-- PWR_DOMAIN.pd6_gate (R87, R89, R96); without a Prompter it ignores writes (R12). When 1 is written and then 0 before PD6 has switched off,
no rule says whether the switch-off still comes: it does not, and the tables stay (DESIGN CHOICE, notes/assumptions/117.md). -/
def writeGate (g : Bool) (s : State) : State :=
  if !hasPrompter s then s
  else if g then modPwr (fun p => { p with pd6Gate := true }) s
  else if pd6Due s then modPwr (fun p => { p with pd6Gate := false, on := p.on ||| 0x40 }) s
  else modPwr (fun p => { p with pd6Gate := false }) s

/-- PD6_GATE (R87, R88, R96). -/
def execPd6Gate (a : Nat) (v : Word32) (s : State) : Res :=
  if 32 ≤ a then .fault .noSuchThing
  else if !ownerAgent s a || !bit v 0 then .next s
  else .next (writeGate true s)

/-- PD6_UNGATE (R89). -/
def execPd6Ungate (a : Nat) (v : Word32) (s : State) : Res :=
  if 32 ≤ a then .fault .noSuchThing
  else if !ownerAgent s a || bit v 0 then .next s
  else .next (writeGate false s)

/-- A SKETCH_QUERY or ATTEND_SPARSE dispatched to the Prompter (R87, R97). -/
def prompterBusy (s : State) : Bool := s.taken.any fun t => t.running && (t.opcode == 0x41 || t.opcode == 0x42)

/-- Commands for the Prompter that have not been dispatched to it end with BUSY_RETRY, whenever they are run (R97). -/
def refusePrompter (s : State) : State :=
  { s with taken := s.taken.map fun t =>
      if !t.running && t.refused.isNone && needsPd6 t.opcode t.words then { t with refused := some 0x303 } else t }

/-- PD6_SWITCH_OFF (R87, R97). -/
def execPd6SwitchOff (s : State) : Res :=
  if !s.pwr.pd6Gate || !bit s.pwr.on 6 || prompterBusy s then .next s
  else .next (refusePrompter (dropPrompter (modPwr (fun p => { p with on := p.on &&& 0x3F }) s)))

/-! CXL_AGENT_MAP_a. -/

def mapPort (m : Word32) : Nat := m.toNat / 8 % 8
def agentMapMask : Word32 := 0x8000003B

/-- A write to CXL_AGENT_MAP_a: it takes effect once the ports it names before and after have been reset (R678). -/
def writeAgentMap (a : Nat) (v : Word32) (s : State) : State :=
  if (agent s a).company != 0 || (s.queues.any fun p => p.2.agent == a && (p.1 != 0 || p.2.enabled)) then s
  else modAgent a (fun g =>
    let m := v &&& agentMapMask
    let old := mapPort g.map
    let new := mapPort m
    { g with map := m, waitPorts := if old == new then [old] else [old, new] }) s

/-- AGENT_MAP_WRITE (R678). -/
def execAgentMapWrite (w a : Nat) (v : Word32) (s : State) : Res :=
  if 32 ≤ w || 32 ≤ a then .fault .noSuchThing
  else if !ownerAgent s w then .next s
  else .next (writeAgentMap a v s)

/-! LOCK. -/

/-- A violating write: one violation, whatever its fields (R794). -/
def lockViolation (a off : Nat) (v : Word64) (s : State) : State :=
  postEvent 2 0xFF (w64 (a * 2 ^ 24 + off)) v
    { s with lock := { s.lock with
        woViol := true, violOffset := BitVec.ofNat 20 off, violAgent := BitVec.ofNat 5 a
        violCount := satInc s.lock.violCount } }

def sanitizeCode : Word32 := 0x0000C1EA

/-- Every command ends with ABORTED_RESET, whatever it is (R796). -/
def endEverything (s : State) : State :=
  let s := (abortAll 0x602 (fun _ => true) s).1
  let s := s.taken.foldl (fun s t => finishCore t (status 0x602) s) s
  { s with work := Work.reset
           clusters := kmap s.clusters fun _ c => { scrubbed c.company c with run := none, xfers := [] } }

/-- SANITIZE (R796, R805): marker, intake stopped, commands ended, streams and connections closed, keys erased, Wings,
Stage and the area of R22 zeroized; the restart follows as SAFE_OFF. -/
def startSanitize (s : State) : State :=
  let s := endEverything { s with flash := { s.flash with marker := true } }
  let s := modDev (fun d => { d with shutdownReq := true, forceRestart := true, closeRecord := false }) s
  { s with
    store := { s.store with
      companies := kmap s.store.companies fun _ k => { k with key := none }
      streams := [], scenes := [], weights := [], scratch := [], maps := [], tables := [], fetchBuf := none }
    loft := { s.loft with journal := [], jprog := 0, wbQueue := [], d0 := [], feet := [], stripes := [], openStripe := [], rebuilds := [] }
    conns := [], coherent := [], snoops := [], snoopWaits := [], ulb := [] }

/-- A first write to a WO1 field takes effect; a later one that differs is a violation (R794). -/
def writeLock (a off reg : Nat) (v : Word32) (v64 : Word64) (s : State) : State :=
  let l := s.lock
  let b := bit v 0
  let judge := fun (held written : Bool) (set : State → State) =>
    if !written then set s else if held == b then s else lockViolation a off v64 s
  if reg == 0x3000 then
    judge l.tenancy l.tenancyWritten fun s => { s with lock := { s.lock with tenancy := b, tenancyWritten := true } }
  else if reg == 0x3008 then
    judge l.fw l.fwWritten fun s => { s with lock := { s.lock with fw := b, fwWritten := true } }
  else if reg == 0x3010 then
    judge l.ide l.ideWritten fun s => { s with lock := { s.lock with ide := b, ideWritten := true } }
  else if reg == 0x3018 then
    if l.sanitizeWritten then (if l.sanitize == v then s else lockViolation a off v64 s)
    else
      let s := { s with lock := { s.lock with sanitize := v, sanitizeWritten := true } }
      if v == sanitizeCode then startSanitize s else s
  else s

/-- LOCK_WRITE (R793 to R795). -/
def execLockWrite (a off : Nat) (v : Word32) (s : State) : Res :=
  if 32 ≤ a || 2 ^ 20 ≤ off then .fault .noSuchThing
  else if !ownerAgent s a || off % 8 != 0 then .next s
  else .next (writeLock a off off v (v.zeroExtend 64) s)

/-- SANITIZE: the first write of the code to LOCK_SANITIZE (R796). -/
def execSanitize (a : Nat) (v : Word32) (s : State) : Res :=
  if 32 ≤ a then .fault .noSuchThing
  else if !ownerAgent s a || s.lock.sanitizeWritten || v != sanitizeCode then .next s
  else .next (writeLock a 0x3018 0x3018 v (v.zeroExtend 64) s)

/-! QCFG. -/

/-- QCFG_ACTRL: enable decides which row's effect the write has; with enable 0 and kept 0 the fields take the write
(R570). -/
def writeActrl (v : Word32) (s : State) : State :=
  if bit s.flash.actrl 31 then
    if bit v 31 then s
    else modQueue 0 (fun q => { q with enabled := false }) { s with flash := { s.flash with actrl := s.flash.actrl &&& 0x7FFFFFFF } }
  else
    let s := { s with flash := { s.flash with actrl := v &&& actrlMask } }
    if bit v 31 then restartAdmin s else s

/-! The atomic window. -/

def atomicBase : Nat := 0x80000
/-- A memory write to the atomic window by agent a (R691, R774). -/
def writeAtomic (a woff size : Nat) (v : Word64) (s : State) : State :=
  let c := (agent s a).company
  if !ownCounter c woff then s
  else if (rangeRefused s c 2 1 2 a woff size).isSome then countPortRefusal c s
  else setCounter (slotOf woff) (mergePart (counterAt s woff) (partOf woff size) v) s

/-! Every register. -/

/-- CXL_BW_AGENT_a: the bucket is brought to the present under the old rate, then bounded by the new burst (R699). -/
def writeBandwidth (a : Nat) (v : Word32) (s : State) : State :=
  modAgent a (fun g =>
    let g := refill (now s) g
    let g := { g with burst := BitVec.ofNat 11 (v.toNat / 65536), rate := BitVec.ofNat 7 v.toNat }
    { g with level := min (effBurst g) g.level }) s

/-- QCFG_ASQ and QCFG_ACQ accept writes while enable is 0 (R570). -/
def writeRingBase (old : Word64) (part : Part) (v : Word64) : Word64 := mergePart old part v &&& 0xFFFFFFFFFFFFF000

/-- A write of a 32-bit register, by an agent of company 0. -/
def writeOwner32 (a off reg : Nat) (v : Word32) (v64 : Word64) (s : State) : State :=
  if reg == 0x1000 then (if bit v 12 then modDev (fun d => { d with duskSeen := false }) s else s)
  else if reg == 0x1008 then writeDevCtrl v s
  else if 0x1200 ≤ reg && reg < 0x1280 && reg % 16 == 0 then
    modPort ((reg - 0x1200) / 16) (fun p => { p with
      cfgLd := BitVec.ofNat 2 (v.toNat / 16), cfgSkid := bit v 2, cfgMld := bit v 0 }) s
  else if 0x1300 ≤ reg && reg < 0x1400 then writeAgentMap ((reg - 0x1300) / 8) v s
  else if 0x1400 ≤ reg && reg < 0x1500 then writeBandwidth ((reg - 0x1400) / 8) v s
  else if reg == 0x1540 then if hasStagehand s then { s with shSpray := v.truncate 15 } else s
  else if reg == 0x1600 then if hasStagehand s then { s with shSel := v.truncate 24 } else s
  else if reg == 0x2000 then writeGate (bit v 0) s
  else if reg == 0x2040 then modPwr (fun p => { p with targetPs := v.truncate 16 }) s
  else if reg == 0x2050 then modPwr (fun p => { p with thermC := BitVec.ofNat 8 (v.toNat / 256) }) s
  else if 0x3000 ≤ reg && reg ≤ 0x3018 then writeLock a off reg v v64 s
  else if reg == 0x4000 then { s with evt := { s.evt with cause := s.evt.cause &&& ~~~ (v.truncate 9) } }
  else if reg == 0x4008 then { s with evt := { s.evt with mask := v.truncate 9 } }
  else if reg == 0x4010 then { s with evt := { s.evt with coalUs := v.truncate 16 } }
  else if 0x4100 ≤ reg && reg < 0x4148 then
    { s with evt := { s.evt with route := setAt s.evt.route ((reg - 0x4100) / 8) (v &&& 0x9F0007FF) } }
  else if reg == 0x5100 then { s with arb := { s.arb with starve := s.arb.starve &&& ~~~ (v.truncate 6) } }
  else if reg == 0x6120 then modLoft (fun l => { l with dieSel := v.truncate 10 }) s
  else if reg == 0x6140 then
    modLoft (fun l => { l with rebuildShare := BitVec.ofNat 8 (v.toNat / 65536), scrubDays := BitVec.ofNat 8 (v.toNat / 256),
                               calibMin := v.truncate 8 }) s
  else if reg == 0x7000 then writeEpoch (v.truncate 8) s
  else if reg == 0x20010 then writeActrl v s
  else s

/-- A write of a 64-bit register, by an agent of company 0. -/
def writeOwner64 (reg : Nat) (part : Part) (v : Word64) (s : State) : State :=
  if reg == 0x3020 then
    if inLow part && bit v 0 then { s with lock := { s.lock with woViol := false } } else s
  else if 0x5000 ≤ reg && reg < 0x5030 then writeArbCtrl ((reg - 0x5000) / 8) part v s
  else if reg == 0x20000 then
    if bit s.flash.actrl 31 then s else { s with flash := { s.flash with asq := writeRingBase s.flash.asq part v } }
  else if reg == 0x20008 then
    if bit s.flash.actrl 31 then s else { s with flash := { s.flash with acq := writeRingBase s.flash.acq part v } }
  else s

def reg64 (reg : Nat) : Bool := reg == 0x3020 || (0x5000 ≤ reg && reg < 0x5030) || reg == 0x20000 || reg == 0x20008

/-- The next state of a row, with the state before where it gives none. -/
def after (r : Res) (s : State) : State :=
  match r with
  | .next t => t
  | _ => s

/-- A cluster window (R859). -/
def writeWindow (a reg : Nat) (part : Part) (v : Word64) (s : State) : State :=
  let p := (reg - 0x40000) / 256
  let r := reg % 256
  if !windowWriter s a p then s
  else if r == 0x18 then after (execClusSignal a p part v s) s
  else if r == 0x20 && inLow part then after (execMailboxFlush a p (v.truncate 32) s) s
  else if r == 0x28 && inLow part then modCluster p (fun c => { c with dbgItem := v.truncate 6 }) s
  else s

/-- A BAR0 write that is served: by place, then by writer (R839, R841). -/
def writeReg (a off size : Nat) (v : Word64) (s : State) : State :=
  let reg := slotOf off
  let part := partOf off size
  if 0x10000 ≤ reg && reg < 0x18000 then after (execDoorbell a ((reg - 0x10000) / 8) part v s) s
  else if 0x40000 ≤ reg && reg < 0x4B000 then writeWindow a reg part v s
  else if atomicBase ≤ reg then writeAtomic a (off - atomicBase) size v s
  else if !ownerAgent s a then s
  else if reg64 reg then writeOwner64 reg part v s
  else if inLow part then writeOwner32 a off reg (v.truncate 32) v s
  else s

/-! HDM decoders and the MSI-X table. BAR2 stands behind BAR0 in this row's offsets; the decoder registers lie there as CXL 3.1 gives
them, the capability at BAR2 0x1000 (notes/assumptions/30.md). -/

def bar2 : Nat := 2 ^ 20
def hdmBase : Nat := 0x1010

def Decoder.fresh : Decoder :=
  { base := 0, size := 0, skip := 0, dpa := 0, ways := 0, bi := false, committed := false, notCommitted := false }

/-- The regions of a company's DPA layout as (base, bytes, coherent) (R680). -/
def dpaRegions (s : State) (c : Nat) : List (Nat × Nat × Bool) :=
  let k := (companyOf s c).getD Company.fresh
  [(0, if k.split then k.wingsRes else k.unified, false), (0x400000000000, if k.split then k.stageRes else 0, false),
   (0x410000000000, 0x4000000, true)]

/-- The span of a decoder lies within one region rounded up to 256 MiB, one way, its BI bit right (R681). -/
def mayCommit (s : State) (c : Nat) (x : Decoder) : Bool :=
  x.ways == 0 && x.size != 0 && (dpaRegions s c).any fun r =>
    r.2.1 != 0 && r.1 ≤ x.dpa && decide (x.dpa + x.size.toNat ≤ r.1 + roundUp r.2.1 0x10000000) && x.bi == r.2.2

/-- The DPA at which a decoder starts: after the committed decoders below it, plus its skip. -/
def decoderDpa (m : KMap Decoder) (ld n : Nat) (skip : Word64) : Nat :=
  (((upto n).filterMap fun j => (kget m (4 * ld + j)).filter (·.committed)).map fun x => x.size.toNat + x.skip.toNat).sum
  + skip.toNat

def putHalf (old : Word64) (hi : Bool) (v : Word32) : Word64 :=
  if hi then (old &&& 0xFFFFFFFF) ||| (v.zeroExtend 64 <<< 32)
  else (old &&& 0xFFFFFFFF00000000) ||| (v.zeroExtend 64 &&& 0xF0000000)

/-- A write of the control register: commit 1 tries to commit, commit 0 takes the decoder back (R681). -/
def commitDecoder (s : State) (c dpa : Nat) (v : Word32) (x : Decoder) : Decoder :=
  if !bit v 9 then { x with committed := false, notCommitted := false, ways := fld (v.zeroExtend 64) 7 4, bi := bit v 13 }
  else if x.committed then x
  else
    let x := { x with ways := fld (v.zeroExtend 64) 7 4, bi := bit v 13, dpa := dpa }
    { x with committed := mayCommit s c x, notCommitted := !mayCommit s c x }

/-- A write to one word of a vector's entry: address, data, or the control word with its mask bit; what the mask held back is sent
(R568). -/
def writeMsix (a off : Nat) (v : Word32) (s : State) : State :=
  let k := agentPort s a
  let ld := agentLd s a
  sendPending k ld (setMsix k ld (off / 16) (fun x =>
    match off % 16 with
    | 0 => { x with addr := (x.addr &&& 0xFFFFFFFF00000000) ||| v.zeroExtend 64 }
    | 4 => { x with addr := (x.addr &&& 0xFFFFFFFF) ||| (v.zeroExtend 64 <<< 32) }
    | 8 => { x with data := v }
    | _ => { x with masked := bit v 0 }) s)

/-- A write to the component registers or the MSI-X table of an agent's logical device. -/
def writeComponent (a off : Nat) (v : Word32) (s : State) : State :=
  if msixTable ≤ off && off < msixPending then writeMsix a (off - msixTable) v s
  else if off < hdmBase || hdmBase + 0x80 ≤ off then s else
  let n := (off - hdmBase) / 0x20
  let r := (off - hdmBase) % 0x20
  let ld := agentLd s a
  let key := 4 * ld + n
  let f := fun (m : KMap Decoder) (x : Decoder) =>
    if r == 0x10 then commitDecoder s (agent s a).company (decoderDpa m ld n x.skip) v x
    else if x.committed then x
    else if r == 0 || r == 4 then { x with base := putHalf x.base (r == 4) v }
    else if r == 8 || r == 12 then { x with size := putHalf x.size (r == 12) v }
    else if r == 0x14 || r == 0x18 then { x with skip := putHalf x.skip (r == 0x18) v }
    else x
  modPort (agentPort s a) (fun p => { p with decoders := kmodD p.decoders key Decoder.fresh (f p.decoders) }) s

/-- REGISTER_WRITE (R15, R835 to R841), and writes to the HDM decoders (R681) and the MSI-X table (R568, R674). -/
def execRegisterWrite (a off size : Nat) (v : Word64) (s : State) : Res :=
  if 32 ≤ a || bar2 + 65536 ≤ off then .fault .noSuchThing
  else if !(size == 4 || size == 8) || off % size != 0 || !ioServed s a then .next s
  else if bar2 ≤ off then
    .next (if size == 8 then writeComponent a (off - bar2 + 4) ((v >>> 32).truncate 32) (writeComponent a (off - bar2) (v.truncate 32) s)
           else writeComponent a (off - bar2) (v.truncate 32) s)
  else .next (writeReg a off size v s)

/-! Reads. A read changes nothing (R840), so it is no command of its own. -/

/-- Pack 16-bit fields, least significant first. -/
def pack16 (l : List Nat) : Word64 := l.zipIdx.foldl (fun w (x, k) => w ||| w64 (x % 65536 * 2 ^ (16 * k))) 0

def devStatus (s : State) : Word64 :=
  w64 (s.dev.fwSlot.toNat * 2 ^ 16 + b2n (quiesced s) * 2 ^ 14 + b2n s.dev.roMode * 2 ^ 13 + b2n s.dev.duskSeen * 2 ^ 12
    + (healthState s).toNat * 2 ^ 8 + s.dev.dawnPhase.toNat * 16 + b2n s.dev.curUp)

/-- Milliseconds since a time, saturating at 16 bits (DEV_PTM_STAT). -/
def ageMs (t : Option Nat) (s : State) : Nat :=
  match t with
  | none => 0xFFFF
  | some x => min 0xFFFF ((now s - x) / 1000000)

def portStat (p : Port) : Word64 :=
  w64 ((if p.linkUp then ldCount p else 0) * 2 ^ 16 + portIde p * 2 ^ 14 + p.width.toNat * 16 + p.speed.toNat * 2 + b2n p.linkUp)

/-- ALERT_N (R881). With only PD0 on it follows HEALTH.state alone and otherwise keeps its level: THERM_N and, after a flush, the
state of Dusk do not change then, and a shutdown does not end in Dusk (R883). -/
def alert (s : State) : Bool := healthState s != 0 || s.pwr.inDusk && !s.pwr.safeOff || s.pwr.therm

/-- PERF_BEAT_MEAN over the cluster regions whose monitor works (R107). No rule says how mean_ps is rounded or which of two equally slow regions
slowest names: down, and the lower-numbered (DESIGN CHOICE, notes/assumptions/116.md). -/
def beatMean (s : State) : Word64 :=
  let ok := (upto 16).filter fun k => !bit s.health.monitorBad k
  let v := fun k => (s.perf.beatNow.getD k 0).toNat
  let slow := ok.foldl (fun (m : Nat) k => if v m < v k || bit s.health.monitorBad m then k else m) (ok.headD 0)
  w64 (slow * 65536 + (ok.map v).sum / max 1 ok.length)

/-- LOFT_SPARE.min_headroom over working dies. -/
def minHeadroom (s : State) : Nat :=
  let l := ((upto 1024).filter fun d => (die s d).state == 0).map (headroom s)
  l.foldl min (l.headD 0)

def dieInfo (s : State) : Word64 :=
  let n := s.loft.dieSel.toNat
  let d := die s n
  w64 (min 0xFFFF ((now s - d.calibAt) / 1000000000) * 2 ^ 48 + d.spares * 2 ^ 40 + dieState s n * 2 ^ 32
    + peMost d * 65536 + peMean d)

/-- SH_CONN_INFO, zero for a connection of another company (R721 and its register table). -/
def connInfo (s : State) (reader : Nat) : Word64 :=
  match kget s.conns s.shSel.toNat with
  | none => 0
  | some c =>
    if reader != 0 && reader != c.company then 0
    else w64 (min 1024 c.outMsgs.length * 2 ^ 41 + c.window / 1024 % 32768 * 2 ^ 26 + min 262143 c.srtt * 256 + c.state)

/-- CLUS_DBG_DATA (R860). -/
def debugItem (s : State) (p reader : Nat) : Word64 :=
  let c := cluster s p
  let k := c.dbgItem.toNat
  if s.fuses.debugOff || !(c.st == 4 || c.st == 5) || (reader != 0 && reader != c.company) then 0
  else if k < 32 then sreg c.core k
  else if k == 32 then w64 (predByte c.core)
  else if k == 33 then c.core.pc.zeroExtend 64
  else if k < 50 then c.core.cnt.getD (k - 34) 0
  else if k == 50 then w64 c.eng.vl
  else if k == 51 then w64 c.eng.etype
  else if k == 52 then c.eng.vflags.zeroExtend 64
  else 0

def readWindow (s : State) (reader p r : Nat) : Word64 :=
  let c := cluster s p
  if r == 0 then w64 (c.mapState.toNat * 256 + c.logical.toNat)
  else if r == 8 then w64 (c.core.pc.toNat * 2 ^ 32 + c.company * 2 ^ 20 + c.waitCnt.toNat * 65536 + c.st.toNat)
  else if r == 0x10 then w64 (c.faultPc.toNat * 2 ^ 32 + c.faultInfo.toNat * 65536 + c.faultCode.toNat)
  else if r == 0x18 then w64 (c.sigAmount.toNat * 2 ^ 32 + c.sigCounter.toNat)
  else if r == 0x28 then c.dbgItem.zeroExtend 64
  else if r == 0x30 then debugItem s p reader
  else 0

def readDev (s : State) (reg : Nat) : Word64 :=
  if reg == 0 then (capId s).zeroExtend 64
  else if reg == 0x10 then w64 (capUnits s)
  else if reg == 0x1000 then devStatus s
  else if reg == 0x1008 then w64 (b2n s.dev.restart * 2 + b2n s.dev.shutdownReq)
  else if reg == 0x1010 then s.dev.time
  else if 0x1100 ≤ reg && reg < 0x1180 then
    let p := port s ((reg - 0x1100) / 16)
    if reg % 16 == 0 then p.ptmOfs
    else w64 (p.ptmDelay.toNat * 2 ^ 32 + ageMs p.ptmLast s * 65536 + b2n p.ptmValid)
  else if 0x1200 ≤ reg && reg < 0x1280 then
    let p := port s ((reg - 0x1200) / 16)
    if reg % 16 == 0 then w64 (p.cfgLd.toNat * 16 + b2n p.cfgSkid * 4 + b2n p.cfgMld) else portStat p
  else if 0x1300 ≤ reg && reg < 0x1400 then (agent s ((reg - 0x1300) / 8)).map.zeroExtend 64
  else if 0x1400 ≤ reg && reg < 0x1500 then
    let g := agent s ((reg - 0x1400) / 8)
    w64 (g.burst.toNat * 65536 + g.rate.toNat)
  else if 0x1500 ≤ reg && reg < 0x1520 then
    if !hasEth s then 0 else
    let e := ethPort s ((reg - 0x1500) / 8)
    w64 (b2n e.gw * 4 + b2n e.fecLock * 2 + b2n e.linkUp)
  else if reg == 0x1540 then if hasStagehand s then s.shSpray.zeroExtend 64 else 0
  else if reg == 0x1600 then if hasStagehand s then s.shSel.zeroExtend 64 else 0
  else 0

def readPwr (s : State) (reg : Nat) : Word64 :=
  let p := s.pwr
  if reg == 0x2000 then w64 (p.on.toNat * 256 + b2n p.pd6Gate)
  else if reg == 0x2008 then p.supplyMv.zeroExtend 64
  else if reg == 0x2010 then 0x00002BC02A302580
  else if reg == 0x2018 then w64 (b2n p.holdupWeak * 8 + b2n p.safeOff * 4 + b2n p.lastClean * 2 + b2n p.inDusk)
  else if reg == 0x2020 then w64 (p.duskEntries.toNat * 65536 + p.powerLosses.toNat)
  else if reg == 0x2028 then p.holdupUs.zeroExtend 64
  else if reg == 0x2030 then p.dawnMs.zeroExtend 64
  else if reg == 0x2038 then w64 (b2n p.targetMiss * 2 ^ 24 + p.tjC.toNat * 65536 + p.railMv.toNat)
  else if reg == 0x2040 then p.targetPs.zeroExtend 64
  else if reg == 0x2048 then w64 (b2n p.therm * 8 + b2n (alert s) * 4
    + (if s.dev.curUp then b2n p.forceRo * 2 + b2n p.quiesceIn else b2n p.forceRoCnt * 2 + b2n p.quiesceCnt))
  else if reg == 0x2050 then w64 (0x73 * 65536 + p.thermC.toNat * 256 + p.peakC.toNat)
  else if reg == 0x2058 then w64 (0x0384 * 65536 + p.inputW.toNat)
  else 0

def readLock (s : State) (reader reg : Nat) : Word64 :=
  let l := s.lock
  if reg == 0x3000 then w64 (b2n l.tenancy)
  else if reg == 0x3008 then w64 (b2n l.fw)
  else if reg == 0x3010 then w64 (b2n l.ide)
  else if reg == 0x3018 then l.sanitize.zeroExtend 64
  else if reg == 0x3020 then
    w64 (l.violOffset.toNat * 2 ^ 32 + l.violAgent.toNat * 2 ^ 24 + l.violCount.toNat * 65536 + b2n l.woViol)
  else if reg == 0x3028 then
    w64 (((upto 64).filter fun c => ((companyOf s c).map (·.ruleLock)).getD false).map fun c => 2 ^ c).sum
  else if reg == 0x3040 then
    if s.fuses.loaded then w64 (s.fuses.secVerMin.toNat * 2 ^ 32 + b2n s.fuses.debugOff * 2 + b2n s.fuses.production) else 0
  else if 0x3100 ≤ reg && reg < 0x3300 then
    let c := (reg - 0x3100) / 8
    if reader != 0 && reader != c then 0 else
    let v := kgetD l.ruleViol c (0, 0)
    w64 (v.1.toNat * 2 ^ 32 + v.2.toNat)
  else 0

def readEvt (s : State) (reg : Nat) : Word64 :=
  if reg == 0x4000 then s.evt.cause.zeroExtend 64
  else if reg == 0x4008 then s.evt.mask.zeroExtend 64
  else if reg == 0x4010 then s.evt.coalUs.zeroExtend 64
  else if 0x4100 ≤ reg && reg < 0x4148 then (s.evt.route.getD ((reg - 0x4100) / 8) 0).zeroExtend 64
  else if 0x4200 ≤ reg && reg < 0x4248 then (s.evt.count.getD ((reg - 0x4200) / 8) 0).zeroExtend 64
  else 0

def readHealth (s : State) (reg : Nat) : Word64 :=
  let l := s.loft
  if reg == 0x6000 then healthWord s
  else if reg == 0x6008 then w64 (leNat s.health.pprLeft)
  else if reg == 0x6010 then w64 (s.health.wingsRsv.toNat * 65536 + s.health.stageRows.toNat)
  else if reg == 0x6018 then s.health.lifeS
  else if reg == 0x6100 then
    w64 (l.roCause.toNat * 2 ^ 30 + l.rebuildPct.toNat * 65536 + b2n l.rebuildActive * 32768 + l.failedDies.toNat)
  else if reg == 0x6108 then w64 (minHeadroom s * 2 ^ 32 + l.spareLeft.toNat)
  else if reg == 0x6110 then pack16 [l.peAvg.toNat, l.peMax.toNat, l.pctUsed.toNat]
  else if reg == 0x6118 then l.gbWritten
  else if reg == 0x6120 then l.dieSel.zeroExtend 64
  else if reg == 0x6128 then dieInfo s
  else if reg == 0x6140 then w64 (l.rebuildShare.toNat * 65536 + l.scrubDays.toNat * 256 + l.calibMin.toNat)
  else 0

def readPerf (s : State) (reg : Nat) : Word64 :=
  let p := s.perf
  let q := s.perf2
  if reg == 0x7000 then p.beatEpoch.zeroExtend 64
  else if reg == 0x7008 then beatMean s
  else if 0x7100 ≤ reg && reg < 0x7190 then
    let k := (reg - 0x7100) / 8
    if k == 17 && !hasPrompter s then 0
    else pack16 [(p.beatNow.getD k 0).toNat, (p.beatMin.getD k 0).toNat, (p.beatMax.getD k 0).toNat]
  else if reg == 0x7200 then w64 (p.loftPoisoned.toNat * 2 ^ 32 + p.loftLoads.toNat)
  else if reg == 0x7208 then pack16 [p.poisonLate.toNat, p.poisonMedia.toNat, p.unmapped.toNat]
  else if reg == 0x7210 then pack16 [p.lateWings.toNat, p.lateLoft.toNat, p.lateRetry.toNat, p.lateCalib.toNat]
  else if reg == 0x7300 then pack16 [p.suspends.toNat, p.retentionMoves.toNat, p.disturbMoves.toNat, p.calibHolds.toNat]
  else if reg == 0x7400 then w64 (q.cueLate.toNat * 2 ^ 48 + q.cueDegraded.toNat * 2 ^ 32 + q.cueMissed.toNat)
  else if reg == 0x7408 then q.ulbHits
  else if reg == 0x7410 then w64 (q.ulbInval.toNat * 2 ^ 32 + q.ulbMisses.toNat)
  else if reg == 0x7500 then w64 (q.attTooLarge.toNat * 2 ^ 48 + q.attSplit.toNat * 2 ^ 32 + q.attExcluded.toNat)
  else if reg == 0x7508 then w64 (stageBudget s)
  else if reg == 0x7600 then
    if hasPrompter s then w64 (q.pagesScored.toNat * 2 ^ 32 + q.spillFetches.toNat * 65536 + q.sketchFails.toNat) else 0
  else if reg == 0x7608 then
    if hasPrompter s then
      w64 ((s.store.tables.map fun t => 2 ^ t.1).sum * 2 ^ 48 + min (tableBytes (tablesHeld s) - tableMemory) 0xFFFFF * 2 ^ 24
        + min (tableBytes (tablesHeld s)) tableMemory)
    else 0
  else if reg == 0x7700 then w64 (q.scrubs.toNat * 2 ^ 32 + q.cycles.toNat * 65536 + q.orphans.toNat)
  else if reg == 0x7800 then pack16 [q.spills.toNat, q.flushes.toNat, q.waitCycles.toNat, q.badDoorbells.toNat]
  else if 0x7900 ≤ reg && reg < 0x7940 then
    let k := port s ((reg - 0x7900) / 8)
    pack16 [k.perfIde.toNat, k.perfCto.toNat, k.perfPoison.toNat, k.perfBi.toNat]
  else if reg == 0x7A00 then
    if hasStagehand s then w64 (q.shRetransmits.toNat * 2 ^ 32 + q.shDropped.toNat * 65536 + q.shLost.toNat) else 0
  else if reg == 0x7B00 then w64 (q.earlyWrites.toNat * 2 ^ 32 + q.earlyReads.toNat)
  else if reg == 0x7B08 then q.sealedWrites.zeroExtend 64
  else 0

/-- The 8-byte slot at BAR0 offset reg as agent a reads it (R835 to R842, R844 to R861). -/
def readReg (s : State) (a reg : Nat) : Word64 :=
  let reader := (agent s a).company
  if reg < 0x1600 then readDev s reg
  else if reg == 0x1600 then readDev s reg
  else if reg == 0x1608 then if hasStagehand s then connInfo s reader else 0
  else if reg < 0x3000 then readPwr s reg
  else if reg < 0x4000 then readLock s reader reg
  else if reg < 0x5000 then if reader == 0 then readEvt s reg else 0
  else if reg < 0x5030 then
    let j := (reg - 0x5000) / 8
    if classPresent s j then arbCtrl s j else 0
  else if reg == 0x5100 then s.arb.starve.zeroExtend 64
  else if 0x5110 ≤ reg && reg < 0x5140 then (s.arb.src.getD ((reg - 0x5110) / 8) 0).zeroExtend 64
  else if reg < 0x6000 then 0
  else if reg < 0x7000 then readHealth s reg
  else if reg < 0x8000 then readPerf s reg
  else if 0x10000 ≤ reg && reg < 0x18000 then
    match queue s ((reg - 0x10000) / 8) with
    | some q => w64 (q.cqHead * 2 ^ 32 + q.sqTail)
    | none => 0
  else if reg == 0x20000 then s.flash.asq
  else if reg == 0x20008 then s.flash.acq
  else if reg == 0x20010 then s.flash.actrl.zeroExtend 64
  else if 0x40000 ≤ reg && reg < 0x4B000 then readWindow s reader ((reg - 0x40000) / 256) (reg % 256)
  else if atomicBase ≤ reg then
    if ownCounter reader (reg - atomicBase) && (rangeRefused s reader 2 1 1 a (reg - atomicBase) 8).isNone
    then counterAt s (reg - atomicBase) else 0
  else 0

end Sys2Proof.Machine
end

