-- ==== Sys2Proof/Machine/Power.lean ====
section
/-!
DEFINITION. Resets (R52 to R57), Dawn (R58 to R73, R812, R905), the orderly shutdown (R74 to R76, R906), Dusk (R78 to
R81, R90), power loss (R82 to R86, R904), and the readings of rail, temperature and power (R101 to R105, R107, R143,
R882 to R887) with the sideband pins (R876 to R880).
-/
namespace Sys2Proof.Machine
open Sys2Proof

/-! Resets. -/

/-- What is kept of a die across a reset: its blocks, their wear and those that wait to be erased, an abandoned erase among them
(R293, R304, R843). Calibrations are loaded from the Loft, with their times, which a power-on makes zero with DEV_TIME (R58). -/
def dieAfterReset (keep : Bool) (d : Die) : Die :=
  { d with op := none, suspends := 0, suspended := false, suspendAt := 0, duskHeld := false, reads := 0, busySince := none
           heldAt := none, calibAt := if keep then d.calibAt else 0
           blocks := d.blocks.map fun p => (p.1, { p.2 with moving := p.2.moving && (p.2.bad || d.erases.contains p.1) }) }

/-- A unit across a reset: one in the program buffer stays there, and one that waits outside it is lost with Wings; what was being
written is in no copy that the index names (R60, R83, R98). -/
def unitAfterReset (u : LUnit) : LUnit :=
  { u with
    st := if u.st == .done || u.st == .outside then .done else .buffered
    lost := u.lost || u.st == .outside, spans := u.spans.filter (·.home) }

/-- A stripe across a reset: it takes no further footprint. -/
def stripeAfterReset (p : Stripe) : Stripe := { p with closed := true, units := p.units.map unitAfterReset }

def portAfterReset (t : Nat) (p : Port) : Port :=
  { Port.fresh with cfgLd := p.cfgLd, cfgSkid := p.cfgSkid, cfgMld := p.cfgMld, actLd := p.cfgLd, actSkid := p.cfgSkid
                    actMld := p.cfgMld, resetEnd := t }

def pwrAfterReset (keep : Bool) (p : PwrBlk) : PwrBlk :=
  { PwrBlk.reset with
    on := p.on, supplyMv := p.supplyMv, lastClean := p.lastClean, duskEntries := p.duskEntries
    powerLosses := p.powerLosses, tjC := p.tjC, inputW := p.inputW
    peakC := if keep then p.peakC else 0, therm := keep && p.therm
    quiesceCnt := p.quiesceCnt, forceRoCnt := p.forceRoCnt, lossAt := p.lossAt }

/-- The Loft across a reset: what the medium, the journal and the program buffer hold (R41, R60, R98, R266, R267, R293). The full scrub pass
starts after a power-on, at lifetime second t. -/
def loftAfterReset (keep : Bool) (t : Nat) (l : LoftBlk) : LoftBlk :=
  { LoftBlk.reset with
    roCause := l.roCause, rebuildPct := l.rebuildPct, rebuildActive := l.rebuildActive, failedDies := l.failedDies
    spareLeft := l.spareLeft, pctUsed := l.pctUsed, peMax := l.peMax, peAvg := l.peAvg, gbWritten := l.gbWritten
    remainder := l.remainder, dies := kmap l.dies fun _ d => dieAfterReset keep d, rebuilding := l.rebuilding
    written := l.written, ckptAt := if keep then l.ckptAt else 0, jcount := l.jcount, jchans := l.jchans, lossMarker := l.lossMarker
    stripes := kmap l.stripes fun _ p => stripeAfterReset p, nextStripe := l.nextStripe, groupCount := l.groupCount
    nextItem := l.nextItem, roItem := l.roItem, rebuildTotal := l.rebuildTotal
    rebuilds := l.rebuilds.map fun r => { r with target := none, issued := false }
    scrubPass := if keep then l.scrubPass else some t }

/-- What Stage, Wings and the units beside them hold is lost when their domains are switched off, with all that is in flight (R24, R41). -/
def dropVolatile (s : State) : State :=
  { s with
    snoops := [], snoopWaits := [], coherent := [], atomics := [], eth := [], conns := [], taken := [], work := Work.reset, ulb := []
    agents := kmap s.agents fun _ g => { g with waiting := [] }
    store := { s.store with streams := [], scenes := [], weights := [], scratch := [], maps := [], tables := [], lingering := [], fetchBuf := none }
    clusters := kmap s.clusters fun _ c =>
      { Cluster.fresh with mapState := c.mapState, logical := c.logical, rowsUsed := c.rowsUsed } }

/-- What the device holds of its companies before LOFT has loaded the index: their ranges and rules act from the first answer of a port on
(R68); after a sanitize only company 0 is left (R796, R910). -/
def bootDisk (s : State) : Disk :=
  if s.flash.marker then { Disk.reset with companies := [(0, { Company.zero with key := none })] } else replay s.loft.written s.disk

/-- A company as a reset leaves it: programs and PRESTAGE are lost (R41). -/
def bootCompany (c : Company) : Company := { c with programs := [], prestage := 0, dying := false }

/-- Every register at its reset value but those R57 keeps, and everything that R41 marks lost gone (R57, R843). `keep`
says that PD0 stayed powered. -/
def resetAll (keep : Bool) (s : State) : State :=
  let t := if keep then s.dev.time else 0
  let s1 := { s with
    fuses := { s.fuses with loaded := keep && s.fuses.loaded }
    dev := { DevBlk.reset with
      time := t, closeRecord := s.dev.closeRecord, attempts := if keep then s.dev.attempts else 0
      otherSlot := keep && s.dev.otherSlot }
    pwr := pwrAfterReset keep s.pwr
    lock := if keep then { s.lock with ruleViol := [] } else LockBlk.reset
    evt := { EvtBlk.reset with
      coalUs := if keep then s.evt.coalUs else EvtBlk.reset.coalUs
      route := if keep then s.evt.route else EvtBlk.reset.route }
    arb := ArbBlk.reset
    health := { s.health with
      receiver := if keep then s.health.receiver else none, waiting := if keep then s.health.waiting else []
      eid := if keep then s.health.eid else 0 }
    loft := loftAfterReset keep s.health.lifeS.toNat s.loft
    perf := PerfBlk.reset, perf2 := PerfBlk2.reset
    ports := kmap s.ports fun _ p => portAfterReset t.toNat p
    agents := kmap s.agents fun a g =>
      { g with eff := g.map, waitPorts := [], level := effBurst g, filledAt := t.toNat, waiting := []
               company := kgetD (bootDisk s).agents a 0 } }
  dropStale (dropVolatile { s1 with
    sessions := [], spdm := [], measures := List.replicate 5 0, shSpray := 0x0100, shSel := 0, turn := (0, 0), errLog := []
    queues := [(0, adminQueue { s1 with queues := [] })]
    store := { Store.reset with
      companies := kmap (bootDisk s).companies fun _ c => bootCompany c, handles := s.store.handles, seals := s.store.seals
      tenancy := s.flash.tenancy, bandwidth := s.flash.bandwidth }
    clusters := kmap s.clusters fun _ c => { Cluster.fresh with rowsUsed := c.rowsUsed } })

/-! Dawn. -/

/-- Bits 16 to 20 of HEALTH.cause are cleared at the start of each Dawn (R807). -/
def clearFailed (s : State) : State :=
  let c0 := s.health.cause
  reportHealth c0 (modHealth (fun h => { h with cause := h.cause &&& 0xFFE0FFFF }) s)

/-- Start a Dawn from FUSE: PD5 comes on (R52, R58). -/
def startDawn (s : State) : State :=
  let s := resetAll true s
  let s := { s with
    dev := { s.dev with dawnPhase := 1, dawnStart := s.dev.time, phaseStart := s.dev.time }
    pwr := { s.pwr with on := 0x21 } }
  updateRo (clearFailed s)

/-- The supply as measured, with the time since which it has been below 9.6 V (R904). -/
def setSupply (mv : BitVec 16) (s : State) : State :=
  modPwr (fun p => { p with supplyMv := mv, lossAt := if mv.toNat < 9600 then some (p.lossAt.getD (now s)) else none }) s

/-- The supply is applied: PD0 comes on and waits in phase 0 for it to be high enough (R52, R58). -/
def powerUp (s : State) : State :=
  let s := resetAll false { s with pwr := { s.pwr with lossAt := none } }
  { s with pwr := { s.pwr with on := 1 }, dev := { s.dev with cold := true } }

/-- POWER_ON: the supply has been held above 11.2 V for 10 ms (R52, R57). -/
def execPowerOn (mv : BitVec 16) (s : State) : Res :=
  if (bit s.pwr.on 0 && !s.dev.cold) || mv.toNat ≤ 11200 then .next s
  else .next (startDawn (setSupply mv (if bit s.pwr.on 0 then s else powerUp s)))

/-- A Dawn is due: PD0 is on, nothing of a Dawn runs, and no flush, shutdown or first power-on holds it (R58, R76). -/
def dawnDue (s : State) : Bool :=
  bit s.pwr.on 0 && !s.dev.flushed && !s.dev.cold
  && (if s.pwr.safeOff then s.dev.restart || s.dev.forceRestart else s.dev.dawnPhase == 0)

/-- DAWN (R58, R76). -/
def execDawn (s : State) : Res := if dawnDue s then .next (startDawn s) else .next s

/-- A phase that cannot complete stops Dawn with the given causes (R62, R807). -/
def stopDawn (bits : Nat) (s : State) : State :=
  raiseCause bits (modDev (fun d => { d with stopped := true }) s)

/-- Go on to a phase, its domains coming on (R52). -/
def enterPhase (p : BitVec 4) (domains : BitVec 7) (s : State) : State :=
  { s with dev := { s.dev with dawnPhase := p, phaseStart := s.dev.time }, pwr := { s.pwr with on := s.pwr.on ||| domains } }

/-- TRIM starts: PD1 and PD2 come on at the rail of Dusk, or at the value that the rail has before TRIM sets it, which no rule states:
a free value (R52, R90, R105; notes/assumptions/2.md). -/
def enterTrim (s : State) : State :=
  let (f, s) := takeFree s
  let r := BitVec.ofNat 16 f.toNat
  enterPhase 2 0x06 (modPwr (fun p => { p with railChosen := r, railMv := if p.inDusk then 720 else r }) s)

/-- The slot holds an image: one that was shipped or has been downloaded, whether or not FW_COMMIT has verified it (R64, R656). -/
def slotHolds (s : State) (k : Nat) : Bool :=
  let f := kgetD s.fw k FwSlot.fresh
  f.state != 0 || !f.image.isEmpty

/-- The image of a slot verifies (R64, step 3): with no image it never does. -/
def slotVerifies (s : State) (k : Nat) : Bool :=
  let f := kgetD s.fw k FwSlot.fresh
  slotHolds s k && Config.fwSigned f.image && decide (s.fuses.secVerMin.toNat ≤ Config.fwSecVer f.image)

/-- The slot that the active-slot pointer names, or after three failed attempts with it the other one (R63, R64). -/
def firstSlot (s : State) : Nat := if s.dev.otherSlot then b2n (!s.flash.activeSlot) else b2n s.flash.activeSlot

/-- The slot that boots, or 3 (R63 to R65). -/
def bootSlot (s : State) : Nat :=
  let first := firstSlot s
  if slotVerifies s first then first else if slotVerifies s (1 - first) then 1 - first else 3

/-- The verdict on a slot as log 0x04 records it. -/
def judgeSlot (k : Nat) (s : State) : State :=
  let ok := slotVerifies s k
  if !slotHolds s k then s else
  { s with fw := kmod s.fw k fun f => { f with state := if ok then 1 else 2, measure := Config.fwDigest f.image } }

/-- FUSE verifies the first slot, and the other only when that fails (R64, steps 3 and 4). -/
def judgeSlots (s : State) : State :=
  let first := firstSlot s
  if slotVerifies s first then judgeSlot first s else judgeSlot (1 - first) (judgeSlot first s)

def endFuse (o : PhaseOutcome) (s : State) : State :=
  let s := { s with fuses := { s.fuses with loaded := true }, pwr := { s.pwr with lastClean := s.dev.closeRecord } }
  if !o.houseOk then stopDawn (2 ^ 20 + 2 ^ 18) s
  else
    let k := bootSlot s
    let s := judgeSlots s
    let s := modDev (fun d => { d with fwSlot := BitVec.ofNat 2 k }) s
    -- a sanitize that was cut short erases the key slots here (R910)
    let s := if s.flash.marker then
        { s with disk := { s.disk with companies := kmap s.disk.companies fun _ c => { c with key := none } } } else s
    let s := measureFuse k s
    if k == 3 then stopDawn (2 ^ 19) s else enterTrim s

/-- Rails of R101: the lowest step of 5 mV from 0.72 V to 0.88 V that is not below n. -/
def clampRail (n : Nat) : Nat := max 720 (min 880 ((n + 4) / 5 * 5))

/-- PWR_RAIL_CTRL.target_ps as it acts (R103). -/
def target (s : State) : Nat := max 550 (min 950 s.pwr.targetPs.toNat)

/-- Some region with a working monitor, of those given, has a beat above the target. -/
def overTarget (s : State) (beats : List (BitVec 16)) : Bool :=
  (upto 16).any fun k => !bit s.health.monitorBad k && decide (target s < (beats.getD k 0).toNat)

/-- Readings of the 18 regions: a failed monitor reads 0xFFFF, and without a Prompter region 17 reads zero. The first reading since the
reset starts min_ps and max_ps (R12, R107, R152). -/
def readBeats (beats : List (BitVec 16)) (s : State) : State :=
  let v := fun k => if k == 17 && !hasPrompter s then 0 else if bit s.health.monitorBad k then 0xFFFF else beats.getD k 0
  modPerf (fun p => { p with
    beatNow := (upto 18).map v
    beatMin := (upto 18).map fun k => let x := v k; let m := p.beatMin.getD k 0; if m == 0 || x.toNat < m.toNat then x else m
    beatMax := (upto 18).map fun k => let x := v k; let m := p.beatMax.getD k 0; if m.toNat < x.toNat then x else m })
    s

def endTrim (o : PhaseOutcome) (s : State) : State :=
  let r := BitVec.ofNat 16 (clampRail o.railMv.toNat)
  let s := readBeats o.beats s
  enterPhase 3 0x18 (modPwr (fun p => { p with railChosen := r, railMv := if p.inDusk then 720 else r }) s)

def endPhy (o : PhaseOutcome) (s : State) : State :=
  let s := measureHoldup o.holdupUs s
  if !o.deadStacks.isEmpty then stopDawn (2 ^ 17 + 2 ^ 18) s else enterPhase 4 0 s

/-- The end of WINGS: rows that post-package repair replaced are repaired as in service, while the reserve has a unit for them
(R58, R62, R821, R822). -/
def endWings (o : PhaseOutcome) (s : State) : State :=
  let (s, ok) := o.wingsRows.foldl (fun q p => if q.1.health.wingsRsv == 0 then (q.1, false) else ((repairRow p.1 p.2 q.1).2, q.2)) (s, true)
  if !o.deadStacks.isEmpty || !ok then stopDawn (2 ^ 17 + 2 ^ 18) s
  else enterPhase 5 0 { s with ports := (upto 8).foldl (fun m k => kmodD m k Port.fresh fun p => { p with memActive := true }) s.ports }

/-- The index as the journal and the checkpoint give it (R41, R60, R191); after a sanitize the module as shipped, with
slot 0 newly keyed (R796, R910). -/
def loadIndex (o : PhaseOutcome) (s : State) : State :=
  let s := if s.flash.marker then
      { s with disk := { Disk.reset with companies := [(0, { Company.zero with key := some s.free })] }
               flash := { s.flash with prestage := [] }, free := s.free + 1
               loft := { s.loft with written := [], stripes := [], rebuilds := [], rebuildTotal := 0 } }
    else modLoft (fun l => { l with written := survivors o.journalA o.journalB l.written }) s
  let d := replay s.loft.written s.disk
  { s with
    store := { s.store with
      companies := kmap d.companies fun _ c => bootCompany c
      models := kmap d.models fun _ m => { m with retiring := false }
      scenes := d.scenes.map fun x => loftScene x x.putAt, weights := d.weights.map loftWeights }
    agents := (upto 32).foldl (fun m a => kmodD m a (Agent.shipped a) fun g => { g with company := kgetD d.agents a 0 }) s.agents }

/-- Copies on the medium that the index does not name, whose record is lost, are stale (R60, R268). -/
def dropUnnamed (s : State) : State :=
  dropStale (dropData (fun o _ => match o with
    | .page c id _ => !s.store.scenes.any fun x => x.company == c && x.id == id
    | .chunk _ n _ _ => !s.store.weights.any (·.setNum == n)) s)

/-- The end of LOFT: the die scan, the index, and the checkpoint, after which programs may be issued (R58, R60, R61). -/
def endLoft (o : PhaseOutcome) (s : State) : State :=
  let s := dropUnnamed (loadIndex o s)
  let s := o.deadDies.foldl (fun s d => if dieWorks s d then failDie d s else s) s
  let s := if bankHeld s then s else startJournal (afterMedium (dawnCheckpoint s))
  enterPhase 6 (if hasPrompter s && !s.pwr.pd6Gate then 0x40 else 0) s

/-! The CLUSTERS phase (R118, R119, R812). -/

/-- Working physical clusters of a row, by column. -/
def rowWorking (bad : List Nat) (r : Nat) : List Nat := ((upto 11).map fun c => 11 * r + c).filter fun p => !bad.contains p

/-- Logical clusters with the physical cluster of their own row, and those that lack one. -/
def ownRow (bad : List Nat) (n : Nat) : Option Nat := (rowWorking bad (n / 10))[n % 10]?

/-- Rows by distance from row r, the lower-numbered first (R119). -/
def rowsByDistance (r : Nat) : List Nat :=
  (upto 15).flatMap fun d => (if d + 1 ≤ r then [r - (d + 1)] else []) ++ (if r + d + 1 < 16 then [r + d + 1] else [])

/-- The free understudy that takes over logical row r among the free ones: first of its own row, then of the nearest
(R119, R120). -/
def pickUnderstudy (free : List Nat) (r : Nat) : Option Nat :=
  (r :: rowsByDistance r).findSome? fun x => free.find? fun p => p / 11 == x

/-- The map of all logical clusters: (logical, physical), with the free understudies left. Where several lack a cluster and compete for one
understudy, no rule gives their order: they choose in increasing logical number (DESIGN CHOICE, notes/assumptions/114.md). -/
def mapClusters (bad : List Nat) : List (Nat × Nat) × List Nat :=
  let own := (upto 160).filterMap fun n => (ownRow bad n).map fun p => (n, p)
  let used := own.map (·.2)
  let free := (upto 176).filter fun p => !bad.contains p && !used.contains p
  ((upto 160).filter fun n => (ownRow bad n).isNone).foldl (fun (m, f) n =>
    match pickUnderstudy f (n / 10) with
    | some p => (m ++ [(n, p)], f.filter (· != p))
    | none => (m, f)) (own, free)

/-- CLUS_MAP of every physical cluster (R118, R119). -/
def setMap (bad : List Nat) (s : State) : State :=
  let (m, free) := mapClusters bad
  { s with clusters := (upto 176).map fun p =>
      let c := cluster s p
      (p, match m.find? fun x => x.2 == p with
        | some x => { c with mapState := if x.1 / 10 == p / 11 then 0 else 3, logical := BitVec.ofNat 8 x.1 }
        | none => { c with mapState := if free.contains p then 1 else 2, logical := 0xFF }) }

/-- Fail clusters until dead links part no pair of serving ones, the map being made anew each time (R113, R819): of the pairs that are parted
a free value names the one whose higher number is defective (notes/assumptions/82.md). -/
def mendMesh : Nat → List Nat → State → List Nat × State
  | 0, bad, s => (bad, setMap bad s)
  | n + 1, bad, s =>
    let s := setMap bad s
    match partedPairs s with
    | [] => (bad, s)
    | l =>
      let (f, s) := takeFree s
      mendMesh n (bad ++ [l.getD (f.toNat % l.length) 0]) s

/-- The end of CLUSTERS: lanes are steered, Stage rows replaced, defective clusters leave, and logical clusters are mapped (R58, R113, R118,
R812, R817, R819, R824). -/
def endClusters (o : PhaseOutcome) (s : State) : State :=
  let s := o.lanes.foldl (fun s x => steerLanes x.1 x.2.1 x.2.2 s) s
  let (short, s) := o.stageRows.foldl (fun q x =>
    let (ok, s) := replaceRows x.1 x.2 q.2
    (if ok then q.1 else q.1 ++ [x.1], s)) (([] : List Nat), s)
  let bad := s.health.repairMap ++ ((o.defective ++ short).eraseDups.filter fun p => !s.health.repairMap.contains p && decide (p < 176))
  let (bad, s) := if 16 < bad.length then (bad, setMap bad s) else mendMesh 176 bad s
  let failed := fun (n : Nat) (was is : Bool) (s : State) =>
    if is && !was then healthRecord 9 2 (Config.recordTarget 9 n 0) (Config.recordRepl 9 n none) s else s
  let s := failed 1 s.health.stagehandFailed (o.stagehandFails && hasStagehand s)
    (failed 0 s.health.prompterFailed (o.prompterFails && hasPrompter s) s)
  let s := modHealth (fun h => { h with repairMap := bad
                                        prompterFailed := o.prompterFails && hasPrompter s
                                        stagehandFailed := o.stagehandFails && hasStagehand s }) s
  let s := recountRows s
  let units := if s.health.prompterFailed || s.health.stagehandFailed then 2 ^ 10 else 0
  if 16 < bad.length then stopDawn (2 ^ 16 + 2 ^ 18 + units) s
  else
    let s := enterPhase 7 0 s
    raiseCause units s

/-! Pins: the counted level acts from curtain up on (R894). -/

def holdoffOver (t : Option Nat) (s : State) : Bool :=
  match t with
  | none => true
  | some x => decide (x + 10000000 ≤ now s)

/-- Act on the counted level of QUIESCE_N (R658, R877, R878, R894). -/
def actQuiesce (s : State) : State :=
  if !s.dev.curUp || s.pwr.quiesceIn == s.pwr.quiesceCnt || !holdoffOver s.pwr.quiesceAt s then s
  else
    let was := quiesced s
    reportQuiesce was (modPwr (fun p => { p with quiesceIn := p.quiesceCnt, quiesceAt := some (now s) }) s)

/-- Act on the counted level of FORCE_RO (R877, R879, R880, R894). -/
def actForceRo (s : State) : State :=
  if !s.dev.curUp || s.pwr.forceRo == s.pwr.forceRoCnt || !holdoffOver s.pwr.forceRoAt s then s
  else updateRo (modPwr (fun p => { p with forceRo := p.forceRoCnt, forceRoAt := some (now s) }) s)

/-- A port as its saved feature configures it (R594, R717). -/
def ethSaved (p : Nat × BitVec 64 × List Byte) : Nat × EthPort :=
  (p.1, { EthPort.fresh with cfg := p.2.1, addrs := p.2.2 })

/-- The end of HOUSE: saved features are restored, handles resume, connections start, curtain up, and the pins act (R42, R59,
R594, R722, R894). -/
def endHouse (s : State) : State :=
  let n := s.flash.handles + 2 ^ 20
  let s := { s with
    store := { s.store with
      companies := kmap s.store.companies fun c k => { k with prestage := kgetD s.flash.prestage c 0 }, handles := n, issued := 0 }
    flash := { s.flash with handles := n }
    eth := s.flash.eth.map ethSaved }
  let s := measureConfig ((s.store.companies.map (·.1)).foldl (fun s c => openConns c s) s)
  resumePrograms (actForceRo (actQuiesce
    (modPwr (fun p => { p with dawnMs := BitVec.ofNat 32 ((now s - s.dev.dawnStart.toNat) / 1000000) })
      (modDev (fun d => { d with curUp := true, attempts := 0, otherSlot := false }) s))))

/-- A Dawn phase runs. An orderly shutdown stops the Dawn at the end of the step in progress (R906): the model takes that step to be the row
being run, which is indivisible, so that a phase which has not completed when shutdown_req is written never does (DESIGN CHOICE,
notes/assumptions/113.md). -/
def inDawn (s : State) : Bool :=
  bit s.pwr.on 0 && decide (1 ≤ s.dev.dawnPhase.toNat) && !s.dev.curUp && !s.dev.stopped && !s.dev.flushed && !s.dev.shutdownReq

/-- What a phase found names regions, rows, lanes and dies that exist. -/
def outcomeOk (s : State) (o : PhaseOutcome) : Bool :=
  match s.dev.dawnPhase.toNat with
  | 2 => o.beats.length == 18
  | 4 => o.wingsRows.all fun p => decide (p.1 < 8)
  | 5 => o.deadDies.all dieOk
  | 6 => lanesOk o.lanes && o.stageRows.all fun p => decide (p.1 < 176)
  | _ => true

/-- TRIM is done once every region meets the target at the rail that it sets, or the rail is the highest (R101). -/
def trimmed (s : State) (o : PhaseOutcome) : Bool :=
  s.dev.dawnPhase != 2 || clampRail o.railMv.toNat == 880 || !overTarget s o.beats

/-- LOFT's checkpoint waits for the end of Dusk (R90). -/
def phaseWaits (s : State) : Bool := s.dev.dawnPhase == 5 && s.pwr.inDusk && decide (8000 ≤ s.pwr.holdupUs.toNat)

/-- DAWN_PHASE_COMPLETE (R58 to R62, R66, R70, R90, R905). -/
def execDawnPhaseComplete (o : PhaseOutcome) (s : State) : Res :=
  if !inDawn s || phaseWaits s then .next s
  else if !outcomeOk s o then .fault .noSuchThing
  else if o.fails then .next (stopDawn (2 ^ 18) s)
  else if !trimmed s o then .next s
  else match s.dev.dawnPhase.toNat with
    | 1 => .next (endFuse o s)
    | 2 => .next (endTrim o s)
    | 3 => .next (endPhy o s)
    | 4 => .next (endWings o s)
    | 5 => .next (endLoft o s)
    | 6 => .next (endClusters o s)
    | _ => .next (endHouse s)

/-- The unclean maximum of a phase in ns (R58). -/
def phaseMax (p : Nat) : Nat :=
  1000000 * [0, 200, 1000, 4000, 6000, 160000, 5000, 3800].getD p 0

/-- DAWN_PHASE_TIMEOUT: a failed attempt; after three with one slot the other is tried, after three more Dawn stops (R63,
R90). -/
def execDawnPhaseTimeout (s : State) : Res :=
  if !inDawn s || s.pwr.inDusk || now s ≤ s.dev.phaseStart.toNat + phaseMax s.dev.dawnPhase.toNat then .next s
  else
    let n := s.dev.attempts + 1
    if n < 3 then .next (startDawn (modDev (fun d => { d with attempts := n }) s))
    else if !s.dev.otherSlot then .next (startDawn (modDev (fun d => { d with attempts := 0, otherSlot := true }) s))
    else .next (stopDawn (2 ^ 18) (modDev (fun d => { d with attempts := n }) s))

/-! Orderly shutdown. -/

/-- Links of every port go down with PD5. -/
def portsDown (s : State) : State :=
  { s with ports := kmap s.ports fun _ p => { p with linkUp := false, speed := 0, width := 0 } }

/-- The shutdown is that of a sanitize (R796). -/
def sanitizing (s : State) : Bool := s.dev.forceRestart && s.flash.marker

/-- Nothing holds the shutdown up: before curtain up nothing of steps 1 to 3 is there (R906); a sanitize has ended every
command already (R796); otherwise dispatched commands, write-back and records have drained (R74). A queued scene whose write-back cannot
start, for want of room or in read-only mode, is not waited for (DESIGN CHOICE, notes/assumptions/115.md). -/
def shutdownDrained (s : State) : Bool :=
  !s.dev.curUp || sanitizing s
  || (s.taken.isEmpty && (s.loft.roCause == 1 || (s.loft.wbQueue.findSome? (startWriteBack s)).isNone)
      && !(s.loft.d0.any (·.kind == .writeBack)) && s.loft.journal.isEmpty)

/-- The shutdown ends with Loft programs: the checkpoint and close record in service, the close record after LOFT's checkpoint; a
sanitize leaves them out (R74, R796, R906). -/
def closeDue (s : State) : Bool := !s.flash.marker && (s.dev.curUp || s.dev.checkpoint)

/-- The shutdown waits: a due checkpoint or close record for the end of Dusk, or for a bank that carries a program, which holds it as in Dusk
(R86, R92; DEDUCED, notes/assumptions/115.md); a sanitize's restart for the end of Dusk (R805). -/
def shutdownWaits (s : State) : Bool := (closeDue s && bankHeld s) || (sanitizing s && s.pwr.inDusk)

/-! What the bank, or an orderly shutdown, still programs (R82, R98). -/

/-- Units in the program buffer or on their way to a die: one for each die at most (R908). -/
def bufferedUnits (s : State) : List (Nat × Nat × Nat) :=
  s.loft.stripes.flatMap fun p => (p.2.units.filter fun u => u.st == .buffered || u.st == .issued).map fun u => (u.die, p.1, u.member)

/-- Every unit of the program buffer is programmed, those of a rebuild too (R82, steps 3 and 4, R284). -/
def flushBuffer (s : State) : State :=
  let s := (bufferedUnits s).foldl (fun s q =>
    if dieWorks s q.1 && !(targetBlocks s q.1 true).isEmpty then landUnit q.1 q.2.1 q.2.2 true s else s) s
  let s := s.loft.rebuilds.foldl (fun s r =>
    match r.target with
    | some d => if dieWorks s d && !(targetBlocks s d true).isEmpty then landRebuilt d r.stripe r.member true s else s
    | none => s) s
  completeItems s

/-- Every record formed is written (R82, step 5). -/
def flushJournal (s : State) : State := modLoft (fun l => { l with jprog := 0 }) (writeRecords s.loft.journal.length s)

/-- The Loft's part of an orderly shutdown: in service the checkpoint, and then the close record; the program buffer's content goes first
(R74, R98, R190, R906). -/
def closeLoft (s : State) : State :=
  if !closeDue s then s else
  let s := flushJournal (flushBuffer s)
  let s := if !s.dev.curUp then s else if s.dev.checkpoint then writeCheckpoint s else dawnCheckpoint s
  modDev (fun d => { d with closeRecord := true }) s

/-- SAFE_OFF (R24, R74, R76, R92, R796, R805, R906). -/
def execSafeOff (s : State) : Res :=
  if !s.dev.shutdownReq || s.pwr.safeOff || s.dev.flushed || shutdownWaits s || !shutdownDrained s then .next s
  else
    let s := dropVolatile (portsDown (closeLoft s))
    .next { s with pwr := { s.pwr with on := 1, safeOff := true } }

/-! Dusk. -/

/-- Erases in progress are suspended for Dusk, or go on (R80, R296). -/
def duskErases (b : Bool) (s : State) : State :=
  modLoft (fun l => { l with dies := kmap l.dies fun _ x =>
    match x.op with
    | some (.erase _) => { x with duskHeld := b }
    | _ => { x with duskHeld := false } }) s

/-- DUSK_ENTER (R78, R79, R80, R105). -/
def execDuskEnter (mv : BitVec 16) (s : State) : Res :=
  if !bit s.pwr.on 0 || s.pwr.inDusk || s.dev.flushed || 10800 ≤ mv.toNat then .next s
  else
    let s := duskErases true (setSupply mv s)
    let s := { s with
      pwr := { s.pwr with
        inDusk := true, duskEntries := satInc s.pwr.duskEntries, duskSince := some (now s)
        railMv := if bit s.pwr.on 1 then 720 else s.pwr.railMv }
      dev := { s.dev with duskSeen := true } }
    .next (postEvent 1 0xFF (w64 (65536 + mv.toNat)) 0 s)

/-- DUSK_EXIT (R78 to R81, R90, R105). The rail returns to the last value that R102 chose, which before the first reading in service is the one that
TRIM set (R81, R105), also while input power is at its limit (R104); held programs go on (notes/assumptions/116.md). -/
def execDuskExit (mv : BitVec 16) (s : State) : Res :=
  if !s.pwr.inDusk || s.dev.flushed || mv.toNat ≤ 11200 then .next s
  else
    -- a phase that began in this Dusk has lost only the Dusk since then
    let spent := now s - max (s.pwr.duskSince.getD (now s)) s.dev.phaseStart.toNat
    let s := duskErases false (setSupply mv s)
    let s := { s with
      pwr := { s.pwr with inDusk := false, duskSince := none
                          railMv := if bit s.pwr.on 1 then s.pwr.railChosen else s.pwr.railMv }
      dev := { s.dev with phaseStart := s.dev.phaseStart + w64 spent } }
    .next (postEvent 1 0xFF (w64 mv.toNat) 0 (resumePrograms s))

/-! Power loss. -/

/-- The hold-up flush from step 2: programs in flight and the buffered units are programmed, the journal tail and a marker are written, and
everything but PD0 goes off (R82, R83, R91). A Dusk that it cuts short reads as such until the reset that follows (R79, R897). -/
def runFlush (s : State) : State :=
  let powered := bit s.pwr.on 3 && bit s.pwr.on 4
  let s := if powered then
      modPwr (fun p => { p with powerLosses := satInc p.powerLosses })
        (modLoft (fun l => { l with lossMarker := true }) (flushJournal (flushBuffer s)))
    else s
  let s := dropVolatile (portsDown s)
  { s with
    pwr := { s.pwr with on := 1 }
    dev := { s.dev with flushed := true, curUp := false, dawnPhase := 0, shutdownReq := false } }

/-- HOLDUP_FLUSH (R82, R83, R91, R904). -/
def execHoldupFlush (mv : BitVec 16) (s : State) : Res :=
  if !bit s.pwr.on 0 || 9600 ≤ mv.toNat then .next s
  else if s.dev.flushed then .next (setSupply mv s)
  else .next (runFlush (setSupply mv s))

/-- PD0_HOLDUP_EXPIRY: 40 ms below 9.6 V, or sooner while the measured hold-up time is below 40,000 µs (R904). -/
def execPd0HoldupExpiry (s : State) : Res :=
  if !bit s.pwr.on 0 || !s.dev.flushed || 9600 ≤ s.pwr.supplyMv.toNat then .next s
  else match s.pwr.lossAt with
    | none => .next s
    | some t =>
      if now s < t + 40000000 && 40000 ≤ s.pwr.holdupUs.toNat then .next s
      else .next { s with pwr := { s.pwr with on := 0 } }

/-- SUPPLY_RECOVERY (R84). -/
def execSupplyRecovery (mv : BitVec 16) (s : State) : Res :=
  if !bit s.pwr.on 0 || !s.dev.flushed || s.dev.tripped || mv.toNat ≤ 11200 then .next s
  else .next (startDawn (setSupply mv s))

/-- HOUSE_WATCHDOG: the service firmware runs from HOUSE on; an unclean reset with PD0 kept (R57, R98). -/
def execHouseWatchdog (s : State) : Res :=
  if s.dev.dawnPhase != 7 || s.dev.flushed || s.pwr.safeOff then .next s
  else
    let s := resetAll true s
    .next { s with pwr := { s.pwr with on := 1 } }

/-- A measurement of the bank is due: 24 h after the last in service, or 60 s after one below 8,000 µs, from PHY's on (R85). -/
def measureDue (s : State) : Bool :=
  (s.dev.curUp && decide (s.pwr.holdupAt + 86400000000000 ≤ now s))
  || (decide (4 ≤ s.dev.dawnPhase.toNat) && decide (s.pwr.holdupUs.toNat < 8000) && decide (s.pwr.holdupAt + 60000000000 ≤ now s))

/-- HOLDUP_MEASUREMENT (R61, R85, R86). -/
def execHoldupMeasurement (us : BitVec 16) (s : State) : Res :=
  if !measureDue s || s.dev.flushed || s.pwr.safeOff then .next s
  else .next (resumePrograms (measureHoldup us s))

/-! The adaptive rail. -/

/-- The rail may not be raised (R104, R887). -/
def powerBound (s : State) : Bool := s.pwr.railHeld || decide (900 ≤ s.pwr.inputW.toNat)

/-- RAIL_READING: the monitors are read; in service and outside Dusk the rail moves by at most 10 mV toward the value of R101, which the part
alone knows. The size of the move is a free value, of the steps of 5 mV that R101 counts in (R101 to R104, R107; DESIGN CHOICE,
notes/assumptions/116.md). -/
def execRailReading (beats : List (BitVec 16)) (s : State) : Res :=
  if beats.length != 18 then .fault .noSuchThing
  else if !bit s.pwr.on 1 then .next s
  else if !s.dev.curUp || s.pwr.inDusk then .next (readBeats beats s)
  else
    let s := readBeats beats s
    let excess := overTarget s beats
    let bound := powerBound s || s.pwr.railMv == 880
    let (f, s) := takeFree s
    let step := 5 * (f.toNat % 3)
    let r := s.pwr.railMv.toNat
    let r1 := if excess then (if powerBound s then r else min 880 (r + step)) else max 720 (r - step)
    .next (modPwr (fun p => { p with
      railMv := BitVec.ofNat 16 r1, railChosen := BitVec.ofNat 16 r1, targetMiss := excess && bound }) s)

/-! Temperature and power. -/

def hottest (l : List (BitVec 8)) : BitVec 8 := l.foldl (fun m x => if m.toNat < x.toNat then x else m) 0

/-- Regions that are powered: 0 to 7 with PD1, 8 to 15 with PD2, 16 with PD0, 17 with PD6. -/
def regionOn (s : State) (k : Nat) : Bool :=
  if k < 8 then bit s.pwr.on 1 else if k < 16 then bit s.pwr.on 2 else if k == 16 then true else bit s.pwr.on 6

/-- THERM_N after a reading (R871, R882). -/
def thermAfter (s : State) (tj : Nat) : Bool :=
  let c := max 85 (min 105 s.pwr.thermC.toNat)
  if c ≤ tj then true else if tj < c - 5 then false else s.pwr.therm

/-- Each change of THERM_N posts EV_THERM and sends PLDM sensor 9 (R882, R890). -/
def setTherm (b : Bool) (s : State) : State :=
  if b == s.pwr.therm then s
  else pldmEvent 9 (b2n b) (postEvent 8 0xFF (w64 (b2n b * 256 + s.pwr.tjC.toNat)) 0 (modPwr (fun p => { p with therm := b }) s))

/-- TEMPERATURE_READING (R871, R882 to R884). -/
def execTemperatureReading (temps : List (BitVec 8)) (s : State) : Res :=
  if temps.length != 18 then .fault .noSuchThing
  else if !bit s.pwr.on 0 then .next s
  else
    let tj := hottest (((upto 18).filter (regionOn s)).map fun k => temps.getD k 0)
    let s := modPwr (fun p => { p with tjC := tj, peakC := hottest [p.peakC, tj] }) s
    if !bit s.pwr.on 1 then .next s
    else
      let s := setTherm (thermAfter s tj.toNat) s
      if tj.toNat < 115 then .next (modPwr (fun p => { p with tripReads := 0 }) s)
      else if s.pwr.tripReads + 1 < 2 then .next (modPwr (fun p => { p with tripReads := 1 }) s)
      else .next (modDev (fun d => { d with tripped := true }) (runFlush s))

/-- THERMAL_RESTART: the PD0 sensor has read below 85 °C for 10 s, and the supply meets R84 (R885). -/
def execThermalRestart (s : State) : Res :=
  if !bit s.pwr.on 0 || !s.dev.tripped || s.pwr.supplyMv.toNat ≤ 11200 then .next s
  else .next (startDawn s)

/-- POWER_READING (R52, R887, R904). With PD0 off, the first reading of a supply that PD0 stays on at, 9.6 V, is its application (DESIGN CHOICE,
notes/assumptions/112.md). -/
def execPowerReading (w mv : BitVec 16) (s : State) : Res :=
  if !bit s.pwr.on 0 then .next (if mv.toNat < 9600 then s else setSupply mv (powerUp s))
  else
    let s := setSupply mv s
    let since := if 900 < w.toNat then some (s.pwr.overSince.getD (now s)) else none
    let long := (since.map fun t => decide (t + 10000000 ≤ now s)).getD false
    let lower := bit s.pwr.on 1 && !s.pwr.inDusk && long
    .next (modPwr (fun p => { p with
      inputW := w, overSince := since
      railHeld := if w.toNat < 900 then false else p.railHeld || long
      railMv := if lower then BitVec.ofNat 16 (max 720 (p.railMv.toNat - 10)) else p.railMv }) s)

/-! Changes of the pins. -/

/-- QUIESCE_N_CHANGE: a level stable for 200 µs is counted (R876 to R878). -/
def execQuiesceNChange (isLow : Bool) (s : State) : Res :=
  if !bit s.pwr.on 0 then .next s else .next (actQuiesce (modPwr (fun p => { p with quiesceCnt := isLow }) s))

/-- FORCE_RO_CHANGE (R876, R877, R879, R880). -/
def execForceRoChange (isHigh : Bool) (s : State) : Res :=
  if !bit s.pwr.on 0 then .next s else .next (actForceRo (modPwr (fun p => { p with forceRoCnt := isHigh }) s))

/-- PIN_HOLDOFF_EXPIRY (R877). -/
def execPinHoldoffExpiry (pin : Pin) (s : State) : Res :=
  if !bit s.pwr.on 0 then .next s else
  match pin with
  | .quiesceN => .next (actQuiesce s)
  | .forceRo => .next (actForceRo s)

end Sys2Proof.Machine
end

