-- ==== Sys2Proof/Machine/Stagehand.lean ====
section
/-!
DEFINITION. Stagehand (16_stagehand.md): the Ethernet ports' own traffic (R716, R757), connections (R721 to R723, R739, R750),
inbound packets (R724 to R734, R740, R741, R753, R761, R762), acknowledgement, loss recovery and pacing (R735 to R738, R742,
R745), sending (R727, R743, R744), and the commands XFER and ATOMIC (R647, R648, R746 to R750).
-/
namespace Sys2Proof.Machine
open Sys2Proof

/-! Messages of the device that end. -/

def dropOut (k id : Nat) (resp : Bool) (s : State) : State :=
  modConn k (fun x => { x with outMsgs := x.outMsgs.filter fun m => !(m.msgId == id && resp == (m.opcode == 3 || 6 ≤ m.opcode)) }) s

def findNet (s : State) (seq : Nat) : Option NetOp := s.work.nets.find? (·.seq == seq)
def dropNet (seq : Nat) (s : State) : State := modWork (fun w => { w with nets := w.nets.filter (·.seq != seq) }) s

/-- End an XFER or ATOMIC. -/
def endNet (seq : Nat) (c : Completion) (s : State) : State :=
  match s.taken.find? (·.seq == seq) with
  | some t => finish t c (dropNet seq s)
  | none => dropNet seq s

/-- A WRITE message of the device is acknowledged in full (R324, R647, R742). -/
def messageDone (m : OutMsg) (s : State) : State :=
  match m.owner with
  | none => s
  | some seq =>
    if (cueOf s seq).isSome then cueItemAcked seq m.item s
    else if (wsOf s seq).isSome then layerAcked seq m.item s
    else if (findNet s seq).isSome then endNet seq (okWith (w64 m.length) 0 0) s
    else s

/-- A NAK or an error ends the command of a message with a status (R732). -/
def messageFailed (m : OutMsg) (st : Nat) (s : State) : State :=
  match m.owner with
  | none => s
  | some seq =>
    match s.taken.find? (·.seq == seq), cueOf s seq, wsOf s seq with
    | some t, some op, _ => settle (endCue t op st s)
    | some t, none, some op => settle (endWeights t op st s)
    | _, _, _ => if (findNet s seq).isSome then endNet seq (status st) s else s

def nakStatus (code : Nat) : Nat :=
  if code == 1 then 0x201 else if code == 2 then 0x501 else if code == 4 then 0x304 else 0x603

/-! Starting XFER and ATOMIC. -/

/-- The bytes of a local range of an XFER that writes to the peer; none where a poisoned unit lies in it (R818). -/
def localBytes (s : State) (o : NetOp) : Option (List Byte) :=
  let (kind, h, off) := o.local_
  if kind != 3 then some o.data else
  match kget s.store.scratch h with
  | none => some o.data
  | some x => if scratchPoisoned h off o.length s then none else some (x.mem.reads off o.length)

/-- Start the message of an XFER or ATOMIC (R647, R648, R740, R741). -/
def startNet (o : NetOp) (s : State) : State :=
  let id := ((conn s o.conn).map (·.nextMsg)).getD 0
  let mark : NetOp → NetOp := fun x => if x.seq == o.seq then { x with msg := some id } else x
  let s1 := modWork (fun w => { w with nets := w.nets.map mark }) s
  let base := response 0 o.remote o.length []
  let base := { base with owner := some o.seq }
  if o.atomic then
    let data := beBytes 8 o.w3.toNat ++ (if o.op == 1 then beBytes 8 o.w4.toNat else [])
    startMessage o.conn { base with opcode := 4 + o.op, length := 8, data := data } s1
  else if o.op == 1 then
    startMessage o.conn { base with opcode := 2, data := leBytes 8 o.local_.2.2, land := o.local_ } s1
  else match localBytes s o with
    | some b => startMessage o.conn { base with opcode := 1, data := b } s1
    | none => endNet o.seq (status 0x501) s

/-- The message of an XFER or ATOMIC has been started. -/
def netStarted (s : State) (u : Taken) : Bool := u.running && s.work.nets.all fun o => o.seq != u.seq || o.msg.isSome

/-- The message may start: what it sends is in a tier above the Loft (R242), and every earlier XFER and ATOMIC of its queue has started
(R747). -/
def netMayStart (s : State) (o : NetOp) : Bool :=
  match s.taken.find? (·.seq == o.seq) with
  | none => true
  | some t =>
    (netPages s o).all (pageReady s t.company) &&
    !s.taken.any fun u => u.queue == t.queue && decide (u.seq < t.seq) && (u.opcode == 0x58 || u.opcode == 0x59) && !netStarted s u

/-- XFERs and ATOMICs that waited for the connection, for the Loft or for earlier ones start in their order, while it has a free message
(R242, R747, R749, R750). -/
def startWaiting (k : Nat) (s : State) : State :=
  (s.work.nets.filter fun o => o.conn == k && o.msg.isNone).foldl (fun s o =>
    if !netMayStart s o then s
    else if messageFree s k then startNet o s else endNet o.seq (status 0x304) s) s

/-! Connection state. -/

def setUp (k : Nat) (s : State) : State := startWaiting k (modConn k (fun x => { x with state := 2, lastRx := now s }) s)

/-- A connection is lost (R739, R346): its commands end, incomplete messages are discarded, and it starts again. -/
def loseConn (k : Nat) (s : State) : State :=
  match conn s k with
  | none => s
  | some x =>
    let s := (s.work.nets.filter fun o => o.conn == k && o.msg.isSome).foldl (fun s o => endNet o.seq (status 0x602) s) s
    let s := resetStreams (fun o => o.stagehand && o.target == k) (resetCues (fun d => d.stagehand && d.conn == k) s)
    let mine : ShTag → Bool := fun t => (t.map (·.1)) == some k
    let quiet : LoftLoad → LoftLoad := fun l => if mine l.sh then { l with answered := true } else l
    let s := modWork (fun w => { w with loads := w.loads.map quiet }) s
    -- which port of the mask EV_PORT names no rule says: a free value (notes/assumptions/66.md)
    let (f, s) := takeFree s
    let ports := (upto 4).filter fun j => bit x.entry.ports j
    let port := ports.getD (f.toNat % ports.length) 0
    let s := postEvent 7 x.company (w64 (k * 65536 + port * 256 + 3)) 0
      (modPerf2 (fun p => { p with shLost := satInc p.shLost }) s)
    let y := restartConn s x.company x.entry
    let y := if s.health.stagehandFailed then { y with state := 0 } else y
    { s with conns := kset s.conns k y, free := s.free + 1 }

/-! Inbound packets. -/

def countDrop (s : State) : State := modPerf2 (fun p => { p with shDropped := satInc p.shDropped }) s

def frameOk (port : Nat) : Bool := decide (port < 4)

/-- A frame can arrive: the part has the port, and its link is up. -/
def frameArrives (s : State) (port : Nat) : Bool := hasEth s && (ethPort s port).linkUp && ethEnabled (ethPort s port)

/-- The connection that a packet is accepted on (R726, R761). -/
def acceptedOn (p : ShPacket) (s : State) : Option (Nat × Conn) :=
  let k := p.conn.toNat
  match conn s k with
  | none => none
  | some x =>
    let e := ethPort s p.port
    if p.version == 1 && decide (p.flags.toNat < 4) && p.ipv6 == x.entry.ipv6 && p.srcIp == x.entry.peerIp
      && p.dstPort == ethUdp e && ethIp e p.ipv6 != 0 then some (k, x) else none

/-- An inbound Stagehand packet: dropped and counted unless a connection accepts it. -/
def shRow (p : ShPacket) (s : State) (go : Nat → Conn → State → State) : Res :=
  if !frameOk p.port then .fault .noSuchThing
  else if !frameArrives s p.port || !hasStagehand s || s.health.stagehandFailed then .next s
  else match acceptedOn p s with
    | none => .next (countDrop s)
    | some (k, x) => .next (go k x s)

def heardFrom (k : Nat) (p : ShPacket) (s : State) : State :=
  modConn k (fun x => { x with lastRx := now s, ceSeen := x.ceSeen || p.ce }) s

/-- A data packet: new, a duplicate that is acknowledged again, or outside the receive range and dropped
(R728, R733, R734); its payload is charged to the charge agent (R744). -/
def dataRow (p : ShPacket) (s : State) (go : Nat → Conn → State → State) : Res :=
  shRow p s fun k x s =>
    if !(x.state == 2 || (x.state == 1 && x.syncSeen)) then countDrop s else
    let d := psnFrom x.expPsn p.psn
    if 2 ^ 31 ≤ d || x.seen.contains p.psn || x.held.any (·.psn == p.psn) then sendAck k (heardFrom k p s)
    else if 16384 ≤ d then countDrop s
    else
      let s := dma x.entry.agent p.payload.length (heardFrom k p s)
      go k x s

/-- Refuse a packet: NAK, and what still arrives of its message is not placed (R732). -/
def refuseMsg (k code : Nat) (opcode : Nat) (p : ShPacket) (s : State) : State :=
  let m : InMsg := { msgId := p.msgId.toNat, opcode := opcode, length := p.length.toNat, remote := 0, spans := [],
                     epoch := 0, notify := false, ended := true }
  let old := (conn s k).bind fun x => inMsg x m.msgId opcode
  let m := withSpan ((old.map fun o => { o with ended := true }).getD m) p
  let s := if allArrived m then dropInMsg k m.msgId opcode s else setInMsg k m s
  received k p.psn false (sendNak k code p s)

def maxMessage : Nat := 2 ^ 30

/-- Offset, length or payload that do not go together, or disagree with an earlier packet of the message (R753). -/
def disagrees (p : ShPacket) (base : Nat) (m : Option InMsg) : Bool :=
  p.length == 0 || decide (maxMessage < p.length.toNat) || p.payload.isEmpty
  || decide (p.length.toNat < p.offset.toNat + p.payload.length)
  || m.any fun m => m.length != p.length.toNat || m.remote != base

def openMsgs (x : Conn) : Nat := (x.inMsgs.filter (!·.ended)).length + x.inReads.length

/-- May the peer reach n bytes at an inbound address (R730, R731, R767)? -/
def mayReach (s : State) (x : Conn) (right a n : Nat) : Bool :=
  let space := a / 2 ^ 62
  let off := a % 2 ^ 62
  decide (space < 2) && (rangeRefused s x.company 2 space right x.entry.agent off n).isNone
  && (space == 0 || (ownCounter x.company off && ownCounter x.company (off + n - 1)))

/-- Pieces of a payload within 64-byte lines, as (address, bytes). -/
def linePieces : Nat → Nat → List Byte → List (Nat × List Byte)
  | 0, _, _ => []
  | n + 1, a, b =>
    if b.isEmpty then [] else
    let k := 64 - a % 64
    (a, b.take k) :: linePieces n (a + k) (b.drop k)

/-- Bytes written into the atomic region. -/
def writeCounters (woff : Nat) (b : List Byte) (s : State) : State :=
  (upto b.length).foldl (fun s i =>
    let w := woff + i
    let old := leBytes 8 (counterAt s w).toNat
    setCounter w (w64 (leNat (setAt old (w % 8) (b.getD i 0)))) s) s

/-- Place a WRITE payload as an access of the charge agent (R728, R730, R731). -/
def placePayload (k : Nat) (x : Conn) (p : ShPacket) (s : State) : State :=
  let a := p.remote.toNat % 2 ^ 62
  if p.remote.toNat / 2 ^ 62 == 1 then writeCounters a p.payload s
  else (linePieces (p.payload.length / 64 + 2) a p.payload).foldl (fun s q =>
    serveWrite x.entry.agent x.company q.1 q.2 (some (k, p.psn.toNat)) (now s) s) s

/-- WRITE (R728 to R731, R753). -/
def execShWrite (p : ShPacket) (s : State) : Res :=
  dataRow p s fun k x s =>
    let base := (p.remote.toNat + 2 ^ 64 - p.offset.toNat) % 2 ^ 64
    let old := inMsg x p.msgId.toNat 1
    if old.any (·.ended) then writeVisible k p s
    else if disagrees p base old then refuseMsg k 3 1 p s
    else if old.isNone && 1024 ≤ openMsgs x then refuseMsg k 4 1 p s
    else if old.isNone && (p.remote.toNat % 2 ^ 62 < p.offset.toNat || !mayReach s x 2 base p.length.toNat) then
      refuseMsg k 1 1 p s
    else
      let m := old.getD { msgId := p.msgId.toNat, opcode := 1, length := p.length.toNat, remote := base, spans := [],
                          epoch := ((companyOf s x.company).map (·.epoch)).getD 0, notify := false, ended := false }
      let s := placePayload k x p (setInMsg k m s)
      if shPending s (k, p.psn.toNat) then modConn k (fun x => { x with held := x.held ++ [p] }) s
      else writeVisible k p s

/-- READ_REQ: the source range is checked in whole and gathered, Loft-backed pages under R238 (R731, R740). -/
def execReadReq (p : ShPacket) (s : State) : Res :=
  dataRow p s fun k x s =>
    let a := p.remote.toNat
    let n := p.length.toNat
    if p.payload.length != 8 || p.offset != 0 || n == 0 || maxMessage < n then refuseMsg k 3 2 p s
    else if 1024 ≤ openMsgs x then refuseMsg k 4 2 p s
    else if !mayReach s x 1 a n then refuseMsg k 1 2 p s
    else
      let r : InRead := { msgId := p.msgId.toNat, psn := p.psn, remote := a, length := n, land := leAt p.payload 0 8,
                          epoch := ((companyOf s x.company).map (·.epoch)).getD 0, failed := false }
      let s := received k p.psn true (modConn k (fun x => { x with inReads := x.inReads ++ [r] }) s)
      let tag := (k, shReadKey r.msgId)
      let s := if a / 2 ^ 62 == 0 then (linesOf (a % 2 ^ 62) n).foldl (fun s d =>
          serveRead x.entry.agent x.company d .uncached (some tag) (now s) s) s else s
      shContinue (some tag) s

/-- The message of the device's own that a response belongs to. -/
def ownMsg (x : Conn) (id : Nat) (ops : List Nat) : Option OutMsg :=
  x.outMsgs.find? fun m => m.msgId == id && ops.contains m.opcode

/-- Place READ_RESP bytes in the local object of an XFER: host memory or a scratch object (R647, R740). -/
def landBytes (o : NetOp) (off : Nat) (b : List Byte) (s : State) : State :=
  let (kind, h, a) := o.local_
  if kind == 3 then writeScratch h (a + off) b s
  else match s.taken.find? (·.seq == o.seq) with
    | some t => toHost t (a + off) b s
    | none => s

/-- READ_RESP (R728, R740, R753, R762). -/
def execReadResp (p : ShPacket) (s : State) : Res :=
  dataRow p s fun k x s =>
    let id := p.msgId.toNat
    match ownMsg x id [2] with
    | none => received k p.psn false s
    | some o =>
      let base := (p.remote.toNat + 2 ^ 64 - p.offset.toNat) % 2 ^ 64
      let old := inMsg x id 3
      if disagrees p base old || p.length.toNat != o.length then
        messageFailed o 0x603 (dropOut k id false (refuseMsg k 3 3 p s))
      else if base != o.land.2.2 then
        received k p.psn false (messageFailed o 0x201 (dropOut k id false s))
      else
        let m := withSpan (old.getD { msgId := id, opcode := 3, length := p.length.toNat, remote := base, spans := [],
                                      epoch := 0, notify := false, ended := false }) p
        let s := match o.owner.bind (findNet s) with
          | some net => landBytes net p.offset.toNat p.payload s
          | none => s
        if allArrived m then
          let s := received k p.psn true (dropOut k id false (dropInMsg k id 3 s))
          if (o.owner.bind (findNet s)).isSome then endNet (o.owner.getD 0) (okWith (w64 o.length) 0 0) s else s
        else received k p.psn false (setInMsg k m s)

/-- An inbound atomic in the company's region, executed once (R690, R732, R741). -/
def inboundAtomic (opcode size : Nat) (f : Word64 → List Byte → Word64 × Bool) (p : ShPacket) (s : State) : Res :=
  dataRow p s fun k x s =>
    let a := p.remote.toNat
    let off := a % 2 ^ 62
    if p.payload.length != size || p.length != 8 || p.offset != 0 then refuseMsg k 3 opcode p s
    else if a / 2 ^ 62 != 1 || off % 8 != 0 || !mayReach s x 4 a 8 then refuseMsg k 1 opcode p s
    else
      let old := counterAt s off
      let (v, took) := f old p.payload
      let s := setCounter off v s
      let body := beBytes 8 old.toNat ++ [BitVec.ofNat 8 (b2n took)]
      received k p.psn true (queueMessage k p.msgId.toNat (response 6 0 9 body) s)

/-- ATOMIC_ADD (R741). -/
def execAtomicAdd (p : ShPacket) (s : State) : Res :=
  inboundAtomic 4 8 (fun old b => (old + w64 (beAt b 0 8), false)) p s

/-- ATOMIC_CAS (R741). -/
def execAtomicCas (p : ShPacket) (s : State) : Res :=
  inboundAtomic 5 16 (fun old b =>
    if old == w64 (beAt b 8 8) then (w64 (beAt b 0 8), true) else (old, false)) p s

/-- ATOMIC_RESP: completes the device's ATOMIC (R648, R741). -/
def execAtomicResp (p : ShPacket) (s : State) : Res :=
  dataRow p s fun k x s =>
    let s := received k p.psn true s
    match ownMsg x p.msgId.toNat [4, 5] with
    | none => s
    | some o =>
      let s := dropOut k o.msgId false s
      if (o.owner.bind (findNet s)).isSome then
        let swapped := if o.opcode == 5 then b2n (bit (p.payload.getD 8 0) 0) else 0
        endNet (o.owner.getD 0) (okWith (w64 (beAt p.payload 0 8)) (w64 swapped) 0) s
      else s

/-- NAK: the message ends, and its command with the status of the code (R732). A NAK names the request's message ID. -/
def execNak (p : ShPacket) (s : State) : Res :=
  dataRow p s fun k x s =>
    let s := received k p.psn true s
    match ownMsg x p.msgId.toNat [1, 2, 4, 5] with
    | some o => messageFailed o (nakStatus (p.payload.getD 0 0).toNat) (dropOut k o.msgId false s)
    | none => dropOut k p.msgId.toNat true s

/-! Acknowledgements that the device receives. -/

def ackCovers (cum : Nat) (sack : List Byte) (psn : Word32) : Bool :=
  let d := psnFrom (BitVec.ofNat 32 cum) psn
  if 2 ^ 31 ≤ d then true
  else if d == 0 then false
  else decide (d ≤ 256) && bit (sack.getD ((d - 1) / 8) 0) ((d - 1) % 8)

/-- An ACK reports a PSN at least 64 above this one as received (R737). -/
def reportsAbove (cum : Nat) (sack : List Byte) (psn : Word32) : Bool :=
  (upto 256).any fun i =>
    let d := psnFrom psn (BitVec.ofNat 32 (cum + 1 + i))
    bit (sack.getD (i / 8) 0) (i % 8) && decide (64 ≤ d) && decide (d < 2 ^ 31)

/-- Round-trip estimate from a packet acknowledged without retransmission, gains 1/8 and 1/4 (R737); the first sample stands
for itself. -/
def sampleRtt (t : Nat) (x : Conn) (q : SentPkt) : Conn :=
  if q.retries != 0 then x else
  let rtt := t - q.sentAt
  if x.srtt == 0 then { x with srtt := rtt, rttvar := rtt / 2 }
  else
    let dev := if x.srtt < rtt then rtt - x.srtt else x.srtt - rtt
    { x with srtt := (7 * x.srtt + rtt) / 8, rttvar := (3 * x.rttvar + dev) / 4 }

/-- The pace after an ACK (R745), in MB/s. -/
def paceAfter (s : State) (e : ConnEntry) (load rate : Nat) : Nat :=
  if 192 ≤ load then max 1000 (rate * 7 / 8)
  else if load < 64 then max rate (min (startRate s e) (rate + 500)) else rate

/-- A packet is lost: it is marked for sending again, and its entropy leaves the rotation for 1 ms (R727, R737). -/
def markLost (k : Nat) (psn : Word32) (s : State) : State :=
  modConn k (fun x => match x.sent.find? (·.pkt.psn == psn) with
    | none => x
    | some q =>
      let mark : SentPkt → SentPkt := fun y => if y.pkt.psn == psn then { y with lost := true } else y
      { x with sent := x.sent.map mark, removed := x.removed ++ [(q.pkt.entropy.toNat, now s)] }) s

/-- Declare packets lost; one that has been sent again 8 times loses the connection (R739). -/
def declareLost (k : Nat) (l : List SentPkt) (s : State) : State :=
  if l.any fun q => decide (8 ≤ q.retries) then loseConn k s
  else l.foldl (fun s q => markLost k q.pkt.psn s) s

/-- A message of the device with every packet sent and acknowledged (R742). -/
def outDone (x : Conn) (m : OutMsg) : Bool :=
  m.sent == m.data.length && !x.sent.any fun q => q.pkt.msgId.toNat == m.msgId && q.opcode == m.opcode

/-- WRITE messages complete at their sender, responses leave; requests stay for their responses. -/
def sweepOut (k : Nat) (s : State) : State :=
  match conn s k with
  | none => s
  | some x =>
    let done := x.outMsgs.filter fun m => outDone x m && (m.opcode == 1 || m.opcode == 3 || 6 ≤ m.opcode)
    let keep := x.outMsgs.filter fun m => !(outDone x m && (m.opcode == 1 || m.opcode == 3 || 6 ≤ m.opcode))
    done.foldl (fun s m => messageDone m s) (modConn k (fun x => { x with outMsgs := keep }) s)

/-- What waits for a free message of a connection goes on (R749). -/
def afterRoom (s : State) : State := (s.work.wstreams.map (·.seq)).foldl (fun s q => progressStream q s) (progressCues s)

/-- ACK (R735, R737, R738, R742, R745, R755). -/
def execAck (p : ShPacket) (s : State) : Res :=
  shRow p s fun k x s =>
    if x.state != 2 || p.payload.length != 40 then countDrop s else
    let cum := leAt p.payload 0 4
    let sack := p.payload.drop 8
    let got := x.sent.filter fun q => ackCovers cum sack q.pkt.psn
    let left := x.sent.filter fun q => !ackCovers cum sack q.pkt.psn
    let newer := decide (psnFrom x.winPsn (BitVec.ofNat 32 cum) < 2 ^ 31)
    let s := heardFrom k p s
    let y := got.foldl (sampleRtt (now s)) x
    let s := modConn k (fun z => { z with
      sent := left, srtt := y.srtt, rttvar := y.rttvar
      window := if newer then max 65536 (min 16777216 (leAt p.payload 4 4)) else z.window
      winPsn := if newer then BitVec.ofNat 32 cum else z.winPsn
      rate := paceAfter s x.entry p.load.toNat z.rate }) s
    let far := fun (q : SentPkt) => !q.lost && isLate q.sentAt 20000 s && reportsAbove cum sack q.pkt.psn
    afterRoom (declareLost k (left.filter far) (sweepOut k s))

/-! SYNC. -/

def syncPayload (x : Conn) : List Byte := leBytes 4 x.initPsn.toNat ++ leBytes 4 (windowMax x.entry)

/-- Take the peer's initial PSN and window (R722, R735). -/
def takeSync (k : Nat) (p : ShPacket) (s : State) : State :=
  modConn k (fun x =>
    if x.syncSeen then x else
    { x with
      syncSeen := true, expPsn := BitVec.ofNat 32 (leAt p.payload 0 4)
      window := max 65536 (min 16777216 (leAt p.payload 4 4)), winPsn := x.initPsn }) s

/-- A CONFIGURED connection one of whose ports now has an address is SYNCING (R722); a failed Stagehand keeps it
CONFIGURED (R824). -/
def wakeConn (k : Nat) (s : State) : State :=
  modConn k (fun x => if x.state == 0 && !s.health.stagehandFailed && !(connPorts s x.entry).isEmpty then
    { x with state := 1 } else x) s

/-- SYNC: an UP connection is lost first; the answer is SYNC_ACK (R722, R723). -/
def execSync (p : ShPacket) (s : State) : Res :=
  shRow p s fun k x s =>
    if p.payload.length != 8 then countDrop s else
    let s := wakeConn k (if x.state == 2 then loseConn k s else s)
    let s := heardFrom k p (takeSync k p s)
    match conn s k with
    | none => s
    | some x =>
      let s := sendControl k 0x21 (syncPayload x) s
      if x.state == 1 && x.ackSeen then setUp k s else s

/-- SYNC_ACK: the device's own SYNC is answered (R722). -/
def execSyncAck (p : ShPacket) (s : State) : Res :=
  shRow p s fun k x s =>
    if p.payload.length != 8 then countDrop s else
    let s := heardFrom k p s
    if x.state != 1 then s
    else setUp k (modConn k (fun x => { x with ackSeen := true }) (takeSync k p s))

/-- SYNC_TIMER: a SYNCING connection sends SYNC (R722). -/
def execSyncTimer (k : Nat) (s : State) : Res :=
  let s := if hasStagehand s then wakeConn k s else s
  match conn s k with
  | none => .next s
  | some x => if x.state == 1 then .next (sendControl k 0x20 (syncPayload x) s) else .next s

/-- ACK_TIMER: 8 µs after the first unacknowledged data packet arrived (R733). -/
def execAckTimer (k : Nat) (s : State) : Res :=
  match conn s k with
  | none => .next s
  | some x => if x.unacked == 0 || !isLate x.unackedAt 8000 s then .next s else .next (sendAck k s)

/-! Sending. -/

def inFlightBytes (x : Conn) : Nat := (x.sent.map fun q => q.pkt.payload.length).sum

/-- The next entropy of the rotation, skipping those removed after a loss (R727). -/
def nextEntropy (s : State) (x : Conn) : Nat :=
  let n := spray s
  let order := (upto n).map fun i => 0xC000 + (x.nextEnt + i) % n
  (order.find? fun e => !x.removed.any (·.1 == e)).getD (0xC000 + x.nextEnt % n)

/-- The room of the window, and the bucket of the charge agent in LIMITED mode (R735, R744). -/
def mayEmit (s : State) (x : Conn) (n : Nat) (again : Bool) : Bool :=
  (again || decide (inFlightBytes x + n ≤ min x.window (windowMax x.entry)))
  && (!s.store.bandwidth || bucketHas s x.entry.agent n)

def chargeSend (s : State) (a n : Nat) : State :=
  if s.store.bandwidth then modAgent a (fun g => let g := refill (now s) g; { g with level := g.level - n }) s else s

/-- The egress port and entropy of the next data packet, with the rotations moved on (R727, R757). -/
def nextPath (k : Nat) (x : Conn) (s : State) : Option (Nat × Nat × State) :=
  let ports := egressPorts s x.entry
  match ports[x.nextPort % max 1 ports.length]? with
  | none => none
  | some e =>
    let ent := nextEntropy s x
    some (e, ent, modConn k (fun x => { x with nextPort := x.nextPort + 1, nextEnt := (ent - 0xC000 + 1) % spray s }) s)

/-- Send a lost packet again: same PSN and content, retransmitted flag, new entropy (R738). -/
def resend (k : Nat) (x : Conn) (q : SentPkt) (s : State) : State :=
  let n := q.pkt.payload.length
  if !mayEmit s x n true then s else
  match nextPath k x s with
  | none => s
  | some (e, ent, s) =>
    let (f, s) := takeFree s
    let pkt := { q.pkt with
      port := e, srcIp := BitVec.ofNat 128 (ethIp (ethPort s e) x.entry.ipv6), srcPort := ent, entropy := BitVec.ofNat 16 ent
      flags := q.pkt.flags ||| 2, load := loadByte s x.entry f }
    let again : SentPkt → SentPkt := fun y =>
      if y.pkt.psn == pkt.psn then { y with pkt := pkt, sentAt := now s, retries := y.retries + 1, lost := false } else y
    emit (.packet e q.opcode pkt)
      (modPerf2 (fun p => { p with shRetransmits := satInc p.shRetransmits })
        (modConn k (fun x => { x with sent := x.sent.map again }) (chargeSend s x.entry.agent n)))

/-- Where byte o of a message belongs at the peer. -/
def remoteOf (m : OutMsg) (o : Nat) : Nat :=
  (if m.chunk == 0 then m.remote + o else m.remote + o / m.chunk * m.stride + o % m.chunk) % 2 ^ 64

/-- Bytes of the packet at offset o: a full packet of the port, to the end of the message or of the chunk. -/
def packetBytes (m : OutMsg) (egress o : Nat) : Nat :=
  let left := m.data.length - o
  let left := if m.chunk == 0 then left else min left (m.chunk - o % m.chunk)
  min (m.psize.getD egress 1024) left

/-- Send the next packet of a message (R724, R725, R727, R729). -/
def sendNext (k : Nat) (x : Conn) (m : OutMsg) (s : State) : State :=
  match nextPath k x s with
  | none => s
  | some (e, ent, s1) =>
    let n := packetBytes m e m.sent
    if !mayEmit s x n false then s else
    let (f, s1) := takeFree s1
    let flags : BitVec 4 := if m.opcode == 1 then 1 else 0
    let pkt := makePacket s1 x.entry e ent (loadByte s1 x.entry f) flags x.nextPsn (BitVec.ofNat 32 m.msgId)
      (remoteOf m m.sent) m.sent m.length ((m.data.drop m.sent).take n)
    let q : SentPkt := { opcode := m.opcode, pkt := pkt, firstAt := now s, sentAt := now s, retries := 0, lost := false }
    let step : OutMsg → OutMsg := fun y =>
      if y.msgId == m.msgId && y.opcode == m.opcode then { y with sent := y.sent + n } else y
    emit (.packet e m.opcode pkt)
      (modConn k (fun x => { x with nextPsn := x.nextPsn + 1, sent := x.sent ++ [q], outMsgs := x.outMsgs.map step })
        (chargeSend s1 x.entry.agent n))

/-- STAGEHAND_SEND: messages that may start do, and the connection's next data packet goes out, a lost one first, as the window allows
(R735, R738, R745, R747). -/
def execStagehandSend (k : Nat) (s : State) : Res :=
  match conn s k with
  | none => .next s
  | some x =>
    if x.state != 2 || s.health.stagehandFailed then .next s else
    match x.sent.find? (·.lost) with
    | some q => .next (resend k x q s)
    | none =>
      let s := startWaiting k s
      let x := (conn s k).getD x
      match x.outMsgs.find? fun m => decide (m.sent < m.data.length) with
      | some m => .next (sendNext k x m s)
      | none => .next s

/-- The retransmission timeout (R737). -/
def rto (x : Conn) : Nat := max 50000 (min 10000000 (2 * x.srtt + 4 * x.rttvar))

/-- RETRANSMIT_TIMEOUT of a data packet (R737, R739). -/
def execRetransmitTimeout (k psn : Nat) (s : State) : Res :=
  match conn s k with
  | none => .next s
  | some x =>
    match x.sent.find? fun q => q.pkt.psn.toNat == psn && !q.lost with
    | none => .next s
    | some q => if isLate q.sentAt (rto x) s then .next (declareLost k [q] s) else .next s

/-- ENTROPY_RESTORE: 1 ms after its loss an entropy value is in rotation again (R727). -/
def execEntropyRestore (k entropy : Nat) (s : State) : Res :=
  .next (modConn k (fun x => { x with removed := x.removed.filter fun p => !(p.1 == entropy && isLate p.2 1000000 s) }) s)

/-- PEER_SILENCE_TIMEOUT: nothing from the peer for 100 ms while data is unacknowledged (R739). -/
def execPeerSilenceTimeout (k : Nat) (s : State) : Res :=
  match conn s k with
  | none => .next s
  | some x =>
    match x.sent.map (·.firstAt) with
    | [] => .next s
    | t :: r => if isLate (max x.lastRx (r.foldl min t)) 100000000 s then .next (loseConn k s) else .next s

/-! XFER and ATOMIC. -/

/-- A transport queue takes an XFER or ATOMIC for its own connection only (R746). -/
def wrongConn (t : Taken) (s : State) (k : Nat) : Bool := (queue s t.queue).any fun q => q.transport && q.conn != k

/-- The connection's message room, or WINDOW_FULL (R749). -/
def messageRoom (k : Nat) (s : State) : Chk := if messageFree s k then none else some (status 0x304)

/-- Take an XFER or ATOMIC into the work, with the layers that only the Loft holds asked for; its message starts at once where the
connection is UP and nothing else is waited for (R242, R747, R750). -/
def beginNet (t : Taken) (o : NetOp) (s : State) : State :=
  let s := modWork (fun w => { w with
    nets := w.nets.filter (fun x => decide (x.seq < o.seq)) ++ [o] ++ w.nets.filter fun x => decide (o.seq < x.seq) }) (setRunning o.seq s)
  let s := (netPages s o).foldl (fun s p => wantPage t.seq t.company p s) s
  if ((conn s o.conn).map (·.state)).getD 0 == 2 && netMayStart s o then startNet o s else s

/-- The local range of an XFER lies within its object, which exists (R647). -/
def localBad (t : Taken) (s : State) : Bool :=
  let n := low (word t 6)
  let off := (word t 4).toNat
  match fld (word t 2) 63 60 with
  | 2 => !((setNamed t s (word t 3).toNat).map fun w => decide (off + n ≤ weightBytes w)).getD false
  | 3 => !((kget s.store.scratch (low (word t 2))).map fun x => x.company == t.company && decide (off + n ≤ x.size)).getD false
  | _ => false

def xferMasks : List Nat :=
  [0, bits 32 32 + bits 23 0, bits 63 60 + bits 31 0, bits 63 0, bits 63 0, bits 63 0, bits 31 0, 0]

/-- The checks of Xfer, in their order (R583). -/
def xferChecks (t : Taken) (s : State) : List Chk :=
  let k := fld (word t 1) 23 0
  let op := fld (word t 1) 32 32
  let kind := fld (word t 2) 63 60
  let n := low (word t 6)
  let a := (word t 3).toNat
  let remote := (word t 5).toNat
  let set := setNamed t s a
  [generalCheck t s, unitFailed s false,
    badFields (reservedBad t xferMasks ++ bads
      [(!connMine s t.company k || wrongConn t s k, 64, 0),
       (kind == 0 || 3 < kind || (kind == 2 && op == 1), 188, 0),
       (kind == 3 && ((kget s.store.scratch (low (word t 2))).filter fun x => x.company == t.company).isNone, 128, 0),
       (kind == 1 && (a % 64 != 0 || wraps a n), 192, 0), (kind == 2 && set.isNone, 192, 0),
       (kind != 1 && localBad t s, 256, 0), (wraps remote n, 320, 0), (n == 0 || maxMessage < n, 384, 0)]),
    opcodeCheck t s,
    checkRegions t s ((if kind == 1 then [hostRegion t s (if op == 0 then 1 else 2) a n 192] else []) ++
      [{ kind := 1, right := if op == 0 then 2 else 1, scope := k, addr := remote, len := n, idx := 0, loc := atBit 320 }]),
    if (set.map (·.retired)).getD false && kind == 2 then some (status 0x502) else none,
    messageRoom k s]

/-- The command as its packet gives it (R647): connection, direction, local and remote places, and the bytes that it sends. A weight set is
the one that its name stood for at intake (R663). -/
def netXferOp (t : Taken) (s : State) : NetOp :=
  let kind := fld (word t 2) 63 60
  let n := low (word t 6)
  let a := (word t 3).toNat
  let set := setNamed t s a
  { seq := t.seq, conn := fld (word t 1) 23 0, atomic := false, op := fld (word t 1) 32 32, msg := none, since := now s
    length := n, done := 0, local_ := (kind, if kind == 2 then (set.map (·.setNum)).getD 0 else low (word t 2), if kind == 1 then a else (word t 4).toNat)
    remote := (word t 5).toNat
    data := if kind == 1 then hostArray t 0
            else (set.map fun w => slice w.layers.flatten (word t 4).toNat n).getD []
    w3 := 0, w4 := 0 }

/-- XFER (R647, R584, R663, R746, R749, R750). -/
def execXfer (r : CmdRef) (s : State) : Res :=
  runRow 0x58 r s fun t s =>
    checked t (xferChecks t s) s fun s => beginNet t (netXferOp t s) s

/-- The checks of Atomic, in their order (R583). -/
def atomicChecks (t : Taken) (s : State) : List Chk :=
  let k := fld (word t 1) 23 0
  let remote := (word t 2).toNat
  [generalCheck t s, unitFailed s false,
    badFields (reservedBad t [0, bits 32 32 + bits 23 0, bits 63 0, bits 63 0, bits 63 0, 0, 0, 0]
      ++ bads [(!connMine s t.company k || wrongConn t s k, 64, 0), (remote % 8 != 0, 128, 0)]),
    opcodeCheck t s,
    checkRegions t s [{ kind := 1, right := 4, scope := k, addr := remote, len := 8, idx := 0, loc := atBit 128 }],
    messageRoom k s]

/-- The command as its packet gives it (R648). -/
def netAtomicOp (t : Taken) (s : State) : NetOp :=
  { seq := t.seq, conn := fld (word t 1) 23 0, atomic := true, op := fld (word t 1) 32 32, msg := none, since := now s
    length := 8, done := 0, local_ := (0, 0, 0), remote := (word t 2).toNat, data := [], w3 := word t 3, w4 := word t 4 }

/-- ATOMIC (R648, R746, R749, R750). -/
def execAtomic (r : CmdRef) (s : State) : Res :=
  runRow 0x59 r s fun t s =>
    checked t (atomicChecks t s) s fun s => beginNet t (netAtomicOp t s) s

/-- CONNECTION_WAIT_TIMEOUT: 100 ms without an UP connection (R750). -/
def execConnectionWaitTimeout (r : CmdRef) (s : State) : Res :=
  match s.taken.find? fun t => t.queue == r.queue && t.tag == r.tag && t.running && (t.opcode == 0x58 || t.opcode == 0x59) with
  | none => .next s
  | some t =>
    match findNet s t.seq with
    | none => .next s
    | some o => if o.msg.isNone && ((conn s o.conn).map (·.state)).getD 0 != 2 && isLate t.time 100000000 s then .next (endNet t.seq (status 0x602) s) else .next s

/-! The ports' own traffic. -/

/-- ETH_LINK_CHANGE (R715, R757). -/
def execEthLinkChange (k : Nat) (up : Bool) (s : State) : Res :=
  if !frameOk k then .fault .noSuchThing
  else if !hasEth s || !bit s.pwr.on 5 then .next s
  else .next (modEth k (fun e => { e with linkUp := up, fecLock := up, gw := up && e.gw }) s)

/-- An address on the port's own prefix (R716, R717). -/
def onPrefix (e : EthPort) (v6 : Bool) (a : Nat) : Bool :=
  let len := if v6 then min 128 (leAt e.addrs 9 1) else min 32 (leAt e.addrs 8 1)
  let width := if v6 then 128 else 32
  ethIp e v6 / 2 ^ (width - len) == a / 2 ^ (width - len)

/-- Address resolution: a request for the port's own address is answered; an answer for the gateway or a neighbour resolves
it; anything else is dropped (R716). -/
def resolution (k : Nat) (v6 request : Bool) (kind target sender : Nat) (s : State) : Res :=
  if !frameOk k then .fault .noSuchThing
  else if !frameArrives s k then .next s
  else
    let e := ethPort s k
    if request then
      if ethIp e v6 != 0 && ethIp e v6 == target then .next (emit (.frame k kind [target, sender]) s) else .next (countDrop s)
    else if ethIp e v6 != 0 && (sender == ethGateway e v6 || onPrefix e v6 sender) then
      .next (modEth k (fun e => { e with gw := true }) s)
    else .next (countDrop s)

/-- ARP (R716). -/
def execArp (k : Nat) (request : Bool) (target sender : Word32) (s : State) : Res :=
  resolution k false request 1 target.toNat sender.toNat s

/-- NEIGHBOR_DISCOVERY (R716). -/
def execNeighborDiscovery (k : Nat) (solicit : Bool) (target sender : BitVec 128) (s : State) : Res :=
  resolution k true solicit 2 target.toNat sender.toNat s

/-- ICMP_ECHO: answered for the port's own address (R716). -/
def execIcmpEcho (k : Nat) (ipv6 : Bool) (target sender : BitVec 128) (payload : List Byte) (s : State) : Res :=
  if !frameOk k then .fault .noSuchThing
  else if !frameArrives s k then .next s
  else if ethIp (ethPort s k) ipv6 != 0 && ethIp (ethPort s k) ipv6 == target.toNat then
    .next (emit (.frame k 3 ([sender.toNat, target.toNat] ++ payload.map (·.toNat))) s)
  else .next (countDrop s)

/-- DROPPED_FRAME (R716, R726, R761). -/
def execDroppedFrame (k : Nat) (s : State) : Res :=
  if !frameOk k then .fault .noSuchThing
  else if !frameArrives s k then .next s
  else .next (countDrop s)

end Sys2Proof.Machine
end

