-- ==== Sys2Proof/Machine/HealthRows.lean ====
section
/-!
DEFINITION. What fails in service and how the device repairs it: clusters (R120, R813 to R816, R829, R830, R834), Stage rows
(R817, R818), mesh links (R113, R819), delay monitors (R152), Wings rows (R821, R822), and the Prompter and Stagehand (R824).
-/
namespace Sys2Proof.Machine
open Sys2Proof

/-- The device has come up as far as Dawn phase n, or is in service. -/
def upFrom (n : Nat) (s : State) : Bool :=
  bit s.pwr.on 0 && decide (n ≤ s.dev.dawnPhase.toNat) && !s.dev.flushed && !s.pwr.safeOff

/-! Data that failing rows held. -/

/-- Poison 64-byte units of scratch objects that lie in the tier (R818). -/
def poisonUnits (stage : Bool) (l : List (Nat × Nat)) (s : State) : State :=
  let mine := fun (h : Nat) => (l.filter fun p => p.1 == h).map (·.2)
  let mark : Nat → Scratch → Scratch := fun h x =>
    if x.stage != stage then x
    else { x with poison := (mine h).foldl (fun a u => if a.contains u || x.size ≤ 64 * u then a else a ++ [u]) x.poison }
  modStore (fun st => { st with scratch := kmap st.scratch mark }) s

/-- Poison 64-byte units of tails that lie in the tier (R818). -/
def poisonTails (stage : Bool) (l : List (Nat × Nat × Nat)) (s : State) : State :=
  let mark : Nat → Stream → Stream := fun h t =>
    if t.tailStage != stage then t
    else { t with tailPoison := (l.filter fun q => q.1 == h).foldl (fun a q =>
      if a.contains q.2 || (t.tailPages.getD q.2.1 []).length ≤ 64 * q.2.2 then a else a ++ [q.2]) t.tailPoison }
  modStore (fun st => { st with streams := kmap st.streams mark }) s

/-- A damaged copy of a page is dropped, which Usher's units learn; with no other copy its scene or weight set is retired (R286, R289, R338,
R818). -/
def dropPageCopy (stage : Bool) (c : Nat) (what : PageRef) (s : State) : State :=
  if refBytes s c what == 0 then s else
  let s := match what with
    | .scene id l =>
      let has := ((findScene s c id).map fun x => (if stage then x.stage else x.wings).getD l false).getD false
      if !has then s else invalidate c id (modScene c id (fun x =>
        if stage then { x with stage := setAt x.stage l false } else { x with wings := setAt x.wings l false }) s)
    | .weights n l => modSet n (fun w =>
        if stage then { w with stage := setAt w.stage l false } else { w with wings := setAt w.wings l false }) s
  if pageAbove s c what || pageInLoft s c what || pageRetired s c what then s else retirePage c what false s

/-- The words of a row that cannot be read (R818). -/
def loseRow (stage : Bool) (o : RowLoss) (s : State) : State :=
  o.data.pages.foldl (fun s p => dropPageCopy stage p.1 p.2 s) (poisonTails stage o.tails (poisonUnits stage o.units s))

/-! Clusters. -/

/-- The repair map gains an entry, which never leaves it (R812). -/
def addDefect (p : Nat) (s : State) : State :=
  modHealth (fun h => if h.repairMap.contains p then h else { h with repairMap := h.repairMap ++ [p] }) s

/-- The free understudy that logical cluster c would be mapped to (R120). -/
def understudyFor (c : Nat) (s : State) : Option Nat :=
  pickUnderstudy ((upto 176).filter fun p => (cluster s p).mapState == 1) (c / 10)

/-- One EV_HEALTH for what happened, whether or not a cause or the state has changed (R808, R814). -/
def reportRepair (s : State) : State :=
  let n := s.evt.log.length
  let s1 := syncHealth s
  if s1.evt.count == s.evt.count && s1.evt.log.length == n then postEvent 0 0xFF (healthWord s1) s1.health.lifeS s1 else s1

/-- Allotments that logical cluster c holds go to the front of those not yet taken, with the clusters that shared them
released (R815). -/
def returnAllots (c : Nat) (s : State) : State :=
  s.work.atts.foldl (fun s o =>
    let mine := (o.active.filter fun x => x.1 == c).map (·.2)
    if mine.isEmpty then s else
    let shared := (o.active.filter fun x => mine.contains x.2).map (·.1)
    releaseAllots shared (modAtt o.seq (fun o => { o with
      todo := mine ++ o.todo, active := o.active.filter fun x => !mine.contains x.2 }) s)) s

/-- The run that physical cluster p holds is halted and completes with INTERNAL; the pc and info of its result are free
values (R464, R815; notes/assumptions/2.md). -/
def failRun (p c : Nat) (stageRow : Bool) (s : State) : State :=
  match (cluster s p).run with
  | none => s
  | some seq =>
    let (f, s) := takeFree s
    let why := (now s, c, (if stageRow then 10 else 0), fld f 15 0, fld f 47 16)
    let s := modCluster p (fun x => { x with run := none, xfers := [] }) s
    haltRun seq (modRun seq (fun r => { r with internal := true, fault := some why }) s)

/-- A message, signal or acknowledgement on its way to logical cluster c: it is dropped at the defective cluster's port (R150, R815). -/
def boundFor (c : Nat) : MeshItem → Bool
  | .mail _ dst _ _ _ => dst == c
  | .ack src _ _ _ _ => src == c
  | .signal _ dst _ _ _ => dst == c

/-- A PUT to, or a GET from, logical cluster c: its flits are dropped there (R150, R815). -/
def reachesCluster (c : Nat) (x : Transfer) : Bool := (x.kind == .put || x.kind == .get) && x.peer == c

/-- Transfers of the clusters of p's run that reach into p's working area never land. -/
def dropReaching (p c : Nat) (s : State) : State :=
  match (cluster s p).run with
  | none => s
  | some seq =>
    let drop : Nat → Cluster → Cluster := fun _ x =>
      if x.run == some seq then { x with xfers := x.xfers.filter fun t => !reachesCluster c t } else x
    { s with clusters := kmap s.clusters drop }

/-- Copies in the failed cluster's working area are dropped; which of the copies made there lie in this slice no rule says: a free value
(R223, R815; notes/assumptions/2.md). -/
def dropSliceCopies (s : State) : State :=
  if s.work.working.isEmpty then s else
  let (f, s) := takeFree s
  let l := s.work.working
  modWork (fun w => { w with working := ((upto l.length).filter fun k => !f.getLsbD (k % 64)).filterMap (l[·]?) }) s

/-- The serving cluster p is defective: its work ends (R814, R815). -/
def retireCluster (p c : Nat) (stageRow : Bool) (s : State) : State :=
  let s := failRun p c stageRow (dropReaching p c (returnAllots c (dropSliceCopies s)))
  let s := modWork (fun w => { w with mesh := w.mesh.filter fun i => !boundFor c i }) s
  addDefect p (modCluster p (fun x => { scrubbed x.company x with mapState := 2, logical := 0xFF, run := none, xfers := [] }) s)

/-- Logical cluster c passes from p to understudy u, scrubbed first; placed Stage objects are copied (R119, R120, R814). -/
def installUnderstudy (p c u : Nat) (s : State) : State :=
  let old := cluster s p
  let s := modCluster u (fun x => { scrubbed old.company x with
    mapState := if c / 10 == u / 11 then 0 else 3, logical := BitVec.ofNat 8 c, run := none, xfers := [] }) s
  healthRecord 0 0 p u s

/-- A serving cluster has failed: the takeover, or NO_CLUSTER (R814, R815, R834). -/
def takeOver (p : Nat) (stageRow : Bool) (lost : RowLoss) (s : State) : State :=
  let c := (cluster s p).logical.toNat
  let s := loseRow true lost (retireCluster p c stageRow s)
  match understudyFor c s with
  | some u => reportRepair (recountRows (installUnderstudy p c u s))
  | none => raiseCause (2 ^ 16) (healthRecord 0 1 p (Config.recordRepl 0 p none) (recountRows s))

/-- A free understudy that is defective leaves the free count (R816). -/
def dropUnderstudy (p : Nat) (s : State) : State :=
  addDefect p (modCluster p (fun x => { x with mapState := 2 }) s)

/-- A physical cluster has failed. -/
def failCluster (p : Nat) (stageRow : Bool) (lost : RowLoss) (s : State) : State :=
  if clusterServes s p then takeOver p stageRow lost s
  else if clusterWorks s p then syncHealth (dropUnderstudy p s)
  else s

/-- CLUSTER_FAILURE (R813 to R816, R818, R829, R830). -/
def execClusterFailure (p : Nat) (stageRow : Bool) (lost : RowLoss) (s : State) : Res :=
  if 176 ≤ p then .fault .noSuchThing
  else if !upFrom 7 s || !clusterWorks s p then .next s
  else .next (failCluster p stageRow lost s)

/-! Stage rows. -/

/-- Rows of a slice, then those of the instruction memory, which draw on the same spares (R817). -/
def stageRowOk (row : Nat) : Bool := decide (row < 3072 + 128)

/-- STAGE_ROW_REPAIR: a spare row takes the row's place at the next boundary between commands; with no spare left the
cluster has failed (R813, R817, R818). -/
def execStageRowRepair (p row : Nat) (lost : RowLoss) (s : State) : Res :=
  if !(decide (p < 176) && stageRowOk row) then .fault .noSuchThing
  else if !upFrom 7 s || !clusterWorks s p then .next s
  else
    let n := (cluster s p).rowsUsed
    if spareRows ≤ n then .next (failCluster p true lost (healthRecord 1 1 p (Config.recordRepl 1 p none) s))
    else if clusterServes s p && !clusterFree s (cluster s p).logical.toNat then .next s
    else
      let s := recountRows (modCluster p (fun x => { x with rowsUsed := n + 1 }) s)
      .next (loseRow true lost (healthRecord 1 0 p (Config.recordRepl 1 p (some n)) s))

/-! Mesh links. -/

def noLoss : RowLoss := { units := [], tails := [], data := { pages := [] } }

/-- Fail clusters until no pair is parted; which pair is next no rule says, and its place is a free value (R819;
notes/assumptions/82.md). -/
def healMesh : Nat → State → State
  | 0, s => s
  | n + 1, s =>
    match partedPairs s with
    | [] => s
    | l =>
      let (f, s) := takeFree s
      healMesh n (failCluster (l.getD (f.toNat % l.length) 0) false noLoss s)

/-- LINK_DEATH: so many lanes of a link fail that fewer than 16 work (R113, R807, R819). -/
def execLinkDeath (p dir failing : Nat) (s : State) : Res :=
  match linkAt p dir with
  | none => .fault .noSuchThing
  | some k =>
    if linkLanes < failing then .fault .noSuchThing
    else if !upFrom 7 s || (deadSet s).contains k || !lanesDead failing then .next s
    else .next (healMesh 176 (steerLanes p dir failing s))

/-! Delay monitors. -/

/-- The 11 clusters of physical row k. -/
def rowClusters (k : Nat) : List Nat := (upto 11).map fun i => 11 * k + i

/-- The free understudies of row k leave the free count (R152, R816). -/
def dropFree (k : Nat) (s : State) : State :=
  if upFrom 7 s then
    ((rowClusters k).filter fun p => (cluster s p).mapState == 1).foldl (fun s p => dropUnderstudy p s) s
  else s

/-- The monitor of cluster region k has failed: a defect of the region, so each cluster of the row fails and enters the
repair map (R152, R814; notes/assumptions/84.md). -/
def failRegion (k : Nat) (s : State) : State :=
  let s := if upFrom 7 s then (rowClusters k).foldl (fun s p => failCluster p false noLoss s) s else s
  (rowClusters k).foldl (fun s p => addDefect p s) s

/-- MONITOR_FAILURE: the cause is raised with the row's understudies gone, then its serving clusters are taken over
(R12, R152, R807, R808). -/
def execMonitorFailure (region : Nat) (s : State) : Res :=
  if 18 ≤ region then .fault .noSuchThing
  else if !bit s.pwr.on 0 || bit s.health.monitorBad region || (region == 17 && !hasPrompter s) then .next s
  else
    let s := modHealth (fun h => { h with monitorBad := h.monitorBad ||| BitVec.ofNat 18 (2 ^ region) }) s
    let s := modPerf (fun p => { p with beatNow := setAt p.beatNow region 0xFFFF }) s
    .next (if region < 16 then failRegion region (raiseCause 64 (dropFree region s)) else raiseCause 64 s)

/-! Wings rows. -/

/-- WINGS_ROW_REPAIR (R811, R818, R821, R822). -/
def execWingsRowRepair (stack row : Nat) (lost : RowLoss) (s : State) : Res :=
  if 8 ≤ stack then .fault .noSuchThing
  else if !upFrom 5 s then .next s
  else .next (failRow stack row (loseRow false lost s))

/-! Units. -/

/-- Running commands that need a failed Prompter end with INTERNAL: those whose scoring is not done (R824). -/
def needsPrompter (s : State) (t : Taken) : Bool :=
  t.running && (t.opcode == 0x42 || (t.opcode == 0x41 &&
    ((attOf s t.seq).map fun o => !(upto o.rows.length).all (rowScored o)).getD false))

/-- UNIT_FAILURE: UNIT_FAIL is set; every connection is lost and stays in CONFIGURED (R739, R824). -/
def execUnitFailure (stagehand : Bool) (s : State) : Res :=
  let present := if stagehand then hasStagehand s else hasPrompter s
  let failed := if stagehand then s.health.stagehandFailed else s.health.prompterFailed
  if !upFrom 7 s || !present || failed then .next s
  else if stagehand then
    let s := modHealth (fun h => { h with stagehandFailed := true }) s
    let s := raiseCause (2 ^ 10) (healthRecord 9 2 (Config.recordTarget 9 1 0) (Config.recordRepl 9 1 none) s)
    .next ((s.conns.map (·.1)).foldl (fun s k => loseConn k s) s)
  else
    let s := modHealth (fun h => { h with prompterFailed := true }) s
    let s := raiseCause (2 ^ 10) (healthRecord 9 2 (Config.recordTarget 9 0 0) (Config.recordRepl 9 0 none) s)
    .next (settle (abortAll 0x603 (needsPrompter s) s).1)

end Sys2Proof.Machine
end

