-- ==== Sys2Proof/Machine/Maintenance.lean ====
section
/-!
DEFINITION. The maintenance commands SCRUB_NOW, REPAIR, SELFTEST, FW_DOWNLOAD and FW_COMMIT (R626, R653 to R657, R665, R666,
R669, R670, R816, R820).
-/
namespace Sys2Proof.Machine
open Sys2Proof

/-- The company field must be 0 (R626). -/
def ownerOnly (t : Taken) : Bad := (t.company != 0, 10, 0)

/-! SCRUB_NOW and SELFTEST. -/

/-- Other commands of the same opcode, taken in while this one runs, complete with BUSY_RETRY, unless a check that comes
before it fails (R583, R670). -/
def endRivals (t : Taken) (checks : Taken → State → List Chk) (s : State) : State :=
  (s.taken.filter fun u => u.opcode == t.opcode && u.dispatched && decide (t.seq < u.seq)).foldl
    (fun s u => finish u ((firstOf (checks u s)).getD (status 0x303)) s) s

def scrubChecks (t : Taken) (s : State) : List Chk :=
  let n := fld (word t 1) 26 16
  [generalCheck t s,
   badFields (reservedBad t [0, bits 26 16 + bits 9 0] ++
     bads [ownerOnly t, (decide (1024 < fld (word t 1) 9 0 + (if n == 0 then 1024 else n)), 64, 0)]),
   opcodeCheck t s]

/-- The programmed blocks of the working dies from `first` on, n of them, or all from there where n is 0. -/
def namedBlocks (s : State) (first n : Nat) : List (Nat × Nat) :=
  (((upto (if n == 0 then 1024 else n)).map (first + ·)).filter (dieWorks s)).flatMap fun d =>
    ((die s d).blocks.filter fun q => q.2.used != 0).map fun q => (d, q.1)

/-- How a block read in the pass. -/
def readAs (o : MaintOutcome) (q : Nat × Nat) : ReadOutcome :=
  ((o.found.find? fun f => f.1 == q.1 && f.2.1 == q.2).map (·.2.2)).getD .hard

def movingBlocks (s : State) (l : List (Nat × Nat)) : Nat := (l.filter fun q => (blk (die s q.1) q.2).moving).length

/-- Pages in blocks of l that the pass finds failed: a weight set's page is one of its layers (notes/assumptions/47.md). -/
def failedPages (o : MaintOutcome) (l : List (Nat × Nat)) (s : State) : List (Nat × PageRef) :=
  o.lost.pages.eraseDups.filter fun p =>
    pageInLoft s p.1 p.2 && l.any fun q => readAs o q == .failed && liesIn s q.1 q.2 p

/-- One pass over blocks: how many it relocates, how many pages it finds failed, and the state after it (R266, R653). -/
def scrubPass (o : MaintOutcome) (l : List (Nat × Nat)) (s : State) : Nat × Nat × State :=
  let u := l.foldl (fun s q => scrubBlock q.1 q.2 (readAs o q) o.lost.pages s) s
  (movingBlocks u l - movingBlocks s l, (failedPages o l s).length, afterMedium (endPass u))

/-- SCRUB_NOW: one patrol pass over the dies named (R266, R285 to R289, R299, R653, R670). -/
def execScrubNow (r : CmdRef) (o : MaintOutcome) (s : State) : Res :=
  runRow 0x78 r s fun t s =>
    checked t (scrubChecks t s) s fun s =>
      let l := namedBlocks s (fld (word t 1) 9 0) (fld (word t 1) 26 16)
      let (moved, failed, s) := scrubPass o l s
      endRivals t scrubChecks (finish t (okWith (w64 l.length) (w64 moved) (w64 failed)) s)

def selftestChecks (t : Taken) (s : State) : List Chk :=
  [generalCheck t s,
   badFields (reservedBad t [0, bits 3 0] ++ bads [ownerOnly t, (decide (2 < fld (word t 1) 3 0), 64, 0)]),
   opcodeCheck t s]

/-- What a self-test finds: elements tested, those found defective, and the state with them in the health accounting: a free
understudy leaves the free count, a Wings row is repaired, a die whose reference word lines do not decode fails (R291, R655,
R816, R821). -/
def selfTest (kind : Nat) (o : MaintOutcome) (s : State) : Nat × Nat × State :=
  match kind with
  | 0 =>
    let bad := o.defective.filter fun p => decide (p < 176) && (cluster s p).mapState == 1
    (freeUs s, bad.length, syncHealth (bad.foldl (fun s p => dropUnderstudy p s) s))
  | 1 =>
    (o.tested, o.defective.length, o.defective.foldl (fun s k => failRow (k % 8) (k / 8) s) s)
  | _ =>
    let bad := o.defective.filter fun d => dieOk d && dieWorks s d
    (((upto 1024).filter (dieWorks s)).length, bad.length, bad.foldl (fun s d => failDie d s) s)

/-- SELFTEST (R655, R670, R816). -/
def execSelftest (r : CmdRef) (o : MaintOutcome) (s : State) : Res :=
  runRow 0x7A r s fun t s =>
    checked t (selftestChecks t s) s fun s =>
      let (n, bad, s) := selfTest (fld (word t 1) 3 0) o s
      endRivals t selftestChecks (finish t (okWith (w64 n) (w64 bad) 0) s)

/-! REPAIR. -/

/-- Bits of the target field that a kind uses (R654). -/
def targetMask (kind : Nat) : Nat :=
  match kind with
  | 0 => bits 7 0
  | 1 => bits 7 0
  | 2 => bits 47 8 + bits 2 0
  | _ => bits 9 0

def targetAbsent (kind v : Nat) : Bool := (kind == 0 && decide (160 ≤ v)) || (kind == 1 && decide (176 ≤ v))

/-- The cluster holds a command: a run or an allotment. -/
def clusterBusy (s : State) (c : Nat) : Bool := (physOf s c).isSome && !clusterFree s c

/-- Kind 0: the logical cluster is mapped to a free understudy; the cluster replaced is defective (R120, R654, R669, R834). -/
def repairCluster (t : Taken) (c : Nat) (s : State) : State :=
  match physOf s c, understudyFor c s with
  | some p, some u =>
    let s := modCluster p (fun x => { x with mapState := 2, logical := 0xFF }) s
    finish t (okWith (w64 u) 0 0) (reportRepair (recountRows (addDefect p (installUnderstudy p c u s))))
  | _, _ => finish t (status 0x302) s

/-- A retest finds more lanes of a living link failing than its spares can take. -/
def spareLacks (p : Nat) (s : State) (x : Nat × Nat) : Bool :=
  (linkAt p x.1).any fun k => !(deadSet s).contains k && decide (failingLanes s k < x.2) && decide (spareLanes < x.2)

/-- Kind 1: the lanes of the router's links are retested and failing ones steered to spares (R113, R820). Where a link lacks a spare it runs on 16
lanes, or is dead, and the command completes with CAPACITY (R654; DEDUCED, notes/assumptions/120.md). No rule states result0, a free value
(notes/assumptions/2.md). -/
def repairLanes (t : Taken) (p : Nat) (o : MaintOutcome) (s : State) : State :=
  let l := o.lanes.filter fun x => (linkAt p x.1).isSome && decide (x.2 ≤ linkLanes)
  let lacks := l.any (spareLacks p s)
  let s := healMesh 176 (l.foldl (fun s x => steerLanes p x.1 x.2 s) s)
  if lacks then finish t (status 0x302) s else
  let (f, s) := takeFree s
  finish t (okWith f 0 0) s

/-- Kind 2: the same as for a failing row (R654, R821, R822). -/
def repairWings (t : Taken) (v : Nat) (s : State) : State :=
  if s.health.wingsRsv == 0 then finish t (status 0x302) s else
  let (n, s) := repairRow (v % 8) (v / 256) s
  finish t (okWith (w64 n) 0 0) s

/-- A die of the channel that takes the units of a failed die has room for new stripes (R293, R295). -/
def rebuildRoom (s : State) (d : Nat) : Bool := (channelDies (servedChannel s (dieChannel d))).any (takesStripes s)

/-- Kind 3: the die is taken out of service and its rebuild starts; the answer is the count of units that the rebuild remaps (R292, R293,
R654). -/
def repairDie (t : Taken) (d : Nat) (s : State) : State :=
  if s.loft.rebuilding.any fun e => dieGroup e == dieGroup d then finish t (status 0x303) s
  else if !dieWorks s d then finish t okay s
  else
    let u := failDie d s
    if !rebuildRoom u d then finish t (status 0x302) s
    else finish t (okWith (w64 (u.loft.rebuilds.filter (·.die == d)).length) 0 0) u

/-- The checks of REPAIR, in their order (R583). -/
def repairChecks (t : Taken) (s : State) : List Chk :=
  let kind := fld (word t 1) 3 0
  let v := (word t 2).toNat
  [generalCheck t s,
    badFields (reservedBad t [0, bits 3 0, targetMask kind] ++
      bads [ownerOnly t, (decide (3 < kind), 64, 0), (targetAbsent kind v, 128, 0)]),
    opcodeCheck t s]

/-- REPAIR (R654, R669, R820, R821, R832). Kind 0 waits until the cluster ends the command it holds; its row then comes
again. -/
def execRepair (r : CmdRef) (o : MaintOutcome) (s : State) : Res :=
  match findRun 0x79 r s with
  | some t =>
    let kind := fld (word t 1) 3 0
    let v := (word t 2).toNat
    .next (checked t (repairChecks t s) s fun s =>
      if kind == 0 then (if clusterBusy s v then setRunning t.seq s else repairCluster t v s)
      else if kind == 1 then repairLanes t v o s
      else if kind == 2 then repairWings t v s
      else repairDie t v s)
  | none =>
    match findRunning 0x79 r s with
    | some t =>
      let v := (word t 2).toNat
      .next (if clusterBusy s v then s else repairCluster t v s)
    | none => .next s

/-! Firmware. -/

def kib4 : Nat := 4096
def mib1 : Nat := 1048576
def mib16 : Nat := 16777216

/-- The checks of FwDownload, in their order (R583). -/
def fwDownloadChecks (t : Taken) (s : State) : List Chk :=
  let slot := fld (word t 1) 0 0
  let off := (word t 2).toNat
  let n := (word t 3).toNat
  let a := (word t 4).toNat
  [generalCheck t s,
    badFields (reservedBad t [0, bits 0 0, bits 63 0, bits 63 0, bits 63 0] ++
      bads [ownerOnly t, (s.dev.fwSlot != 3 && s.dev.fwSlot.toNat == slot, 64, 0),
            (off % kib4 != 0 || mib16 < off, 128, 0),
            (n % kib4 != 0 || mib1 < n || (off ≤ mib16 && mib16 < off + n), 192, 0),
            (a % 64 != 0 || wraps a n, 256, 0)]),
    opcodeCheck t s, checkRegions t s [hostRegion t s 1 a n 256]]

/-- FW_DOWNLOAD (R584, R656, R665, R666). -/
def execFwDownload (r : CmdRef) (s : State) : Res :=
  runRow 0x7C r s fun t s =>
    let slot := fld (word t 1) 0 0
    let off := (word t 2).toNat
    checked t (fwDownloadChecks t s) s fun s =>
      let put : FwSlot → FwSlot := fun f => { f with image := f.image.writes off (hostArray t 0), state := 0 }
      finish t okay { s with fw := kmodD s.fw slot FwSlot.fresh put }

/-- The verdict on a slot under step 3 of R64: 0 it verifies, 1 the signature fails, 2 its security version is too low. -/
def slotVerdict (s : State) (k : Nat) : Nat :=
  let f := kgetD s.fw k FwSlot.fresh
  if !Config.fwSigned f.image then 1
  else if Config.fwSecVer f.image < s.fuses.secVerMin.toNat then 2 else 0

/-- Log 0x04's record of a verification. -/
def recordVerdict (k v : Nat) (s : State) : State :=
  let put : FwSlot → FwSlot := fun f =>
    { f with state := if v == 0 then 1 else 2, measure := Config.fwDigest f.image }
  { s with fw := kmodD s.fw k FwSlot.fresh put }

/-- The checks of FwCommit, in their order (R583). -/
def fwCommitChecks (t : Taken) (s : State) : List Chk :=
  let action := fld (word t 1) 9 8
  [generalCheck t s,
    badFields (reservedBad t [0, bits 9 8 + bits 0 0] ++ bads [ownerOnly t, (action == 3, 72, 0)]),
    opcodeCheck t s]

/-- FW_COMMIT (R64, R657, R666, R906). The orderly shutdown with restart of action 2 starts once its completion is posted: it sets both fields of
DEV_CTRL, by which R76 acts and R94 cancels (DEDUCED, notes/assumptions/119.md). -/
def execFwCommit (r : CmdRef) (s : State) : Res :=
  runRow 0x7D r s fun t s =>
    let slot := fld (word t 1) 0 0
    let action := fld (word t 1) 9 8
    let v := slotVerdict s slot
    checked t (fwCommitChecks t s) s fun s =>
      if v != 0 then finish t (badAt 64 v) (recordVerdict slot v s)
      else if action != 0 && s.lock.fw then finish t (status 0x204) s
      else
        let s := recordVerdict slot 0 s
        let s := if action == 0 then s else { s with flash := { s.flash with activeSlot := slot == 1 } }
        let s := finish t okay s
        if action == 2 then beginShutdown true s else s

end Sys2Proof.Machine
end

