-- ==== Sys2Proof/Machine/Manage.lean ====
section
/-!
DEFINITION. The management interfaces beside SPDM: the fabric manager API of multi-logical ports (R679), MCTP control
messages (R889) and PLDM (R827, R890). Command, type and return codes are those of CXL 3.1 and of the DMTF specifications
(notes/assumptions/32.md).
-/
namespace Sys2Proof.Machine
open Sys2Proof

/-! Fabric manager API. -/

/-- A request that reaches the FM-owned logical device of a multi-logical port (R676, R679). -/
def fmRow (k : Nat) (s : State) (go : State → State) : Res :=
  if !portOk k then .fault .noSuchThing
  else if !(port s k).linkUp || !(port s k).actMld || !fuseDone s then .next s
  else .next (go s)

/-- Bytes of the DPA layout that a logical device shows (R680). -/
def ldBytes (s : State) (k ld : Nat) : Nat :=
  match agentOfLd s k ld with
  | none => 0
  | some a =>
    let c := (agent s a).company
    windowSize s c false + (if isSplit s c then windowSize s c true else 0) + coherentSize

def lds (s : State) (k : Nat) : List Nat := upto (ldCount (port s k))

/-- GET_LD_INFO: bytes, logical devices, QoS telemetry present (R679). -/
def execGetLdInfo (k : Nat) (s : State) : Res :=
  fmRow k s fun s => emit (.fm k 0x5400 0 [((lds s k).map (ldBytes s k)).sum, ldCount (port s k), 1]) s

/-- GET_LD_ALLOCATIONS: the bytes of each logical device (R679). -/
def execGetLdAllocations (k : Nat) (s : State) : Res :=
  fmRow k s fun s => emit (.fm k 0x5401 0 ((lds s k).map (ldBytes s k))) s

/-- GET_QOS_CONTROL: the device's sharing mode (R679, R698). -/
def execGetQosControl (k : Nat) (s : State) : Res := fmRow k s fun s => emit (.fm k 0x5403 0 [b2n s.store.bandwidth]) s

/-- GET_QOS_STATUS: the fill of the port request queue in percent (R679, R701). -/
def execGetQosStatus (k : Nat) (s : State) : Res :=
  fmRow k s fun s => emit (.fm k 0x5405 0 [100 * portLoad s k / requestQueue]) s

def ldRates (s : State) (k : Nat) (f : Agent → Nat) : List Nat :=
  (lds s k).map fun ld => ((agentOfLd s k ld).map fun a => f (agent s a)).getD 0

/-- GET_QOS_ALLOCATED_BW: the rate of each logical device in GB/s (R679, R699). -/
def execGetQosAllocatedBw (k : Nat) (s : State) : Res := fmRow k s fun s => emit (.fm k 0x5406 0 (ldRates s k effRate)) s

/-- GET_QOS_BW_LIMIT: the same rates, which are limits in LIMITED mode, 0 in FREE (R679, R699). -/
def execGetQosBwLimit (k : Nat) (s : State) : Res :=
  fmRow k s fun s => emit (.fm k 0x5408 0 (ldRates s k fun g => if s.store.bandwidth then effRate g else 0)) s

/-- Refused with the return code Unsupported, 3 (R679). -/
def fmRefuse (k cmd : Nat) (s : State) : Res := fmRow k s fun s => emit (.fm k cmd 3 []) s

def execSetLdAllocations (k : Nat) (s : State) : Res := fmRefuse k 0x5402 s
def execSetQosControl (k : Nat) (s : State) : Res := fmRefuse k 0x5404 s
def execSetQosAllocatedBw (k : Nat) (s : State) : Res := fmRefuse k 0x5407 s
def execSetQosBwLimit (k : Nat) (s : State) : Res := fmRefuse k 0x5409 s

/-! MCTP. -/

/-- SMBus traffic is served whenever PD0 is powered (R68, R891). -/
def smbusRow (s : State) (go : State → State) : Res := if bit s.pwr.on 0 then .next (go s) else .next s

/-- SET_ENDPOINT_ID: an ID from 8 to 0xFE is taken (R889). -/
def execSetEndpointId (eid : BitVec 8) (s : State) : Res :=
  smbusRow s fun s =>
    if eid.toNat < 8 || eid == 0xFF then emit (.mctp 1 [2, s.health.eid.toNat]) s
    else emit (.mctp 1 [0, eid.toNat]) (modHealth (fun h => { h with eid := eid }) s)

/-- GET_ENDPOINT_ID (R889). -/
def execGetEndpointId (s : State) : Res := smbusRow s fun s => emit (.mctp 2 [0, s.health.eid.toNat]) s

/-- Message types that R889 carries: PLDM 1 and SPDM 5. -/
def mctpTypes : List Nat := [1, 5]

/-- GET_MCTP_VERSION_SUPPORT of MCTP itself, of its control messages or of a carried type; which version numbers it returns
the spec does not state (notes/assumptions/2.md). -/
def execGetMctpVersionSupport (ty : BitVec 8) (s : State) : Res :=
  smbusRow s fun s =>
    if ty == 0xFF || ty == 0 || mctpTypes.contains ty.toNat then
      let (f, s) := takeFree s
      emit (.mctp 4 [0, 1, f.toNat % 2 ^ 32]) s
    else emit (.mctp 4 [0x80]) s

/-- GET_MESSAGE_TYPE_SUPPORT (R889). -/
def execGetMessageTypeSupport (s : State) : Res := smbusRow s fun s => emit (.mctp 5 (0 :: mctpTypes.length :: mctpTypes)) s

/-! PLDM. -/

/-- SET_EVENT_RECEIVER (R827). -/
def execSetEventReceiver (receiver : BitVec 8) (s : State) : Res :=
  smbusRow s fun s => emit (.pldm 0x04 [0]) (modHealth (fun h => { h with receiver := some receiver }) s)

/-- POLL_FOR_PLATFORM_EVENT_MESSAGE: the oldest event that waits (R827). -/
def execPollForPlatformEventMessage (s : State) : Res :=
  smbusRow s fun s =>
    match s.health.waiting with
    | [] => emit (.pldm 0x0B [0, 0]) s
    | e :: r => emit (.pldm 0x0B [0, 1, e.1, e.2]) (modHealth (fun h => { h with waiting := r }) s)

/-- The reading of a sensor (R827, R890). -/
def sensorReading (s : State) (k : Nat) : Option Nat :=
  if k == 1 then some ((healthState s).toNat + 1)
  else if k == 2 then some (freeUs s)
  else if k == 3 then some (100 * s.loft.spareLeft.toNat / 131072)
  else if k == 4 then some s.loft.pctUsed.toNat
  else if k == 5 then some ((s.health.pprLeft.map (·.toNat)).foldl min 192)
  else if k == 6 then some s.pwr.tjC.toNat
  else if k == 7 then some s.pwr.inputW.toNat
  else if k == 8 then some s.pwr.supplyMv.toNat
  else if k == 9 then some (b2n s.pwr.therm)
  else none

/-- PLDM_SENSOR_READ: sensor 1 is a state sensor, the others are numeric; a sensor that does not exist is refused
(R827, R890). -/
def execPldmSensorRead (k : Nat) (s : State) : Res :=
  smbusRow s fun s =>
    match sensorReading s k with
    | some v => emit (.pldm (if k == 1 then 0x21 else 0x11) [0, k, v]) s
    | none => emit (.pldm 0x11 [0x80, k]) s

/-- PLDM_BASE_REQUEST: GetPLDMTypes returns types 0 and 2; the contents of the other base responses the spec does not state;
a command that type 0 does not have is refused (R890). -/
def execPldmBaseRequest (command : BitVec 8) (s : State) : Res :=
  smbusRow s fun s =>
    if command == 4 then emit (.pldm 4 [0, 0, 2]) s
    else if command == 1 then emit (.pldm 1 [0]) s
    else if command == 2 || command == 3 || command == 5 then
      let (f, s) := takeFree s
      emit (.pldm command.toNat [0, f.toNat]) s
    else emit (.pldm command.toNat [5]) s

end Sys2Proof.Machine
end

