-- ==== Sys2Proof/Machine/Rules.lean ====
section
/-!
DEFINITION. Rule changes: COMPANY_RULES and the format of the table it reads (R599, R719, R720, R765, R766), the switch
(R776, R780, R782, R799 to R801), the grace (R779), and the drain that completes the command (R721, R756, R778).
-/
namespace Sys2Proof.Machine
open Sys2Proof

/-! The table. -/

def tableMagic : Nat := 0x4B524C54
def maxWindows : Nat := 1024
def maxConns : Nat := 16384
/-- Length of a table with w windows and n connections (R765). -/
def tableLength (w n : Nat) : Nat := 64 + 32 * w + 64 * n

def tableW (b : List Byte) : Nat := leAt b 6 2
def tableC (b : List Byte) : Nat := leAt b 8 2

/-- The first offending byte of the header (R765, R720). -/
def headerBad (limit : Nat) (b : List Byte) : Option Nat :=
  firstBad [(leAt b 0 4 != tableMagic, 0), (leAt b 4 2 != 1, 4), (decide (maxWindows < tableW b), 6),
    (decide (min maxConns limit < tableC b), 8), (decide (1 < leAt b 10 1), 10), reservedRange b 11 1,
    (decide (60000 < leAt b 12 4), 12), reservedRange b 48 12]

def top64 : Nat := 2 ^ 64 - 1

/-- base and limit of a window (R766): do they offend? Each must be a multiple, plus one for limit, of the kind's unit. -/
def windowEdges (c kind space base limit : Nat) : Bool × Bool :=
  if kind == 2 && space == 1 then
    let inside := fun x => decide (8192 * c ≤ x) && decide (x ≤ 8192 * c + 0x1FFF)
    (base % 8 != 0 || !inside base, (limit + 1) % 8 != 0 || !inside limit)
  else if kind < 2 || (kind == 2 && space == 0) then
    (base % 4096 != 0, (limit + 1) % 4096 != 0 && limit != top64)
  else (false, false)

/-- The first offending byte of a window entry of a table that names the given connections (R765, R766). -/
def windowBad (c : Nat) (ids : List Nat) (b : List Byte) : Option Nat :=
  let base := leAt b 0 8
  let limit := leAt b 8 8
  let kind := leAt b 20 1
  let space := leAt b 22 1
  let (badBase, badLimit) := windowEdges c kind space base limit
  firstBad [(badBase || decide (limit < base), 0), (badLimit, 8),
    (kind == 1 && !ids.contains (leAt b 16 3), 16), (kind == 1 && leAt b 19 1 != 0, 19),
    (decide (2 < kind), 20), (decide (7 < leAt b 21 1), 21), (decide ((if kind == 2 then 1 else 0) < space), 22),
    reservedRange b 23 9]

/-- The first offending byte of a connection entry, after entries with the given IDs (R719). -/
def connBad (before : List Nat) (b : List Byte) : Option Nat :=
  let id := leAt b 0 3
  firstBad [(id == 0 || before.contains id, 0), (decide (15 < leAt b 3 1), 3), (decide (3 < leAt b 7 1), 7),
    (decide (8 < leAt b 10 1), 10), (decide (31 < leAt b 11 1), 11), (decide (1023 < leAt b 12 2), 12),
    reservedRange b 14 2, (if leAt b 7 1 % 2 == 0 then reservedRange b 20 12 else (false, 20)), reservedRange b 32 32]

/-- Entries of n bytes each from an offset of a table. -/
def entriesAt (b : List Byte) (off n count : Nat) : List (Nat × List Byte) :=
  (upto count).map fun i => (off + n * i, slice b (off + n * i) n)

def windowEntries (b : List Byte) : List (Nat × List Byte) := entriesAt b 64 32 (tableW b)
def connEntries (b : List Byte) : List (Nat × List Byte) := entriesAt b (64 + 32 * tableW b) 64 (tableC b)
def connIds (b : List Byte) : List Nat := (connEntries b).map fun e => leAt e.2 0 3

def connsBad : List Nat → List (Nat × List Byte) → Option Nat
  | _, [] => none
  | before, e :: r =>
    match connBad before e.2 with
    | some o => some (e.1 + o)
    | none => connsBad (leAt e.2 0 3 :: before) r

/-- The byte offset of the first offending field of a table, in the order of R766: the CRC, the header, the windows, the
connections. -/
def ruleTableBad (c limit : Nat) (b : List Byte) : Option Nat :=
  if leAt b 60 4 != (crc32 (b.take 60 ++ b.drop 64)).toNat then some 60 else
  match headerBad limit b with
  | some o => some o
  | none =>
    let ids := connIds b
    match (windowEntries b).findSome? fun e => (windowBad c ids e.2).map (e.1 + ·) with
    | some o => some o
    | none => connsBad [] (connEntries b)

def windowEntryOf (b : List Byte) : Window :=
  { kind := leAt b 20 1, space := leAt b 22 1, rights := BitVec.ofNat 3 (leAt b 21 1), scope := w32 (leAt b 16 4),
    base := w64 (leAt b 0 8), limit := w64 (leAt b 8 8) }

def connEntryOf (b : List Byte) : ConnEntry :=
  let v6 := leAt b 7 1 % 2 == 1
  { connId := leAt b 0 3, ports := BitVec.ofNat 4 (leAt b 3 1), peerConn := leAt b 4 3, ipv6 := v6,
    arrive := leAt b 7 1 / 2 % 2 == 1, peerPort := leAt b 8 2, win := leAt b 10 1, agent := leAt b 11 1,
    counter := leAt b 12 2, peerIp := BitVec.ofNat 128 (netNat (slice b 16 (if v6 then 16 else 4))) }

/-- The table that bytes give (R765). -/
def ruleTableOf (b : List Byte) : RuleTable :=
  { windows := (windowEntries b).map fun e => windowEntryOf e.2, conns := (connEntries b).map fun e => connEntryOf e.2,
    cmdAllow := BitVec.ofNat 256 (leAt b 16 32), graceMs := leAt b 12 4, lock := leAt b 10 1 % 2 == 1 }

/-- The checks of CompanyRules, in their order (R583). -/
def companyRulesChecks (t : Taken) (s : State) : List Chk :=
  let c := t.company
  let addr := (word t 1).toNat
  let len := low (word t 2)
  let b := hostArray t 0
  [
    (if bit (word t 2) 32 then unitFailed s false else none),
    generalCheck t s,
    badFields (reservedBad t [0, bits 63 0, bits 32 0] ++
      bads [((companyOf s c).isNone, 10, 0), (addr % 64 != 0 || wraps addr len, 64, 0),
            (len < 64 || tableLength maxWindows maxConns < len, 128, 0)]),
    opcodeCheck t s,
    checkRegions t s [hostRegion t s 1 addr len 64],
    badFields (bads [(tableLength (tableW b) (tableC b) != len, 128, 0),
                     (bit (word t 2) 32 != (tableC b != 0), 160, 0)]),
    (ruleTableBad c (((companyOf s c).map (·.connLimit)).getD 0) b).map fun o => badIn o 0 64]

/-- COMPANY_RULES (R599): every check but the rule lock and the device-wide connection limits; the switch follows. -/
def execCompanyRules (r : CmdRef) (s : State) : Res :=
  runRow 0x0A r s fun t s =>
    let c := t.company
    let b := hostArray t 0
    checked t (companyRulesChecks t s) s fun s =>
      let op : RulesOp := { seq := t.seq, company := c, table := ruleTableOf b, switched := false, switchAt := 0,
                            newEpoch := 0, recorded := false, cut := 0 }
      modWork (fun w => { w with rules := w.rules ++ [op] }) (setRunning t.seq s)

/-! The drain. -/

/-- A command taken in before the switch that the drain waits for: an access of the company, other than a COMPANY_RULES for
it (R769, R778, R799). -/
def olderCommand (o : RulesOp) (u : Taken) : Bool :=
  decide (u.seq < o.cut) && (u.company == o.company || (o.company == 0 && u.queue == 0))
  && !(u.opcode == 0x0A && u.company == o.company)

/-- A CXL.mem request that arrived before the switch and is not answered. -/
def olderRequest (s : State) (o : RulesOp) : Bool :=
  s.snoopWaits.any (fun w => w.company == o.company && w.sh.isNone && decide (w.arrival ≤ o.switchAt))
  || s.work.loads.any (fun l => l.company == o.company && l.sh.isNone && !l.answered && decide (l.arrival ≤ o.switchAt))
  || (agentsOf s o.company).any fun a => (agent s a).waiting.any fun p => p.2.any fun q => decide (q.2 ≤ o.switchAt)

/-- An inbound WRITE message of an older epoch that has not ended. -/
def olderMessage (o : RulesOp) (m : InMsg) : Bool := m.opcode == 1 && !m.ended && m.epoch != o.newEpoch

/-- A message of an older epoch on a connection of the company. -/
def olderInbound (s : State) (o : RulesOp) : Bool :=
  s.conns.any fun p => p.2.company == o.company
    && (p.2.inMsgs.any (olderMessage o) || p.2.inReads.any fun r => r.epoch != o.newEpoch)

/-- Accesses checked under an older epoch have drained (R778). -/
def hasDrained (s : State) (o : RulesOp) : Bool :=
  !s.taken.any (olderCommand o) && !olderRequest s o && !olderInbound s o

/-! The grace. -/

/-- End the incomplete inbound messages of an older epoch on connection k with NAK code 1; the PSN that the NAK names is one
of the message's, which the spec does not choose, a free value (R732, R779; notes/assumptions/2.md). -/
def endOlder (o : RulesOp) (k : Nat) (s : State) : State :=
  let l := (((conn s k).map (·.inMsgs)).getD []).filter (olderMessage o)
  let tags := l.map (·.msgId)
  let s := modConn k (fun x => { x with
    inMsgs := x.inMsgs.map fun m => if olderMessage o m then { m with ended := true } else m
    held := x.held.filter fun p => !tags.contains p.msgId.toNat }) s
  l.foldl (fun s m =>
    let (f, s) := takeFree s
    queueMessage k m.msgId (response 7 0 8 ([1, 0, 0, 0] ++ leBytes 4 (low f))) s) s

/-- What remains of older epochs ends with RULES_CHANGED (R562, R779). -/
def endGrace (o : RulesOp) (s : State) : State :=
  let s := (abortAll 0x203 (olderCommand o) s).1
  settle ((s.conns.filter fun p => p.2.company == o.company).foldl (fun s p => endOlder o p.1 s) s)

/-- RULES_GRACE_EXPIRY: grace_ms after the switch (R779). -/
def execRulesGraceExpiry (c : Nat) (s : State) : Res :=
  match s.work.rules.find? fun o => o.company == c && o.switched with
  | none => .next s
  | some o =>
    if now s < o.switchAt + 1000000 * (tableOf s c).graceMs then .next s else .next (endGrace o s)

/-! The switch. -/

/-- The limits of R720 that give CAPACITY. -/
def connsOver (s : State) (c : Nat) (k : RuleTable) : Bool :=
  let others := s.store.companies.filter fun p => p.1 != c
  decide (maxConns < k.conns.length + (others.map fun p => p.2.table.conns.length).sum)
  || k.conns.any fun e => others.any fun p => p.2.table.conns.any fun x => x.connId == e.connId

/-- Do a queue's rings fail a table (R531, R780)? -/
def ringsFail (k : RuleTable) (q : Queue) : Bool :=
  (ringCheck k q.agent q.sqBase (64 * q.sqSize) q.cqBase (32 * q.cqSize)).isSome

/-- The switch: the new table in force everywhere, the epoch one on, the queues whose rings fail shut, the record formed. A
grace of 0 is over at once (R776, R780, R782, R801). -/
def switchRules (t : Taken) (o : RulesOp) (s : State) : State :=
  let c := o.company
  let old := tableOf s c
  let s := modCompany c (fun k => { k with table := o.table, epoch := k.epoch + 1, ruleLock := k.ruleLock || o.table.lock }) s
  let shut : Nat → Queue → Queue := fun n q =>
    if n != 0 && q.company == c && ringsFail o.table q then { q with ringsBad := true } else q
  let s := { s with queues := kmap s.queues shut }
  let e := ((companyOf s c).map (·.epoch)).getD 0
  let o' : RulesOp := { o with table := old, switched := true, switchAt := now s, newEpoch := e, cut := s.nextSeq }
  let s := modWork (fun w => { w with rules := w.rules.map fun x => if x.seq == o.seq then o' else x }) s
  let s := formRecord (recordCompany c s) (some (t.seq, okay)) s
  if o.table.graceMs == 0 then endGrace o' s else s

def dropRules (seq : Nat) (s : State) : State := modWork (fun w => { w with rules := w.rules.filter (·.seq != seq) }) s

/-- RULES_SWITCH: the command's turn, after every earlier COMPANY_RULES of its company (R599, R616, R776, R799). -/
def execRulesSwitch (r : CmdRef) (s : State) : Res :=
  match findRunning 0x0A r s with
  | none => .next s
  | some t =>
    match s.work.rules.find? fun o => o.seq == t.seq && !o.switched with
    | none => .next s
    | some o =>
      if s.taken.any fun u => u.opcode == 0x0A && u.company == t.company && decide (u.seq < t.seq) then .next s
      else
        .next (match firstOf [
            (if (companyOf s o.company).isNone then some (badAt 10 0) else none),
            (if connsOver s o.company o.table then some (status 0x302) else none),
            (if ((companyOf s o.company).map (·.ruleLock)).getD false then some (status 0x204) else none)] with
          | some c => finish t c (dropRules t.seq s)
          | none => switchRules t o s)

/-! Completion. -/

/-- Queues shut at the switch are deleted as QUEUE_DELETE would (R564, R780). -/
def deleteShut (t : Taken) (l : List Nat) (s : State) : State :=
  l.foldl (fun s q => removeQueue q (flushQueue q 0x601 t.seq s).1) s

/-- A connection that the table no longer names is gone; commands with a message on it end (R739, R756). -/
def dropConn (k : Nat) (s : State) : State :=
  let s := (s.work.nets.filter fun o => o.conn == k).foldl (fun s o => endNet o.seq (status 0x602) s) s
  let s := resetStreams (fun o => o.stagehand && o.target == k) (resetCues (fun d => d.stagehand && d.conn == k) s)
  { s with conns := kdel s.conns k }

/-- A connection that the table names: one that exists keeps its state under the new entry, and enters SYNCING if only now it
has a port; any other comes into existence (R721, R722). -/
def joinConn (c : Nat) (e : ConnEntry) (s : State) : State :=
  match conn s e.connId with
  | none =>
    let s := openConn c e s
    if s.health.stagehandFailed then modConn e.connId (fun x => { x with state := 0 }) s else s
  | some x =>
    if x.state == 0 && !(connPorts s e).isEmpty && !s.health.stagehandFailed then openConn c e s
    else modConn e.connId (fun x => { x with entry := e }) s

/-- Connections leave and join (R721, R781). -/
def changeConns (c : Nat) (s : State) : State :=
  let named := (tableOf s c).conns
  let gone := (s.conns.filter fun p => p.2.company == c && !named.any fun e => e.connId == p.1).map (·.1)
  named.foldl (fun s e => joinConn c e s) (gone.foldl (fun s k => dropConn k s) s)

/-- RULES_DRAIN_COMPLETE: nothing of an older epoch remains and the record is complete (R599, R756, R778, R780). -/
def execRulesDrainComplete (r : CmdRef) (s : State) : Res :=
  match findRunning 0x0A r s with
  | none => .next s
  | some t =>
    match s.work.rules.find? fun o => o.seq == t.seq && o.switched && o.recorded with
    | none => .next s
    | some o =>
      if !hasDrained s o then .next s
      else
        let shut := (s.queues.filter fun p => p.2.ringsBad && p.2.company == o.company).map (·.1)
        .next (finish t (okWith (w64 o.newEpoch.toNat) (w64 shut.length) 0)
          (changeConns o.company (deleteShut t shut (dropRules t.seq s))))

end Sys2Proof.Machine
end

