-- ==== Sys2Proof/Machine/Spdm.lean ====
section
/-!
DEFINITION. The SPDM 1.2 responder (R788 to R790, R803) and IDE key management (R791, R792). Response and error codes and
the places of the capability and algorithm bits are those of SPDM 1.2 (notes/assumptions/31.md).
-/
namespace Sys2Proof.Machine
open Sys2Proof

/-- The mailbox number of the FM-owned logical device of a multi-logical port. -/
def fmLd : Nat := 4

/-- An endpoint that answers: from the end of FUSE, on a presented logical device of a trained port, or over MCTP (R68, R695,
R788). -/
def spdmServed (s : State) (ep : Endpoint) : Bool :=
  fuseDone s && bit s.pwr.on 0 && match ep with
    | .mctp => true
    | .doe k ld => (port s k).linkUp && (decide (ld < ldCount (port s k)) || ((port s k).actMld && ld == fmLd))

def epOk (ep : Endpoint) : Bool :=
  match ep with
  | .mctp => true
  | .doe k ld => portOk k && decide (ld ≤ fmLd)

/-- How far an endpoint's negotiation has come: 1 version, 2 capabilities, 3 algorithms. -/
def spdmLevel (s : State) (ep : Endpoint) : Nat := ((s.spdm.find? fun p => p.1 == ep).map (·.2)).getD 0
def setLevel (ep : Endpoint) (n : Nat) (s : State) : State :=
  { s with spdm := (s.spdm.filter fun p => p.1 != ep) ++ [(ep, n)] }

def reply (ep : Endpoint) (code : BitVec 8) (body : List Nat) (s : State) : State := emit (.spdm ep code body) s
/-- ERROR with an error code. -/
def spdmError (ep : Endpoint) (e : Nat) (s : State) : State := reply ep 0x7F [e] s

/-- A request that needs a negotiation level; sooner it is unexpected. -/
def spdmRow (ep : Endpoint) (level : Nat) (s : State) (go : State → State) : Res :=
  if !epOk ep then .fault .noSuchThing
  else if !spdmServed s ep then .next s
  else if spdmLevel s ep < level then .next (spdmError ep 4 s)
  else .next (go s)

/-- GET_VERSION: version 1.2 (R788). -/
def execGetVersion (ep : Endpoint) (s : State) : Res := spdmRow ep 0 s fun s => reply ep 0x04 [0x12] (setLevel ep 1 s)

/-- CERT, CHAL, MEAS with signature, ENCRYPT, MAC, KEY_EX, KEY_UPD and ALIAS_CERT (R788). -/
def capFlags : Nat := 2 ^ 1 + 2 ^ 2 + 2 ^ 4 + 2 ^ 6 + 2 ^ 7 + 2 ^ 9 + 2 ^ 14 + 2 ^ 18

/-- GET_CAPABILITIES (R788). -/
def execGetCapabilities (ep : Endpoint) (s : State) : Res :=
  spdmRow ep 1 s fun s => reply ep 0x61 [capFlags] (setLevel ep (max 2 (spdmLevel s ep)) s)

/-- NEGOTIATE_ALGORITHMS: of what the requester offers, ECDSA P-384, SHA-384, secp384r1 and AES-256-GCM (R788). -/
def execNegotiateAlgorithms (ep : Endpoint) (base hash dhe aead : Word32) (s : State) : Res :=
  spdmRow ep 2 s fun s =>
    if !bit base 7 || !bit hash 1 then spdmError ep 1 s
    else reply ep 0x63 [0x80, 2, (dhe &&& 0x10).toNat, (aead &&& 2).toNat] (setLevel ep 3 s)

def certChainOf (s : State) : List Byte := Config.certChain (aliasMeasures s)
def certDigest (s : State) : Nat := (Config.sha384 (certChainOf s)).toNat
/-- The Alias key signs the transcript of a response (R789). -/
def withSign (s : State) (l : List Nat) : List Nat := l ++ [(Config.sign (aliasMeasures s) l).toNat]

/-- GET_DIGESTS: slot 0 only (R788). -/
def execGetDigests (ep : Endpoint) (s : State) : Res := spdmRow ep 3 s fun s => reply ep 0x01 [1, certDigest s] s

/-- GET_CERTIFICATE: a portion of the chain of slot 0, and what remains (R789). -/
def execGetCertificate (ep : Endpoint) (slot offset len : Nat) (s : State) : Res :=
  spdmRow ep 3 s fun s =>
    let chain := certChainOf s
    if slot != 0 || chain.length ≤ offset then spdmError ep 1 s
    else
      let part := (chain.drop offset).take len
      reply ep 0x02 ([slot, part.length, chain.length - offset - part.length] ++ part.map (·.toNat)) s

/-- CHALLENGE: the signed response (R788, R789). -/
def execChallenge (ep : Endpoint) (slot : Nat) (nonce : BitVec 256) (s : State) : Res :=
  spdmRow ep 3 s fun s =>
    if slot != 0 then spdmError ep 1 s else reply ep 0x03 (withSign s [slot, certDigest s, nonce.toNat]) s

def measureCount : Nat := 7

/-- GET_MEASUREMENTS: operation 0 gives the count, 0xFF every block, k block k (R790). -/
def execGetMeasurements (ep : Endpoint) (op : Nat) (sign : Bool) (nonce : BitVec 256) (s : State) : Res :=
  spdmRow ep 3 s fun s =>
    if op != 0 && op != 0xFF && measureCount < op then spdmError ep 1 s
    else
      let which := if op == 0 then [] else if op == 0xFF then (upto measureCount).map (· + 1) else [op]
      let body := [if op == 0 then measureCount else which.length]
        ++ which.flatMap fun k => [k, (measureBlock s k).toNat]
      reply ep 0x60 (if sign then withSign s (nonce.toNat :: body) else body) s

/-! Sessions. -/

def sessionsOf (s : State) (ep : Endpoint) : List SpdmSession := s.sessions.filter fun x => x.ep == ep
def sessionLimit (ep : Endpoint) : Nat :=
  match ep with
  | .mctp => 1
  | .doe _ _ => 2
def findSession (s : State) (ep : Endpoint) (id : Nat) : Option SpdmSession :=
  s.sessions.find? fun x => x.ep == ep && x.id == id
def dropSession (ep : Endpoint) (id : Nat) (s : State) : State :=
  { s with sessions := s.sessions.filter fun x => !(x.ep == ep && x.id == id) }
def setSession (x : SpdmSession) (s : State) : State :=
  { s with sessions := s.sessions.map fun y => if y.ep == x.ep && y.id == x.id then x else y }

/-- KEY_EXCHANGE: at most 2 sessions of a mailbox and 1 over MCTP (R788); the requester's half of the session ID names the
session. -/
def execKeyExchange (ep : Endpoint) (slot reqSession : Nat) (exchange : List Byte) (s : State) : Res :=
  spdmRow ep 3 s fun s =>
    if slot != 0 || (findSession s ep reqSession).isSome then spdmError ep 1 s
    else if sessionLimit ep ≤ (sessionsOf s ep).length then spdmError ep 0x0A s
    else
      let share := (Config.dheShare s.free).toNat
      let x : SpdmSession := { ep := ep, id := reqSession, up := false, epoch := 0 }
      reply ep 0x64 (withSign s ([reqSession, share] ++ exchange.map (·.toNat)))
        { s with free := s.free + 1, sessions := s.sessions ++ [x] }

/-- FINISH: the session is established when the requester's proof verifies (R788). -/
def execFinish (ep : Endpoint) (session : Nat) (verify : List Byte) (s : State) : Res :=
  spdmRow ep 3 s fun s =>
    match findSession s ep session with
    | none => spdmError ep 2 s
    | some x =>
      if x.up then spdmError ep 4 s
      else if Config.finishOk session verify then reply ep 0x65 [session] (setSession { x with up := true } s)
      else spdmError ep 6 (dropSession ep session s)

/-- KEY_UPDATE: operation 1 or 2 takes new keys into use, 3 verifies them (R788). -/
def execKeyUpdate (ep : Endpoint) (session op : Nat) (s : State) : Res :=
  spdmRow ep 3 s fun s =>
    match findSession s ep session with
    | none => spdmError ep 2 s
    | some x =>
      if !x.up || op == 0 || 3 < op then spdmError ep 1 s
      else reply ep 0x69 [session, op] (if op == 3 then s else setSession { x with epoch := x.epoch + 1 } s)

/-- END_SESSION (R788). -/
def execEndSession (ep : Endpoint) (session : Nat) (s : State) : Res :=
  spdmRow ep 3 s fun s =>
    if ((findSession s ep session).map (·.up)).getD false then reply ep 0x6C [session] (dropSession ep session s)
    else spdmError ep 2 s

/-- Request codes that R788 supports, with that of vendor-defined requests. -/
def spdmRequests : List Nat := [0x84, 0xE1, 0xE3, 0x81, 0x82, 0x83, 0xE0, 0xE4, 0xE5, 0xE9, 0xEC]

/-- SPDM_UNSUPPORTED_REQUEST: any other request is answered with ERROR UnsupportedRequest (R788). -/
def execSpdmUnsupportedRequest (ep : Endpoint) (code : BitVec 8) (s : State) : Res :=
  if spdmRequests.contains code.toNat then .fault .noSuchThing
  else spdmRow ep 0 s fun s => spdmError ep 7 s

/-! IDE_KM. -/

/-- IDE_KM is taken in an established session on the mailbox of logical device 0, or of the FM-owned logical device of a
multi-logical port; elsewhere it is refused (R791). -/
def ideAllowed (s : State) (ep : Endpoint) (session : Nat) : Option Nat :=
  match ep with
  | .mctp => none
  | .doe k ld =>
    if ld == (if (port s k).actMld then fmLd else 0) && ((findSession s ep session).map (·.up)).getD false then some k
    else none

def ideStream (p : Port) (cachemem : Bool) : IdeStream := if cachemem then p.ideMem else p.ideIo
def setIde (k : Nat) (cachemem : Bool) (f : IdeStream → IdeStream) (s : State) : State :=
  modPort k (fun p => if cachemem then { p with ideMem := f p.ideMem } else { p with ideIo := f p.ideIo }) s

/-- An IDE_KM message: carried out or refused, and answered with a code and a status, 0 success and 4 failure. -/
def ideRow (ep : Endpoint) (session code : Nat) (ok : Nat → State → Bool) (go : Nat → State → State) (s : State) : Res :=
  if !epOk ep then .fault .noSuchThing
  else if !spdmServed s ep then .next s
  else match ideAllowed s ep session with
    | none => .next (emit (.ideKm ep code 4) s)
    | some k => if ok k s then .next (emit (.ideKm ep code 0) (go k s)) else .next (emit (.ideKm ep code 4) s)

/-- IDE_KM_KEY_PROG: a key of key set 0 or 1 for one direction of a stream (R791). -/
def execIdeKmKeyProg (ep : Endpoint) (session : Nat) (cachemem rx : Bool) (keySet : Nat) (key : BitVec 256) (s : State) :
    Res :=
  ideRow ep session 3 (fun _ _ => keySet < 2) (fun k s => setIde k cachemem (fun x =>
    if rx then { x with keysRx := kset x.keysRx keySet key.toNat } else { x with keysTx := kset x.keysTx keySet key.toNat })
    s) s

/-- A key set in use in one direction; with both directions going the stream is secure (R697, R791). -/
def goStream (rx : Bool) (keySet : Nat) (x : IdeStream) : IdeStream :=
  let x : IdeStream := if rx then { x with activeRx := some keySet } else { x with activeTx := some keySet }
  { x with insecure := x.insecure && !(x.activeRx.isSome && x.activeTx.isSome) }

/-- K_SET_GO of a programmed key set (R791). -/
def execKSetGo (ep : Endpoint) (session : Nat) (cachemem rx : Bool) (keySet : Nat) (s : State) : Res :=
  ideRow ep session 6
    (fun k s => let x := ideStream (port s k) cachemem; khas (if rx then x.keysRx else x.keysTx) keySet)
    (fun k s => setIde k cachemem (goStream rx keySet) s) s

/-- K_SET_STOP: the stream is off; an insecure one stays refused until it is set going (R697, R791). -/
def execKSetStop (ep : Endpoint) (session : Nat) (cachemem : Bool) (_rx : Bool) (keySet : Nat) (s : State) : Res :=
  ideRow ep session 6 (fun _ _ => keySet < 2)
    (fun k s => setIde k cachemem (fun x => { x with activeRx := none, activeTx := none }) s) s

end Sys2Proof.Machine
end

