-- ==== Sys2Proof/Machine/Streams.lean ====
section
/-!
DEFINITION. Stream and prefix commands of 13_commands_store.md: STREAM_OPEN, STREAM_CLOSE, STREAM_FORK, FIND_PREFIX,
APPEND_SCENES, SEAL and TRIM (R34 to R47, R168 to R178, R586, R604 to R612).
-/
namespace Sys2Proof.Machine
open Sys2Proof

/-! STREAM_OPEN. -/

/-- The next count at which a handle is issued: not 0 and not the handle of an open stream (R42). -/
def nextHandle (s : State) : Nat → Nat → Nat
  | 0, n => n
  | k + 1, n =>
    let h := n % 2 ^ 32
    if h == 0 || khas s.store.streams h then nextHandle s k (n + 1) else n

/-- Open an empty stream; the handle count is recorded after every 2^19 issues (R34, R42). -/
def openNew (t : Stream) (s : State) : Nat × State :=
  let n := nextHandle s (s.store.streams.length + 1) s.store.handles
  let h := n % 2 ^ 32
  let due := decide (2 ^ 19 ≤ s.store.issued + 1)
  (h, { s with store := { s.store with
                 streams := kset s.store.streams h t, handles := n + 1, issued := if due then 0 else s.store.issued + 1 }
               flash := if due then { s.flash with handles := n + 1 } else s.flash })

/-- The checks of StreamOpen, in their order (R583). -/
def streamOpenChecks (t : Taken) (s : State) : List Chk :=
  let w := word t 1
  let k := fld w 5 0
  let tr := fld w 9 8
  let c := t.company
  [generalCheck t s,
    badFields (reservedBad t [0, bits 16 16 + bits 9 8 + bits 5 0] ++
      bads [((openModel s c k).isNone, 64, 0), (tr == 3, 72, 0)]),
    opcodeCheck t s,
    (if ((companyOf s c).map (·.streamRes)).getD 0 ≤ openStreams s c then some (status 0x301) else none),
    roomCheck .wings c chainMapBytes s,
    (if streamLimit ≤ s.store.streams.length then some (status 0x302) else none)]

/-- STREAM_OPEN (R604). -/
def execStreamOpen (r : CmdRef) (s : State) : Res :=
  runRow 0x20 r s fun t s =>
    let w := word t 1
    let k := fld w 5 0
    let tr := fld w 9 8
    let c := t.company
    checked t (streamOpenChecks t s) s fun s =>
      inRoomMade t s (makeRoom .wings c chainMapBytes s) fun s =>
      let fresh : Stream :=
        { company := c, model := k, translate := if tr == 2 then 2 else 1, tailStage := bit w 16, chain := [],
          tailCount := 0, tailFps := [], tailPages := [], tailSketches := [], tailPoison := [], placed := none,
          placedOn := [] }
      let (h, s) := openNew fresh s
      finish t (okWith (w64 h) 0 0) s

/-! STREAM_CLOSE. -/

def viewOfStream (h : Nat) : Viewed → Bool
  | .stream k _ => k == h
  | _ => false

/-- Commands taken in before t that name or read stream h and have not completed. -/
def earlierOn (t : Taken) (h : Nat) (s : State) : List Nat :=
  (s.taken.filter fun u => decide (u.seq < t.seq) && u.company == t.company && (streamsNamed u ++ streamsRead u).contains h).map (·.seq)

/-- References that stream h loses stay until the earlier commands on it have completed (R43, R173). -/
def letGo (t : Taken) (h : Nat) (ids : List SceneId) (s : State) : State :=
  let l := earlierOn t h s
  if l.isEmpty || ids.isEmpty then s
  else modStore (fun st => { st with lingering := st.lingering ++ [{ company := t.company, scenes := ids, waits := l }] }) s

/-- Close stream h for command t: its tail, chain map, mapping and placement end, and its references with the last earlier command on it (R40,
R43, R605). -/
def closeStream (t : Taken) (h : Nat) (s : State) : State :=
  let s := letGo t h (((kget s.store.streams h).map (·.chain)).getD []) s
  modStore (fun st => { st with streams := kdel st.streams h
                                maps := st.maps.filter fun m => !(m.company == t.company && viewOfStream h m.what) }) s

/-- The checks of StreamClose, in their order (R583). -/
def streamCloseChecks (t : Taken) (s : State) : List Chk :=
  let h := low (word t 1)
  [generalCheck t s,
    badFields (reservedBad t [0, bits 31 0] ++ bads [((openStream s t.company h).isNone, 64, 0)]),
    opcodeCheck t s]

/-- STREAM_CLOSE (R605). -/
def execStreamClose (r : CmdRef) (s : State) : Res :=
  runRow 0x21 r s fun t s =>
    let h := low (word t 1)
    checked t (streamCloseChecks t s) s fun s =>
      finish t okay (closeStream t h s)

/-! STREAM_FORK. -/

/-- A scene and its ancestors, root first (R176). -/
def ancestors (s : State) (c : Nat) : Nat → SceneId → List SceneId
  | 0, _ => []
  | n + 1, id =>
    if id == 0 then [] else
    match findScene s c id with
    | none => []
    | some x => ancestors s c n x.parent ++ [id]

/-- Stamp scenes with house time as their last use (R182). -/
def stampUse (c : Nat) (ids : List SceneId) (s : State) : State :=
  modStore (fun st => { st with scenes := st.scenes.map fun x =>
    if x.company == c && ids.contains x.id then { x with lastUse := now s } else x }) s

/-- Room for n tail scenes of a stream in its tail's tier, and in Wings as well for a Stage tail (R233). -/
def tailRoom (c n : Nat) (stage : Bool) (s : State) : Option State :=
  match makeRoom .wings c n s with
  | none => none
  | some s => if stage then makeRoom .stage c n s else some s

/-- The checks of StreamFork, in their order (R583). -/
def streamForkChecks (t : Taken) (s : State) : List Chk :=
  let c := t.company
  let kind1 := bit (word t 1) 32
  let h := low (word t 1)
  let src := low (word t 2)
  let id : SceneId := BitVec.ofNat 128 ((word t 2).toNat + (word t 3).toNat * 2 ^ 64)
  let target := openStream s c h
  let source := openStream s c src
  let scene := (findScene s c id).filter fun x => !x.retired && id != 0
  let mdl := (target.map (·.model)).getD 64
  let tailBytes := match source with
    | some u => if kind1 && u.tailCount != 0 then sceneBytes (modelD s u.model) else 0
    | none => 0
  let stage := (target.map (·.tailStage)).getD false
  [generalCheck t s,
    badFields (reservedBad t [0, bits 32 0, if kind1 then bits 31 0 else bits 63 0, if kind1 then 0 else bits 63 0] ++
      bads [(target.isNone, 64, 1), (!kind1 && scene.isNone, 128, 2), (kind1 && source.isNone, 128, 4),
            (!kind1 && scene.any fun x => x.model != mdl, 128, 3),
            (kind1 && source.any fun u => u.model != mdl, 128, 3)]),
    opcodeCheck t s,
    (if (tailRoom c tailBytes stage s).isNone then some (status 0x301) else none),
    (if (target.any fun u => streamLength u != 0) || (kind1 && h == src) then some (badAt 64 1) else none),
    (if kind1 && tailPoisoned src s then some (status 0x501) else none)]

/-- STREAM_FORK (R176 to R178, R196, R197, R606, R818). -/
def execStreamFork (r : CmdRef) (s : State) : Res :=
  runRow 0x22 r s fun t s =>
    let c := t.company
    let kind1 := bit (word t 1) 32
    let h := low (word t 1)
    let src := low (word t 2)
    let id : SceneId := BitVec.ofNat 128 ((word t 2).toNat + (word t 3).toNat * 2 ^ 64)
    let target := openStream s c h
    let source := openStream s c src
    let scene := (findScene s c id).filter fun x => !x.retired && id != 0
    let tailBytes := match source with
      | some u => if kind1 && u.tailCount != 0 then sceneBytes (modelD s u.model) else 0
      | none => 0
    let stage := (target.map (·.tailStage)).getD false
    checked t (streamForkChecks t s) s fun s =>
      inRoomMade t s (tailRoom c tailBytes stage s) fun s =>
      if kind1 then
        match source with
        | none => s
        | some u =>
          let s := modStream h (fun v => { v with chain := u.chain, tailCount := u.tailCount, tailFps := u.tailFps,
                                                  tailPages := u.tailPages, tailSketches := u.tailSketches }) s
          finish t (okWith (w64 (streamLength u)) (w64 u.chain.length) 0) (stampUse c u.chain s)
      else
        let chain := ancestors s c ((scene.map (·.depth)).getD 0) id
        finish t (okWith (w64 (16 * chain.length)) (w64 chain.length) 0)
          (stampUse c chain (modStream h (fun v => { v with chain := chain }) s))

/-! FIND_PREFIX. -/

/-- The fingerprints of a list in memory. -/
def fpList (b : List Byte) (n : Nat) : List Word64 := (upto n).map fun k => w64 (leAt b (8 * k) 8)

/-- Matched IDs in chain order: whole scenes while each is in the index and not retired (R174, R175, R287). -/
def matchPrefix (s : State) (c : Nat) (salt : BitVec 256) (fp : Word64) : Nat → SceneId → List Word64 → List SceneId
  | 0, _, _ => []
  | n + 1, parent, l =>
    if l.length < 16 then [] else
    let id := sceneId salt parent fp (l.take 16)
    match (findScene s c id).filter fun x => !x.retired with
    | none => []
    | some _ => id :: matchPrefix s c salt fp n id (l.drop 16)

/-- The checks of FindPrefix, in their order (R583). -/
def findPrefixChecks (t : Taken) (s : State) : List Chk :=
  let c := t.company
  let k := fld (word t 1) 5 0
  let list := (word t 2).toNat
  let n := low (word t 3)
  [generalCheck t s,
    badFields (reservedBad t [0, bits 5 0, bits 63 0, bits 31 0] ++
      bads [((openModel s c k).isNone, 64, 0), (list % 8 != 0 || wraps list (8 * n), 128, 0)]),
    opcodeCheck t s, checkRegions t s [hostRegion t s 1 list (8 * n) 128],
    (if 131072 < n then some (status 0x105) else none)]

/-- FIND_PREFIX (R174, R175, R198, R607). -/
def execFindPrefix (r : CmdRef) (s : State) : Res :=
  runRow 0x28 r s fun t s =>
    let c := t.company
    let k := fld (word t 1) 5 0
    let n := low (word t 3)
    checked t (findPrefixChecks t s) s fun s =>
      let salt := ((companyOf s c).map (·.salt)).getD 0
      let ids := matchPrefix s c salt (modelD s k).fingerprint (n / 16) 0 (fpList (hostArray t 0) n)
      let last := (ids.getLast?.getD 0).toNat
      finish t (okWith (w64 ids.length) (w64 last) (w64 (last / 2 ^ 64))) (stampUse c ids s)

/-! APPEND_SCENES. -/

/-- Scenes whose first position lies in start .. start + count − 1 (R610), and those whose sixteenth does (R608). -/
def scenesBegun (start count : Nat) : Nat := (start + count + 15) / 16 - (start + 15) / 16
def scenesEnded (start count : Nat) : Nat := (start + count) / 16 - start / 16
/-- Scenes touched (R608). -/
def scenesTouched (start count : Nat) : Nat := (start + count - 1) / 16 - start / 16 + 1

/-- What an APPEND_SCENES writes. -/
structure AppendArgs where
  handle : Nat
  start  : Nat
  count  : Nat
  fill   : Bool
  byPos  : Bool
  data   : List Byte
  fps    : List Byte
  sketch : Option (List Byte)

/-- Write the positions from the i-th on, sealing as filled; the number written, the last ID sealed, and whether every
seal succeeded (R170, R199). -/
def appendN (m : Model) (a : AppendArgs) : Nat → Nat → SceneId → State → Nat × SceneId × Bool × State
  | 0, i, last, s => (i, last, true, s)
  | n + 1, i, last, s =>
    let full := ((kget s.store.streams a.handle).map (·.tailCount)).getD 0 == 16
    let pre : Option (SceneId × State) := if a.fill && full then sealTailOf a.handle s else some (last, s)
    match pre with
    | none => (i, last, false, s)
    | some (last, s) =>
      let p := a.start + i
      let scene := p / 16 - a.start / 16
      let done := scenesEnded a.start (i + 1) - 1
      let f := footprint m
      let s := putTail a.handle m (w64 (leAt a.fps (8 * i) 8))
        (fun l => convertPage m (slice a.data ((scene * m.layers + l) * f) f) a.byPos false)
        (fun l => if p % 16 == 15 then a.sketch.map fun b => slice b ((done * m.layers + l) * 32) 32 else none) s
      if a.fill && p % 16 == 15 then
        match sealTailOf a.handle s with
        | none => (i + 1, last, false, s)
        | some (id, s) => appendN m a n (i + 1) id s
      else appendN m a n (i + 1) last s

/-- The length of a stream. -/
def lengthOf (s : State) (h : Nat) : Nat := ((kget s.store.streams h).map streamLength).getD 0

def tailCountOf (s : State) (h : Nat) : Nat := ((kget s.store.streams h).map (·.tailCount)).getD 0

/-- The checks of AppendScenes, in their order (R583). -/
def appendScenesChecks (t : Taken) (s : State) : List Chk :=
  let c := t.company
  let h := low (word t 1)
  let start := high (word t 1)
  let w2 := word t 2
  let count := low w2
  let fill := bit w2 33
  let sk := bit w2 34
  let strm := openStream s c h
  let m := modelD s ((strm.map (·.model)).getD 64)
  let data := (word t 3).toNat
  let fps := (word t 4).toNat
  let ska := (word t 5).toNat
  let dataLen := scenesTouched start count * sceneBytes m
  let skLen := scenesEnded start count * m.layers * 32
  let stage := (strm.map (·.tailStage)).getD false
  let need := scenesBegun start count * sceneBytes m
  [generalCheck t s,
    badFields (reservedBad t [0, bits 63 0, bits 34 0, bits 63 0, bits 63 0, bits 63 0] ++
      bads [(strm.isNone, 64, 3), (count == 0 || 131072 < count, 128, 0),
            (data % 64 != 0 || wraps data dataLen, 192, 0), (fps % 8 != 0 || wraps fps (8 * count), 256, 0),
            ((!sk && ska != 0) || (sk && (ska % 64 != 0 || wraps ska skLen)), 320, 0)]),
    opcodeCheck t s,
    checkRegions t s [hostRegion t s 1 data dataLen 192, hostRegion t s 1 fps (8 * count) 256,
                      hostRegion t s 1 ska (if sk then skLen else 0) 320],
    (if (tailRoom c need stage s).isNone then some (status 0x301) else none),
    (if 131072 < start + count then some (status 0x105) else none),
    (if start != lengthOf s h then some (badAt 96 1) else none),
    (if !fill && 16 < tailCountOf s h + count then some (badAt 128 2) else none)]

/-- APPEND_SCENES (R168 to R170, R199, R233, R608 to R610, R617). -/
def execAppendScenes (r : CmdRef) (s : State) : Res :=
  runRow 0x29 r s fun t s =>
    let c := t.company
    let h := low (word t 1)
    let start := high (word t 1)
    let w2 := word t 2
    let count := low w2
    let fill := bit w2 33
    let sk := bit w2 34
    let strm := openStream s c h
    let m := modelD s ((strm.map (·.model)).getD 64)
    let stage := (strm.map (·.tailStage)).getD false
    let need := scenesBegun start count * sceneBytes m
    checked t (appendScenesChecks t s) s fun s =>
      inRoomMade t s (tailRoom c need stage s) fun s =>
      let args : AppendArgs :=
        { handle := h, start := start, count := count, fill := fill, byPos := bit w2 32, data := hostArray t 0,
          fps := hostArray t 1, sketch := if sk then some (hostArray t 2) else none }
      let (n, last, ok, s) := appendN m args count 0 0 s
      finish t (if ok then okWith (w64 n) (w64 last.toNat) (w64 (last.toNat / 2 ^ 64))
        else statusWith (sealStatus h s) (w64 n)) s

/-! SEAL and TRIM. -/

/-- The checks of Seal, in their order (R583). -/
def sealChecks (t : Taken) (s : State) : List Chk :=
  let h := low (word t 1)
  [generalCheck t s,
    badFields (reservedBad t [0, bits 31 0] ++ bads [((openStream s t.company h).isNone, 64, 0)]),
    opcodeCheck t s,
    (if tailCountOf s h != 16 then some (badAt 64 0) else none)]

/-- SEAL (R37, R38, R171, R185, R611, R818). -/
def execSeal (r : CmdRef) (s : State) : Res :=
  runRow 0x2A r s fun t s =>
    let h := low (word t 1)
    checked t (sealChecks t s) s fun s =>
      match sealTailOf h s with
      | none => finish t (status (sealStatus h s)) s
      | some (id, s) => finish t (okWith (w64 id.toNat) (w64 (id.toNat / 2 ^ 64)) 0) s

/-- A stream cut to n positions, where n falls in its tail or on a scene boundary (R173). Sketches that came with a
sixteenth position go with it (R398). -/
def trimTo (n : Nat) (t : Stream) : Stream :=
  if 16 * t.chain.length < n then
    { t with
      tailCount := n - 16 * t.chain.length, tailFps := t.tailFps.take (n - 16 * t.chain.length)
      tailSketches := if n < 16 * t.chain.length + 16 then t.tailSketches.map fun _ => List.replicate 32 0
                      else t.tailSketches }
  else emptyTail { t with chain := t.chain.take (n / 16) }

/-- The checks of Trim, in their order (R583). -/
def trimChecks (t : Taken) (s : State) : List Chk :=
  let h := low (word t 1)
  let n := high (word t 1)
  let sealed := 16 * ((kget s.store.streams h).map (·.chain.length)).getD 0
  [generalCheck t s,
    badFields (reservedBad t [0, bits 63 0] ++ bads [((openStream s t.company h).isNone, 64, 0)]),
    opcodeCheck t s,
    (if lengthOf s h < n || (n < sealed && n % 16 != 0) then some (badAt 96 0) else none)]

/-- TRIM (R43, R173, R612, R620). -/
def execTrim (r : CmdRef) (s : State) : Res :=
  runRow 0x2B r s fun t s =>
    let h := low (word t 1)
    let n := high (word t 1)
    checked t (trimChecks t s) s fun s =>
      let gone := ((kget s.store.streams h).map (·.chain.drop (n / 16))).getD []
      finish t (okWith (w64 n) 0 0) (modStream h (trimTo n) (letGo t h gone s))

end Sys2Proof.Machine
end

