-- ==== Sys2Proof/Machine/Dispatch.lean ====
section
/-!
DEFINITION. The dispatch: one arm per command, each one direct call of its meaning.
-/
namespace Sys2Proof.Machine
open Sys2Proof

def exec (i : Instr) (s : State) : Host.Outcome State Fault Refusal :=
  match i with
  -- Paulou commands, 13_commands_store.md
  | .nop r => Sys2Proof.Machine.execNop r s
  | .identify r => Sys2Proof.Machine.execIdentify r s
  | .getLog r => Sys2Proof.Machine.execGetLog r s
  | .setFeature r => Sys2Proof.Machine.execSetFeature r s
  | .getFeature r => Sys2Proof.Machine.execGetFeature r s
  | .companyCreate r => Sys2Proof.Machine.execCompanyCreate r s
  | .companyDestroy r => Sys2Proof.Machine.execCompanyDestroy r s
  | .companyRules r => Sys2Proof.Machine.execCompanyRules r s
  | .admitCompany r => Sys2Proof.Machine.execAdmit r s
  | .release r => Sys2Proof.Machine.execRelease r s
  | .modelRegister r => Sys2Proof.Machine.execModelRegister r s
  | .modelRetire r => Sys2Proof.Machine.execModelRetire r s
  | .streamOpen r => Sys2Proof.Machine.execStreamOpen r s
  | .streamClose r => Sys2Proof.Machine.execStreamClose r s
  | .streamFork r => Sys2Proof.Machine.execStreamFork r s
  | .findPrefix r => Sys2Proof.Machine.execFindPrefix r s
  | .appendScenes r => Sys2Proof.Machine.execAppendScenes r s
  | .sealTail r => Sys2Proof.Machine.execSeal r s
  | .trim r => Sys2Proof.Machine.execTrim r s
  -- Paulou commands, 14_commands_motion.md
  | .pin r => Sys2Proof.Machine.execPin r s
  | .unpin r => Sys2Proof.Machine.execUnpin r s
  | .place r => Sys2Proof.Machine.execPlace r s
  | .migrate r => Sys2Proof.Machine.execMigrate r s
  | .cue r => Sys2Proof.Machine.execCue r s
  | .deliver r => Sys2Proof.Machine.execDeliver r s
  | .cancelCue r => Sys2Proof.Machine.execCancelCue r s
  | .attend r => Sys2Proof.Machine.execAttend r s
  | .attendSparse r => Sys2Proof.Machine.execAttendSparse r s
  | .sketchQuery r => Sys2Proof.Machine.execSketchQuery r s
  | .weightsLoad r => Sys2Proof.Machine.execWeightsLoad r s
  | .weightsStream r => Sys2Proof.Machine.execWeightsStream r s
  | .queueCreate r => Sys2Proof.Machine.execQueueCreate r s
  | .queueDelete r => Sys2Proof.Machine.execQueueDelete r s
  | .queueFlush r => Sys2Proof.Machine.execQueueFlush r s
  | .queueWait r => Sys2Proof.Machine.execQueueWait r s
  | .xfer r => Sys2Proof.Machine.execXfer r s
  | .atomic r => Sys2Proof.Machine.execAtomic r s
  | .clusterLoad r => Sys2Proof.Machine.execClusterLoad r s
  | .clusterRun r => Sys2Proof.Machine.execClusterRun r s
  | .clusterHalt r => Sys2Proof.Machine.execClusterHalt r s
  | .scrubNow r o => Sys2Proof.Machine.execScrubNow r o s
  | .repair r o => Sys2Proof.Machine.execRepair r o s
  | .selftest r o => Sys2Proof.Machine.execSelftest r o s
  | .fwDownload r => Sys2Proof.Machine.execFwDownload r s
  | .fwCommit r => Sys2Proof.Machine.execFwCommit r s
  | .quiesce r => Sys2Proof.Machine.execQuiesce r s
  | .healthCmd r => Sys2Proof.Machine.execHealth r s
  -- control core instructions, 10_cluster_core.md; `c` is the logical cluster, `ecc` says that
  -- a word read gave an uncorrectable error (R469 code 10)
  | .alu c => Sys2Proof.Machine.execAlu c s
  | .addi c => Sys2Proof.Machine.execAddi c s
  | .andi c => Sys2Proof.Machine.execAndi c s
  | .ori c => Sys2Proof.Machine.execOri c s
  | .xori c => Sys2Proof.Machine.execXori c s
  | .shi c => Sys2Proof.Machine.execShi c s
  | .movi c => Sys2Proof.Machine.execMovi c s
  | .ldpc c ecc => Sys2Proof.Machine.execLdpc c ecc s
  | .cmp c => Sys2Proof.Machine.execCmp c s
  | .cmpi c => Sys2Proof.Machine.execCmpi c s
  | .pred c => Sys2Proof.Machine.execPred c s
  | .ldd c ecc => Sys2Proof.Machine.execLdd c ecc s
  | .ldw c ecc => Sys2Proof.Machine.execLdw c ecc s
  | .ldwu c ecc => Sys2Proof.Machine.execLdwu c ecc s
  | .ldh c ecc => Sys2Proof.Machine.execLdh c ecc s
  | .ldhu c ecc => Sys2Proof.Machine.execLdhu c ecc s
  | .ldb c ecc => Sys2Proof.Machine.execLdb c ecc s
  | .ldbu c ecc => Sys2Proof.Machine.execLdbu c ecc s
  | .std c => Sys2Proof.Machine.execStd c s
  | .stw c => Sys2Proof.Machine.execStw c s
  | .sth c => Sys2Proof.Machine.execSth c s
  | .stb c => Sys2Proof.Machine.execStb c s
  | .br c => Sys2Proof.Machine.execBr c s
  | .call c => Sys2Proof.Machine.execCall c s
  | .jr c => Sys2Proof.Machine.execJr c s
  | .csrr c => Sys2Proof.Machine.execCsrr c s
  | .csrw c => Sys2Proof.Machine.execCsrw c s
  | .send c => Sys2Proof.Machine.execSend c s
  | .sendAck c => Sys2Proof.Machine.execSendAck c s
  | .recv c => Sys2Proof.Machine.execRecv c s
  | .mailboxArrival src dst mbx => Sys2Proof.Machine.execMailboxArrival src dst mbx s
  | .put c => Sys2Proof.Machine.execPut c s
  | .get c => Sys2Proof.Machine.execGet c s
  | .sig c => Sys2Proof.Machine.execSig c s
  | .waitc c => Sys2Proof.Machine.execWaitc c s
  | .move c => Sys2Proof.Machine.execMove c s
  | .page c => Sys2Proof.Machine.execPage c s
  | .fence c => Sys2Proof.Machine.execFence c s
  | .halt c => Sys2Proof.Machine.execHalt c s
  | .trap c => Sys2Proof.Machine.execTrap c s
  | .transferComplete c id data ecc => Sys2Proof.Machine.execTransferComplete c id data ecc s
  | .waitcTimeout c => Sys2Proof.Machine.execWaitcTimeout c s
  -- engine instructions, 11_vector_tile_engine.md
  | .vsetvl c => Sys2Proof.Machine.execVsetvl c s
  | .vop c => Sys2Proof.Machine.execVop c s
  | .vops c => Sys2Proof.Machine.execVops c s
  | .vun c => Sys2Proof.Machine.execVun c s
  | .vcmp c => Sys2Proof.Machine.execVcmp c s
  | .vmisc c => Sys2Proof.Machine.execVmisc c s
  | .vld c => Sys2Proof.Machine.execVld c s
  | .vst c => Sys2Proof.Machine.execVst c s
  | .vscan c => Sys2Proof.Machine.execVscan c s
  | .tls c => Sys2Proof.Machine.execTls c s
  | .tmac c => Sys2Proof.Machine.execTmac c s
  | .tred c => Sys2Proof.Machine.execTred c s
  | .tbc c => Sys2Proof.Machine.execTbc c s
  | .tmov c => Sys2Proof.Machine.execTmov c s
  | .vchain c => Sys2Proof.Machine.execVchain c s
  | .vlane c => Sys2Proof.Machine.execVlane c s
  | .engineCommit c => Sys2Proof.Machine.execEngineCommit c s
  -- runs and clusters
  | .runStart r => Sys2Proof.Machine.execRunStart r s
  | .runTimeLimit r => Sys2Proof.Machine.execRunTimeLimit r s
  | .runEnd r => Sys2Proof.Machine.execRunEnd r s
  | .clusterScrub c company => Sys2Proof.Machine.execClusterScrub c company s
  | .midnightScan => Sys2Proof.Machine.execMidnightScan s
  | .clusSignal agent p part v => Sys2Proof.Machine.execClusSignal agent p part v s
  | .mailboxFlush agent p v => Sys2Proof.Machine.execMailboxFlush agent p v s
  -- queues, 12_paulou_queues.md
  | .doorbell agent q part v => Sys2Proof.Machine.execDoorbell agent q part v s
  | .packetIntake q words => Sys2Proof.Machine.execPacketIntake q words s
  | .fencedDispatch r => Sys2Proof.Machine.execFencedDispatch r s
  | .completionInterrupt q => Sys2Proof.Machine.execCompletionInterrupt q s
  | .queueWaitTimeout r => Sys2Proof.Machine.execQueueWaitTimeout r s
  | .adminQueueEnable agent v => Sys2Proof.Machine.execAdminQueueEnable agent v s
  | .adminQueueDisable agent v => Sys2Proof.Machine.execAdminQueueDisable agent v s
  -- registers
  | .registerWrite agent off size v => Sys2Proof.Machine.execRegisterWrite agent off size v s
  | .shutdownReq agent v => Sys2Proof.Machine.execShutdownReq agent v s
  | .safeOff => Sys2Proof.Machine.execSafeOff s
  | .pd6Gate agent v => Sys2Proof.Machine.execPd6Gate agent v s
  | .pd6SwitchOff => Sys2Proof.Machine.execPd6SwitchOff s
  | .pd6Ungate agent v => Sys2Proof.Machine.execPd6Ungate agent v s
  | .epochWrite agent v => Sys2Proof.Machine.execEpochWrite agent v s
  | .arbCtrlWrite agent j part v => Sys2Proof.Machine.execArbCtrlWrite agent j part v s
  | .agentMapWrite agent a v => Sys2Proof.Machine.execAgentMapWrite agent a v s
  | .lockWrite agent off v => Sys2Proof.Machine.execLockWrite agent off v s
  | .sanitize agent v => Sys2Proof.Machine.execSanitize agent v s
  -- Dawn, Dusk and power
  | .powerOn supplyMv => Sys2Proof.Machine.execPowerOn supplyMv s
  | .dawn => Sys2Proof.Machine.execDawn s
  | .dawnPhaseComplete o => Sys2Proof.Machine.execDawnPhaseComplete o s
  | .dawnPhaseTimeout => Sys2Proof.Machine.execDawnPhaseTimeout s
  | .duskEnter supplyMv => Sys2Proof.Machine.execDuskEnter supplyMv s
  | .duskExit supplyMv => Sys2Proof.Machine.execDuskExit supplyMv s
  | .holdupFlush supplyMv => Sys2Proof.Machine.execHoldupFlush supplyMv s
  | .pd0HoldupExpiry => Sys2Proof.Machine.execPd0HoldupExpiry s
  | .supplyRecovery supplyMv => Sys2Proof.Machine.execSupplyRecovery supplyMv s
  | .houseWatchdog => Sys2Proof.Machine.execHouseWatchdog s
  | .holdupMeasurement us => Sys2Proof.Machine.execHoldupMeasurement us s
  | .railReading beats => Sys2Proof.Machine.execRailReading beats s
  | .monitorFailure region => Sys2Proof.Machine.execMonitorFailure region s
  | .temperatureReading temps => Sys2Proof.Machine.execTemperatureReading temps s
  | .thermalRestart => Sys2Proof.Machine.execThermalRestart s
  | .powerReading inputW supplyMv => Sys2Proof.Machine.execPowerReading inputW supplyMv s
  | .quiesceNChange low => Sys2Proof.Machine.execQuiesceNChange low s
  | .forceRoChange high => Sys2Proof.Machine.execForceRoChange high s
  | .pinHoldoffExpiry pin => Sys2Proof.Machine.execPinHoldoffExpiry pin s
  -- CXL ports, 15_cxl_ports.md
  | .cxlPortReset port => Sys2Proof.Machine.execCxlPortReset port s
  | .cxlLinkUp port speed width => Sys2Proof.Machine.execCxlLinkUp port speed width s
  | .linkRetrain port speed width => Sys2Proof.Machine.execLinkRetrain port speed width s
  | .configRequest port ld reg write => Sys2Proof.Machine.execConfigRequest port ld reg write s
  | .cxlMemRead agent dpa hold => Sys2Proof.Machine.execCxlMemRead agent dpa hold s
  | .cxlMemWrite agent dpa data poison => Sys2Proof.Machine.execCxlMemWrite agent dpa data poison s
  | .unifiedLoftFill id o => Sys2Proof.Machine.execUnifiedLoftFill id o s
  | .unifiedLoadTimeout id => Sys2Proof.Machine.execUnifiedLoadTimeout id s
  | .birsp agent line dirty => Sys2Proof.Machine.execBirsp agent line dirty s
  | .biSnoopTimeout agent line => Sys2Proof.Machine.execBiSnoopTimeout agent line s
  | .fetchAdd agent off size operand => Sys2Proof.Machine.execFetchAdd agent off size operand s
  | .swap agent off size operand => Sys2Proof.Machine.execSwap agent off size operand s
  | .cas agent off size compare operand => Sys2Proof.Machine.execCas agent off size compare operand s
  | .hostReadTimeout r => Sys2Proof.Machine.execHostReadTimeout r s
  | .ideCheckFailure port cachemem => Sys2Proof.Machine.execIdeCheckFailure port cachemem s
  | .tokenBucketRelease agent => Sys2Proof.Machine.execTokenBucketRelease agent s
  | .ptmDialogue port ok hostTime delay => Sys2Proof.Machine.execPtmDialogue port ok hostTime delay s
  | .ptmValidTimeout port => Sys2Proof.Machine.execPtmValidTimeout port s
  | .doeDiscovery port ld idx => Sys2Proof.Machine.execDoeDiscovery port ld idx s
  | .cdatRead port ld entry => Sys2Proof.Machine.execCdatRead port ld entry s
  -- SPDM and IDE_KM, 17_companies_and_keys.md
  | .getVersion ep => Sys2Proof.Machine.execGetVersion ep s
  | .getCapabilities ep => Sys2Proof.Machine.execGetCapabilities ep s
  | .negotiateAlgorithms ep base hash dhe aead => Sys2Proof.Machine.execNegotiateAlgorithms ep base hash dhe aead s
  | .getDigests ep => Sys2Proof.Machine.execGetDigests ep s
  | .getCertificate ep slot offset len => Sys2Proof.Machine.execGetCertificate ep slot offset len s
  | .challenge ep slot nonce => Sys2Proof.Machine.execChallenge ep slot nonce s
  | .getMeasurements ep op signed nonce => Sys2Proof.Machine.execGetMeasurements ep op signed nonce s
  | .keyExchange ep slot reqSession exchange => Sys2Proof.Machine.execKeyExchange ep slot reqSession exchange s
  | .finish ep session verify => Sys2Proof.Machine.execFinish ep session verify s
  | .keyUpdate ep session op => Sys2Proof.Machine.execKeyUpdate ep session op s
  | .endSession ep session => Sys2Proof.Machine.execEndSession ep session s
  | .ideKmKeyProg ep session cachemem rx keySet key => Sys2Proof.Machine.execIdeKmKeyProg ep session cachemem rx keySet key s
  | .kSetGo ep session cachemem rx keySet => Sys2Proof.Machine.execKSetGo ep session cachemem rx keySet s
  | .kSetStop ep session cachemem rx keySet => Sys2Proof.Machine.execKSetStop ep session cachemem rx keySet s
  -- fabric manager API
  | .getLdInfo port => Sys2Proof.Machine.execGetLdInfo port s
  | .getLdAllocations port => Sys2Proof.Machine.execGetLdAllocations port s
  | .getQosControl port => Sys2Proof.Machine.execGetQosControl port s
  | .getQosStatus port => Sys2Proof.Machine.execGetQosStatus port s
  | .getQosAllocatedBw port => Sys2Proof.Machine.execGetQosAllocatedBw port s
  | .getQosBwLimit port => Sys2Proof.Machine.execGetQosBwLimit port s
  | .setLdAllocations port => Sys2Proof.Machine.execSetLdAllocations port s
  | .setQosControl port => Sys2Proof.Machine.execSetQosControl port s
  | .setQosAllocatedBw port => Sys2Proof.Machine.execSetQosAllocatedBw port s
  | .setQosBwLimit port => Sys2Proof.Machine.execSetQosBwLimit port s
  -- MCTP and PLDM
  | .setEndpointId eid => Sys2Proof.Machine.execSetEndpointId eid s
  | .getEndpointId => Sys2Proof.Machine.execGetEndpointId s
  | .getMctpVersionSupport msgType => Sys2Proof.Machine.execGetMctpVersionSupport msgType s
  | .getMessageTypeSupport => Sys2Proof.Machine.execGetMessageTypeSupport s
  | .setEventReceiver receiver => Sys2Proof.Machine.execSetEventReceiver receiver s
  | .pollForPlatformEventMessage => Sys2Proof.Machine.execPollForPlatformEventMessage s
  | .pldmSensorRead sensor => Sys2Proof.Machine.execPldmSensorRead sensor s
  -- Ethernet and Stagehand, 16_stagehand.md
  | .ethLinkChange port up => Sys2Proof.Machine.execEthLinkChange port up s
  | .arp port request target sender => Sys2Proof.Machine.execArp port request target sender s
  | .neighborDiscovery port solicit target sender => Sys2Proof.Machine.execNeighborDiscovery port solicit target sender s
  | .icmpEcho port ipv6 target sender payload => Sys2Proof.Machine.execIcmpEcho port ipv6 target sender payload s
  | .shWrite p => Sys2Proof.Machine.execShWrite p s
  | .readReq p => Sys2Proof.Machine.execReadReq p s
  | .readResp p => Sys2Proof.Machine.execReadResp p s
  | .atomicAdd p => Sys2Proof.Machine.execAtomicAdd p s
  | .atomicCas p => Sys2Proof.Machine.execAtomicCas p s
  | .atomicResp p => Sys2Proof.Machine.execAtomicResp p s
  | .nak p => Sys2Proof.Machine.execNak p s
  | .ack p => Sys2Proof.Machine.execAck p s
  | .sync p => Sys2Proof.Machine.execSync p s
  | .syncAck p => Sys2Proof.Machine.execSyncAck p s
  | .syncTimer conn => Sys2Proof.Machine.execSyncTimer conn s
  | .ackTimer conn => Sys2Proof.Machine.execAckTimer conn s
  | .stagehandSend conn => Sys2Proof.Machine.execStagehandSend conn s
  | .retransmitTimeout conn psn => Sys2Proof.Machine.execRetransmitTimeout conn psn s
  | .entropyRestore conn entropy => Sys2Proof.Machine.execEntropyRestore conn entropy s
  | .peerSilenceTimeout conn => Sys2Proof.Machine.execPeerSilenceTimeout conn s
  | .connectionWaitTimeout r => Sys2Proof.Machine.execConnectionWaitTimeout r s
  -- delivery and attention
  | .cueNotBefore r => Sys2Proof.Machine.execCueNotBefore r s
  | .cueCutoff r => Sys2Proof.Machine.execCueCutoff r s
  | .attendCutoff r => Sys2Proof.Machine.execAttendCutoff r s
  | .weightsLayerCutoff r layer => Sys2Proof.Machine.execWeightsLayerCutoff r layer s
  | .weightsSlotFree r => Sys2Proof.Machine.execWeightsSlotFree r s
  | .stagingComplete company what => Sys2Proof.Machine.execStagingComplete company what s
  | .allotmentDispatch c => Sys2Proof.Machine.execAllotmentDispatch c s
  -- the Loft medium, 06_the_loft_medium.md
  | .writeBackStart => Sys2Proof.Machine.execWriteBackStart s
  | .loftProgramComplete o => Sys2Proof.Machine.execLoftProgramComplete o s
  | .journalRecordComplete => Sys2Proof.Machine.execJournalRecordComplete s
  | .indexCheckpoint => Sys2Proof.Machine.execIndexCheckpoint s
  | .stripeCloseTimer half => Sys2Proof.Machine.execStripeCloseTimer half s
  | .loftReadComplete company what o => Sys2Proof.Machine.execLoftReadComplete company what o s
  | .suspendExpiry die => Sys2Proof.Machine.execSuspendExpiry die s
  | .patrolScrub die block o lost => Sys2Proof.Machine.execPatrolScrub die block o lost s
  | .readRetryCalibration die ok moved => Sys2Proof.Machine.execReadRetryCalibration die ok moved s
  | .calibrationOverdue die moved => Sys2Proof.Machine.execCalibrationOverdue die moved s
  | .readDisturbRefresh die block => Sys2Proof.Machine.execReadDisturbRefresh die block s
  | .reclamation die block => Sys2Proof.Machine.execReclamation die block s
  | .staticWearLevelling die cold worn => Sys2Proof.Machine.execStaticWearLevelling die cold worn s
  | .dieFailure die => Sys2Proof.Machine.execDieFailure die s
  | .rebuildComplete die => Sys2Proof.Machine.execRebuildComplete die s
  -- rule changes
  | .rulesSwitch r => Sys2Proof.Machine.execRulesSwitch r s
  | .rulesGraceExpiry company => Sys2Proof.Machine.execRulesGraceExpiry company s
  | .rulesDrainComplete r => Sys2Proof.Machine.execRulesDrainComplete r s
  -- arbiters and events
  | .backoffExpiry cls inst requester item since => Sys2Proof.Machine.execBackoffExpiry cls inst requester item since s
  | .quotaWindowEnd cls inst since => Sys2Proof.Machine.execQuotaWindowEnd cls inst since s
  | .starvationFlag cls inst requester item => Sys2Proof.Machine.execStarvationFlag cls inst requester item s
  | .hbmRefresh stack pc => Sys2Proof.Machine.execHbmRefresh stack pc s
  | .eventInterrupt e => Sys2Proof.Machine.execEventInterrupt e s
  -- health
  | .clusterFailure p stageRow lost => Sys2Proof.Machine.execClusterFailure p stageRow lost s
  | .stageRowRepair p row lost => Sys2Proof.Machine.execStageRowRepair p row lost s
  | .wingsRowRepair stack row lost => Sys2Proof.Machine.execWingsRowRepair stack row lost s
  | .linkDeath p dir failing => Sys2Proof.Machine.execLinkDeath p dir failing s
  | .unitFailure stagehand => Sys2Proof.Machine.execUnitFailure stagehand s
  -- host reads and the medium
  | .hostReadCompletion r arrays => Sys2Proof.Machine.execHostReadCompletion r arrays s
  | .loftEraseComplete die block failed => Sys2Proof.Machine.execLoftEraseComplete die block failed s
  | .memoryInfoValid port => Sys2Proof.Machine.execMemoryInfoValid port s
  -- core exceptions of decode and fetch
  | .illegalInstruction c => Sys2Proof.Machine.execIllegalInstruction c s
  | .fetchFault c => Sys2Proof.Machine.execFetchFault c s
  | .signalArrival src dst => Sys2Proof.Machine.execSignalArrival src dst s
  -- Prompter
  -- pages of the batch whose sketch record could not be read, or not by the cutoff (R401, R422)
  | .scoringBatchComplete r unread => Sys2Proof.Machine.execScoringBatchComplete r unread s
  -- frames and management
  | .droppedFrame port => Sys2Proof.Machine.execDroppedFrame port s
  | .spdmUnsupportedRequest ep code => Sys2Proof.Machine.execSpdmUnsupportedRequest ep code s
  | .pldmBaseRequest command => Sys2Proof.Machine.execPldmBaseRequest command s

end Sys2Proof.Machine
end

