-- ==== Sys2Proof/WellFormed.lean ====
section
/-!
DEFINITION. The commands that can reach a BZ160: every number names a thing that the device has, and every piece of data has
the length that its carrier gives it. A term that fails here describes no event of any device, and its meaning stops with the
fault `noSuchThing`.
-/
namespace Sys2Proof

/-- A tag is 16 bits; queue 4096 stands for a queue that a port reset has deleted (R535, R575). -/
def okRef (r : CmdRef) : Bool := decide (r.queue ≤ 4096) && decide (r.tag < 65536)
/-- Queues 0 to 4,095 (R530). -/
def okQueue (q : Nat) : Bool := decide (q < 4096)
/-- A packet is read whole: 8 words a slot, as many slots as its header says (R536). -/
def okPacket (words : List (BitVec 64)) : Bool :=
  words.length == 8 * ((words.headD 0).toNat / 256 % 4 + 1)
/-- Logical clusters 0 to 159, physical clusters 0 to 175 (R118). -/
def okCluster (c : Nat) : Bool := decide (c < 160)
def okPhysical (p : Nat) : Bool := decide (p < 176)
def okMailbox (k : Nat) : Bool := decide (k < 4)
/-- Host agents 0 to 31 (R677). -/
def okAgent (a : Nat) : Bool := decide (a < 32)
/-- Companies 0 to 63 (R763). -/
def okCompany (c : Nat) : Bool := decide (c < 64)
/-- Offsets of BAR0, and of the component registers behind it (R835; notes/assumptions/30.md). -/
def okOffset (off : Nat) : Bool := decide (off < 2 ^ 20)
def okRegister (off : Nat) : Bool := decide (off < 2 ^ 20 + 65536)
/-- Arbiter classes and their instances (R122). -/
def okArbClass (k : Nat) : Bool := decide (k < 6)
def arbInstances : Nat → Nat
  | 0 => 256
  | 1 => 32
  | 2 => 1408
  | 3 => 12
  | 4 => 16
  | _ => 1
def okArbiter (cls inst : Nat) : Bool :=
  okArbClass cls && decide (inst < arbInstances cls) && (cls != 2 || decide (inst % 8 < 5))
def okRequester (k : Nat) : Bool := decide (k < 65536)
/-- Drain classes 0 to 5 (R134). -/
def okItem (x : ArbItem) : Bool := decide (x.cls < 6) && x.cmd.all okRef
/-- One reading for each of the 18 regions (R107, R871). -/
def okReadings {n : Nat} (l : List (BitVec n)) : Bool := l.length == 18
def okRegion (k : Nat) : Bool := decide (k < 18)
/-- CXL ports 0 to 7, logical devices 0 to 3, DWORDs of configuration space (R676, R677). -/
def okPort (k : Nat) : Bool := decide (k < 8)
def okLd (k : Nat) : Bool := decide (k < 4)
def okConfig (reg : Nat) : Bool := decide (reg < 4096) && reg % 4 == 0
/-- The mailbox of a logical device, or of the FM-owned one under number 4 (R695, R788). -/
def okEndpoint (ep : Endpoint) : Bool :=
  match ep with
  | .mctp => true
  | .doe k ld => okPort k && decide (ld ≤ 4)
/-- A request code that R788 does not support. -/
def okUnsupported (code : BitVec 8) : Bool :=
  !([0x84, 0xE1, 0xE3, 0x81, 0x82, 0x83, 0xE0, 0xE4, 0xE5, 0xE9, 0xEC] : List Nat).contains code.toNat
/-- A CXL.mem request moves one aligned line of 64 bytes (R684). -/
def okLineAddress (a : BitVec 64) : Bool := a.toNat % 64 == 0
def okLineData (b : List Byte) : Bool := b.length == 64
/-- Lines of a coherent window of 64 MiB (R680). -/
def okWindowLine (k : Nat) : Bool := decide (k < 1048576)
/-- Operand sizes of the AtomicOps (R691, R692). -/
def okAtomicSize (n : Nat) : Bool := n == 4 || n == 8
def okCasSize (n : Nat) : Bool := n == 4 || n == 8 || n == 16
/-- Loft dies 0 to 1,023, blocks 0 to 4,095, the two halves (R256, R258). -/
def okDie (d : Nat) : Bool := decide (d < 1024)
def okBlock (b : Nat) : Bool := decide (b < 4096)
def okHalf (h : Nat) : Bool := decide (h < 2)
/-- The die of a program, and the block that reports a failure (R255, R279). -/
def okProgram (o : ProgramOutcome) : Bool := okDie o.die && okBlock o.block
/-- HBM stacks 0 to 7, their pseudo-channels 0 to 31 (R131). -/
def okStack (k : Nat) : Bool := decide (k < 8)
def okPseudoChannel (k : Nat) : Bool := decide (k < 32)
/-- Events 0 to 8 (R849). -/
def okEvent (e : Nat) : Bool := decide (e < 9)
/-- Rows of a Stage slice and of the instruction memory (R817). -/
def okStageRow (r : Nat) : Bool := decide (r < 3200)
/-- An output of a router that has a neighbour: 0 north, 1 east, 2 south, 3 west of 16 rows of 11 (R115). -/
def okLink (p dir : Nat) : Bool :=
  okPhysical p &&
  ((dir == 0 && decide (11 ≤ p)) || (dir == 1 && p % 11 != 10) || (dir == 2 && decide (p < 165)) || (dir == 3 && p % 11 != 0))
/-- Lanes of a link: 32 and 2 spare ones (R113). -/
def okLanes (n : Nat) : Bool := decide (n ≤ 34)
/-- Ethernet ports 0 to 3 (R715). -/
def okEthPort (k : Nat) : Bool := decide (k < 4)

/-- What a Dawn phase found: readings of 18 regions; dies, stacks, clusters and mesh links that exist (R58, R101, R113). -/
def okPhase (o : PhaseOutcome) : Bool :=
  okReadings o.beats && o.deadDies.all okDie && o.wingsRows.all (fun p => okStack p.1) && o.stageRows.all (fun p => okPhysical p.1)
  && o.lanes.all fun x => okLink x.1 x.2.1 && okLanes x.2.2

/-- A command that can reach the device. -/
def Instr.wf (i : Instr) : Bool :=
  match i with
  | .nop r => okRef r
  | .identify r => okRef r
  | .getLog r => okRef r
  | .setFeature r => okRef r
  | .getFeature r => okRef r
  | .companyCreate r => okRef r
  | .companyDestroy r => okRef r
  | .companyRules r => okRef r
  | .admitCompany r => okRef r
  | .release r => okRef r
  | .modelRegister r => okRef r
  | .modelRetire r => okRef r
  | .streamOpen r => okRef r
  | .streamClose r => okRef r
  | .streamFork r => okRef r
  | .findPrefix r => okRef r
  | .appendScenes r => okRef r
  | .sealTail r => okRef r
  | .trim r => okRef r
  | .pin r => okRef r
  | .unpin r => okRef r
  | .place r => okRef r
  | .migrate r => okRef r
  | .cue r => okRef r
  | .deliver r => okRef r
  | .cancelCue r => okRef r
  | .attend r => okRef r
  | .attendSparse r => okRef r
  | .sketchQuery r => okRef r
  | .weightsLoad r => okRef r
  | .weightsStream r => okRef r
  | .queueCreate r => okRef r
  | .queueDelete r => okRef r
  | .queueFlush r => okRef r
  | .queueWait r => okRef r
  | .xfer r => okRef r
  | .atomic r => okRef r
  | .clusterLoad r => okRef r
  | .clusterRun r => okRef r
  | .clusterHalt r => okRef r
  | .scrubNow r _ => okRef r
  | .repair r _ => okRef r
  | .selftest r _ => okRef r
  | .fwDownload r => okRef r
  | .fwCommit r => okRef r
  | .quiesce r => okRef r
  | .healthCmd r => okRef r
  | .alu c => okCluster c
  | .addi c => okCluster c
  | .andi c => okCluster c
  | .ori c => okCluster c
  | .xori c => okCluster c
  | .shi c => okCluster c
  | .movi c => okCluster c
  | .ldpc c _ => okCluster c
  | .cmp c => okCluster c
  | .cmpi c => okCluster c
  | .pred c => okCluster c
  | .ldd c _ => okCluster c
  | .ldw c _ => okCluster c
  | .ldwu c _ => okCluster c
  | .ldh c _ => okCluster c
  | .ldhu c _ => okCluster c
  | .ldb c _ => okCluster c
  | .ldbu c _ => okCluster c
  | .std c => okCluster c
  | .stw c => okCluster c
  | .sth c => okCluster c
  | .stb c => okCluster c
  | .br c => okCluster c
  | .call c => okCluster c
  | .jr c => okCluster c
  | .csrr c => okCluster c
  | .csrw c => okCluster c
  | .send c => okCluster c
  | .sendAck c => okCluster c
  | .recv c => okCluster c
  | .mailboxArrival src dst mbx => okCluster src && okCluster dst && okMailbox mbx
  | .put c => okCluster c
  | .get c => okCluster c
  | .sig c => okCluster c
  | .waitc c => okCluster c
  | .move c => okCluster c
  | .page c => okCluster c
  | .fence c => okCluster c
  | .halt c => okCluster c
  | .trap c => okCluster c
  | .transferComplete c _ _ _ => okCluster c
  | .waitcTimeout c => okCluster c
  | .vsetvl c => okCluster c
  | .vop c => okCluster c
  | .vops c => okCluster c
  | .vun c => okCluster c
  | .vcmp c => okCluster c
  | .vmisc c => okCluster c
  | .vld c => okCluster c
  | .vst c => okCluster c
  | .vscan c => okCluster c
  | .tls c => okCluster c
  | .tmac c => okCluster c
  | .tred c => okCluster c
  | .tbc c => okCluster c
  | .tmov c => okCluster c
  | .vchain c => okCluster c
  | .vlane c => okCluster c
  | .engineCommit c => okCluster c
  | .runStart r => okRef r
  | .runTimeLimit r => okRef r
  | .runEnd r => okRef r
  | .clusterScrub c company => okCluster c && okCompany company
  | .midnightScan => true
  | .clusSignal agent p _ _ => okAgent agent && okPhysical p
  | .mailboxFlush agent p _ => okAgent agent && okPhysical p
  | .doorbell agent q _ _ => okAgent agent && okQueue q
  | .packetIntake q words => okQueue q && okPacket words
  | .fencedDispatch r => okRef r
  | .completionInterrupt q => okQueue q
  | .queueWaitTimeout r => okRef r
  | .adminQueueEnable agent _ => okAgent agent
  | .adminQueueDisable agent _ => okAgent agent
  | .registerWrite agent off _ _ => okAgent agent && okRegister off
  | .shutdownReq agent _ => okAgent agent
  | .safeOff => true
  | .pd6Gate agent _ => okAgent agent
  | .pd6SwitchOff => true
  | .pd6Ungate agent _ => okAgent agent
  | .epochWrite agent _ => okAgent agent
  | .arbCtrlWrite agent j _ _ => okAgent agent && okArbClass j
  | .agentMapWrite agent a _ => okAgent agent && okAgent a
  | .lockWrite agent off _ => okAgent agent && okOffset off
  | .sanitize agent _ => okAgent agent
  | .powerOn _ => true
  | .dawn => true
  | .dawnPhaseComplete o => okPhase o
  | .dawnPhaseTimeout => true
  | .duskEnter _ => true
  | .duskExit _ => true
  | .holdupFlush _ => true
  | .pd0HoldupExpiry => true
  | .supplyRecovery _ => true
  | .houseWatchdog => true
  | .holdupMeasurement _ => true
  | .railReading beats => okReadings beats
  | .monitorFailure region => okRegion region
  | .temperatureReading temps => okReadings temps
  | .thermalRestart => true
  | .powerReading _ _ => true
  | .quiesceNChange _ => true
  | .forceRoChange _ => true
  | .pinHoldoffExpiry _ => true
  | .cxlPortReset port => okPort port
  | .cxlLinkUp port _ _ => okPort port
  | .linkRetrain port _ _ => okPort port
  | .configRequest port ld reg _ => okPort port && okLd ld && okConfig reg
  | .cxlMemRead agent dpa _ => okAgent agent && okLineAddress dpa
  | .cxlMemWrite agent dpa data _ => okAgent agent && okLineAddress dpa && okLineData data
  | .unifiedLoftFill _ _ => true
  | .unifiedLoadTimeout _ => true
  | .birsp agent line dirty => okAgent agent && okWindowLine line && dirty.all okLineData
  | .biSnoopTimeout agent line => okAgent agent && okWindowLine line
  | .fetchAdd agent off size _ => okAgent agent && okOffset off && okAtomicSize size
  | .swap agent off size _ => okAgent agent && okOffset off && okAtomicSize size
  | .cas agent off size _ _ => okAgent agent && okOffset off && okCasSize size
  | .hostReadTimeout r => okRef r
  | .ideCheckFailure port _ => okPort port
  | .tokenBucketRelease agent => okAgent agent
  | .ptmDialogue port _ _ _ => okPort port
  | .ptmValidTimeout port => okPort port
  | .doeDiscovery port ld _ => okPort port && okLd ld
  | .cdatRead port ld _ => okPort port && okLd ld
  | .getVersion ep => okEndpoint ep
  | .getCapabilities ep => okEndpoint ep
  | .negotiateAlgorithms ep _ _ _ _ => okEndpoint ep
  | .getDigests ep => okEndpoint ep
  | .getCertificate ep _ _ _ => okEndpoint ep
  | .challenge ep _ _ => okEndpoint ep
  | .getMeasurements ep _ _ _ => okEndpoint ep
  | .keyExchange ep _ _ _ => okEndpoint ep
  | .finish ep _ _ => okEndpoint ep
  | .keyUpdate ep _ _ => okEndpoint ep
  | .endSession ep _ => okEndpoint ep
  | .ideKmKeyProg ep _ _ _ _ _ => okEndpoint ep
  | .kSetGo ep _ _ _ _ => okEndpoint ep
  | .kSetStop ep _ _ _ _ => okEndpoint ep
  | .getLdInfo port => okPort port
  | .getLdAllocations port => okPort port
  | .getQosControl port => okPort port
  | .getQosStatus port => okPort port
  | .getQosAllocatedBw port => okPort port
  | .getQosBwLimit port => okPort port
  | .setLdAllocations port => okPort port
  | .setQosControl port => okPort port
  | .setQosAllocatedBw port => okPort port
  | .setQosBwLimit port => okPort port
  | .setEndpointId _ => true
  | .getEndpointId => true
  | .getMctpVersionSupport _ => true
  | .getMessageTypeSupport => true
  | .setEventReceiver _ => true
  | .pollForPlatformEventMessage => true
  | .pldmSensorRead _ => true
  | .ethLinkChange port _ => okEthPort port
  | .arp port _ _ _ => okEthPort port
  | .neighborDiscovery port _ _ _ => okEthPort port
  | .icmpEcho port _ _ _ _ => okEthPort port
  | .shWrite p => okEthPort p.port
  | .readReq p => okEthPort p.port
  | .readResp p => okEthPort p.port
  | .atomicAdd p => okEthPort p.port
  | .atomicCas p => okEthPort p.port
  | .atomicResp p => okEthPort p.port
  | .nak p => okEthPort p.port
  | .ack p => okEthPort p.port
  | .sync p => okEthPort p.port
  | .syncAck p => okEthPort p.port
  | .syncTimer _ => true
  | .ackTimer _ => true
  | .stagehandSend _ => true
  | .retransmitTimeout _ _ => true
  | .entropyRestore _ _ => true
  | .peerSilenceTimeout _ => true
  | .connectionWaitTimeout r => okRef r
  | .cueNotBefore r => okRef r
  | .cueCutoff r => okRef r
  | .attendCutoff r => okRef r
  | .weightsLayerCutoff r _ => okRef r
  | .weightsSlotFree r => okRef r
  | .stagingComplete company _ => okCompany company
  | .allotmentDispatch c => okCluster c
  | .writeBackStart => true
  | .loftProgramComplete o => okProgram o
  | .journalRecordComplete => true
  | .indexCheckpoint => true
  | .stripeCloseTimer half => okHalf half
  | .loftReadComplete company _ _ => okCompany company
  | .suspendExpiry die => okDie die
  | .patrolScrub die block _ _ => okDie die && okBlock block
  | .readRetryCalibration die _ _ => okDie die
  | .calibrationOverdue die _ => okDie die
  | .readDisturbRefresh die block => okDie die && okBlock block
  | .reclamation die block => okDie die && okBlock block
  | .staticWearLevelling die cold worn => okDie die && okBlock cold && okBlock worn
  | .dieFailure die => okDie die
  | .rebuildComplete die => okDie die
  | .rulesSwitch r => okRef r
  | .rulesGraceExpiry company => okCompany company
  | .rulesDrainComplete r => okRef r
  | .backoffExpiry cls inst requester item _ => okArbiter cls inst && okRequester requester && okItem item
  | .quotaWindowEnd cls inst _ => okArbiter cls inst
  | .starvationFlag cls inst requester item => okArbiter cls inst && okRequester requester && okItem item
  | .hbmRefresh stack pc => okStack stack && okPseudoChannel pc
  | .eventInterrupt e => okEvent e
  | .clusterFailure p _ _ => okPhysical p
  | .stageRowRepair p row _ => okPhysical p && okStageRow row
  | .wingsRowRepair stack _ _ => okStack stack
  | .linkDeath p dir failing => okLink p dir && okLanes failing
  | .unitFailure _ => true
  | .hostReadCompletion r _ => okRef r
  | .loftEraseComplete die block _ => okDie die && okBlock block
  | .memoryInfoValid port => okPort port
  | .illegalInstruction c => okCluster c
  | .fetchFault c => okCluster c
  | .signalArrival src dst => okCluster src && okCluster dst
  | .scoringBatchComplete r _ => okRef r
  | .droppedFrame port => okEthPort port
  | .spdmUnsupportedRequest ep code => okEndpoint ep && okUnsupported code
  | .pldmBaseRequest _ => true

end Sys2Proof
end

