-- ==== Sys2Proof/Safety.lean ====
section
/-!
DEFINITION. What claims about runs of the BZ160 speak of: the parts of the device that no command changes, and the shapes of
the state that every step keeps.
-/
namespace Sys2Proof.Machine
open Sys2Proof

/-- What manufacture has fixed: the fuses, but for whether FUSE has loaded them (R1, R4, R844). -/
structure Fused where
  variant    : Variant
  baseStep   : BitVec 8
  metalStep  : BitVec 8
  secVerMin  : BitVec 16
  debugOff   : Bool
  production : Bool
deriving DecidableEq, Repr

def fused (s : State) : Fused :=
  { variant := s.fuses.variant, baseStep := s.fuses.baseStep, metalStep := s.fuses.metalStep,
    secVerMin := s.fuses.secVerMin, debugOff := s.fuses.debugOff, production := s.fuses.production }

/-- The byte memories of the device that read zero where nothing is listed: firmware images, coherent windows, scratch
objects, and working areas outside a run. -/
def memories (s : State) : List Memory :=
  s.fw.map (fun p => p.2.image) ++ s.coherent.map (·.2) ++ s.store.scratch.map (fun p => p.2.mem)
  ++ (s.clusters.filter fun p => p.2.workFree.isNone).map (fun p => p.2.work)

/-- Addresses strictly rising: the form of a working area in a run, where every byte stored is listed, zeros too. -/
def rising : Memory → Bool
  | [] => true
  | [_] => true
  | (a, _) :: (b, y) :: r => decide (a < b) && rising ((b, y) :: r)

/-- A core's program counter, and that of an engine instruction it has queued, addresses a word (R436, R463). -/
def pcAligned (s : State) : Bool :=
  s.clusters.all fun p => p.2.core.pc.toNat % 4 == 0 && p.2.engQ.all fun n => n.pc % 4 == 0

/-- Keys strictly rising: each thing is listed once. -/
def ordered (l : List Nat) : Bool :=
  match l with
  | [] => true
  | a :: r => r.all (fun b => decide (a < b)) && ordered r

/-- The shapes that every step keeps. -/
structure Shaped (s : State) : Prop where
  clusters  : ordered (s.clusters.map (·.1)) = true
  canonical : (memories s).all Memory.wf = true
  areas     : (s.clusters.all fun p => rising p.2.work) = true
  aligned   : pcAligned s = true

/-- Row r names command t of opcode op, which may run, and none of its checks fails. -/
def Passes (op : Nat) (r : CmdRef) (s : State) (t : Taken) (checks : Taken → State → List Chk) : Prop :=
  findRun op r s = some t ∧ firstOf (checks t s) = none

/-- The core of logical cluster c takes up the instruction of major opcode op at its pc, and nothing holds it back: it runs,
pc lies in the image, the word is legal, its guard is met (R434), no register it names is still being written (R440), and no
engine instruction before it has faulted (R512). -/
structure Issues (op c : Nat) (legal : Word32 → Bool) (regs : Word32 → List Nat) (s : State) (x : CoreCtx) : Prop where
  inRange : c < 160
  runs    : running c s = some x
  inImage : fetched x = true
  opcode  : opOf x.w = op
  noFault : x.cl.engQ.any (fun e => e.fault.isSome) = false
  isLegal : legal x.w = true
  guarded : guardOf x = true
  settled : (regs x.w).any (fun r => x.cl.core.pendRd.contains r) = false

/-- The same for an engine instruction, which needs a place in the queue of 16 as well (R511). -/
structure EngIssues (op c : Nat) (legal : Word32 → Bool) (regs : Word32 → List Nat) (s : State) (x : CoreCtx) : Prop
    extends Issues op c legal regs s x where
  place : x.cl.engQ.length < 16

/-- The queue entry of an engine instruction that leaves engine state e, flags fl and nothing else. -/
def entryOf (e : Engine) (fl : Nat) : EngEntry :=
  { pc := 0, eng := e, flags := BitVec.ofNat 5 fl, writes := [], rd := none, fault := none, memory := false }

/-- The state after an engine instruction has been queued: two free values of its own are spent. -/
def queued (x : CoreCtx) (n : EngEntry) (s : State) : State := enqueue x n (spend (spend s))

/-- The rows of core instructions: major opcode, logical cluster, encodings that are legal, registers named. -/
def coreInstr : Instr → Option (Nat × Nat × (Word32 → Bool) × (Word32 → List Nat))
  | .alu c => some (0x00, c, aluLegal, regsR)
  | .addi c => some (0x01, c, always, regsI)
  | .andi c => some (0x02, c, always, regsI)
  | .ori c => some (0x03, c, always, regsI)
  | .xori c => some (0x04, c, always, regsI)
  | .shi c => some (0x05, c, shiLegal, regsI)
  | .movi c => some (0x06, c, always, fun w => [rdOf w])
  | .ldpc c _ => some (0x07, c, always, fun w => [rdOf w])
  | .cmp c => some (0x08, c, fun w => decide (fw w 18 16 < 6) && fw w 5 0 == 0, fun w => [fw w 15 11, fw w 10 6])
  | .cmpi c => some (0x09, c, fun w => decide (fw w 18 16 < 6), fun w => [fw w 15 11])
  | .pred c => some (0x0A, c, predLegal,
      fun w => if fnOf w == 4 then [rdOf w] else if fnOf w == 5 then [raOf w] else [])
  | .ldd c _ => some (0x0B, c, always, regsI)
  | .ldw c _ => some (0x0C, c, always, regsI)
  | .ldwu c _ => some (0x0D, c, always, regsI)
  | .ldh c _ => some (0x0E, c, always, regsI)
  | .ldhu c _ => some (0x0F, c, always, regsI)
  | .ldb c _ => some (0x10, c, always, regsI)
  | .ldbu c _ => some (0x11, c, always, regsI)
  | .std c => some (0x12, c, always, regsI)
  | .stw c => some (0x13, c, always, regsI)
  | .sth c => some (0x14, c, always, regsI)
  | .stb c => some (0x15, c, always, regsI)
  | .br c => some (0x18, c, always, fun _ => [])
  | .call c => some (0x19, c, always, fun _ => [31])
  | .jr c => some (0x1A, c, fun w => fnOf w == 0 && rbOf w == 0, regsI)
  | .csrr c => some (0x1C, c, fun w => raOf w == 0 && csrReadable (fw w 11 0), fun w => [rdOf w])
  | .csrw c => some (0x1D, c, fun w => rdOf w == 0 && csrWritable (fw w 11 0), fun w => [raOf w])
  | .send c => some (0x20, c, always, regsR)
  | .recv c => some (0x21, c, fun w => raOf w == 0, fun w => [rdOf w, rbOf w])
  | .put c => some (0x22, c, always, regsR)
  | .get c => some (0x23, c, always, regsR)
  | .sig c => some (0x24, c, fun w => rdOf w == 0, fun w => [raOf w, rbOf w])
  | .waitc c => some (0x25, c, always, regsR)
  | .move c => some (0x26, c, always, regsR)
  | .page c => some (0x27, c, always, regsR)
  | .fence c => some (0x28, c, fun w => fw w 21 0 == 0, fun _ => [])
  | .halt c => some (0x29, c, fun w => fw w 21 12 == 0, fun _ => [])
  | .trap c => some (0x2A, c, fun w => fw w 21 12 == 0, fun _ => [])
  | _ => none

/-- The core instructions that change nothing but their core and, on a fault, the run: arithmetic, predicates, loads and
branches. -/
def coreOnly : Instr → Option Nat
  | .alu c | .addi c | .andi c | .ori c | .xori c | .shi c | .movi c | .ldpc c _ | .cmp c | .cmpi c | .pred c
  | .ldd c _ | .ldw c _ | .ldwu c _ | .ldh c _ | .ldhu c _ | .ldb c _ | .ldbu c _
  | .br c | .call c | .jr c | .csrr c | .waitc c | .fence c | .halt c | .trap c
  | .illegalInstruction c | .fetchFault c => some c
  | _ => none

/-- A Stagehand packet reaches the unit: its port has a link and an address, and Stagehand works (R715, R824). -/
structure Arrives (p : ShPacket) (s : State) : Prop where
  onPort : p.port < 4
  linked : frameArrives s p.port = true
  unit   : hasStagehand s = true
  works  : s.health.stagehandFailed = false

/-- Connection k, in state x, accepts it (R726, R761). -/
structure Accepted (p : ShPacket) (s : State) (k : Nat) (x : Conn) : Prop extends Arrives p s where
  taken : acceptedOn p s = some (k, x)

/-- A connection that takes data packets: UP, or SYNCING with the peer's SYNC seen (R722). -/
def takesData (x : Conn) : Bool := x.state == 2 || (x.state == 1 && x.syncSeen)

/-- A data packet whose PSN lies before the expected one, or has been received already (R728, R734). -/
structure Duplicate (p : ShPacket) (x : Conn) : Prop where
  open_ : takesData x = true
  again : 2 ^ 31 ≤ psnFrom x.expPsn p.psn ∨ x.seen.contains p.psn = true ∨ x.held.any (·.psn == p.psn) = true

/-- A new data packet in the receive range of 16,384 PSNs (R734). -/
structure NewData (p : ShPacket) (x : Conn) : Prop where
  open_   : takesData x = true
  inRange : psnFrom x.expPsn p.psn < 16384
  unseen  : x.seen.contains p.psn = false
  unheld  : x.held.any (·.psn == p.psn) = false

/-- The rows of data packets, and of all packets on a connection. -/
def dataRows (p : ShPacket) : List Instr :=
  [.shWrite p, .readReq p, .readResp p, .atomicAdd p, .atomicCas p, .atomicResp p, .nak p]
def packetRows (p : ShPacket) : List Instr := dataRows p ++ [.ack p, .sync p, .syncAck p]

/-- The rows that run a Paulou command: opcode, reference, and checks in their order. -/
def commandRow : Instr → Option (Nat × CmdRef × (Taken → State → List Chk))
  | .nop r => some (0x01, r, nopChecks)
  | .identify r => some (0x02, r, identifyChecks)
  | .getLog r => some (0x03, r, getLogChecks)
  | .setFeature r => some (0x04, r, setFeatureChecks)
  | .getFeature r => some (0x05, r, getFeatureChecks)
  | .companyCreate r => some (0x08, r, companyCreateChecks)
  | .companyDestroy r => some (0x09, r, companyDestroyChecks)
  | .companyRules r => some (0x0A, r, companyRulesChecks)
  | .admitCompany r => some (0x10, r, admitChecks)
  | .release r => some (0x11, r, releaseChecks)
  | .modelRegister r => some (0x18, r, modelRegisterChecks)
  | .modelRetire r => some (0x19, r, modelRetireChecks)
  | .streamOpen r => some (0x20, r, streamOpenChecks)
  | .streamClose r => some (0x21, r, streamCloseChecks)
  | .streamFork r => some (0x22, r, streamForkChecks)
  | .findPrefix r => some (0x28, r, findPrefixChecks)
  | .appendScenes r => some (0x29, r, appendScenesChecks)
  | .sealTail r => some (0x2A, r, sealChecks)
  | .trim r => some (0x2B, r, trimChecks)
  | .pin r => some (0x30, r, pinChecks)
  | .unpin r => some (0x31, r, unpinChecks)
  | .place r => some (0x32, r, placeChecks)
  | .migrate r => some (0x33, r, migrateChecks)
  | .cue r => some (0x38, r, runCueChecks true)
  | .deliver r => some (0x39, r, runCueChecks false)
  | .cancelCue r => some (0x3A, r, cancelCueChecks)
  | .attend r => some (0x40, r, runAttendChecks false)
  | .attendSparse r => some (0x41, r, runAttendChecks true)
  | .sketchQuery r => some (0x42, r, sketchQueryChecks)
  | .weightsLoad r => some (0x48, r, weightsLoadChecks)
  | .weightsStream r => some (0x49, r, weightsStreamChecks)
  | .queueCreate r => some (0x50, r, queueCreateChecks)
  | .queueDelete r => some (0x51, r, queueDeleteChecks)
  | .queueFlush r => some (0x52, r, queueFlushChecks)
  | .queueWait r => some (0x53, r, queueWaitChecks)
  | .xfer r => some (0x58, r, xferChecks)
  | .atomic r => some (0x59, r, atomicChecks)
  | .clusterLoad r => some (0x60, r, clusterLoadChecks)
  | .clusterRun r => some (0x61, r, clusterRunChecks)
  | .clusterHalt r => some (0x62, r, clusterHaltChecks)
  | .scrubNow r _ => some (0x78, r, scrubChecks)
  | .repair r _ => some (0x79, r, repairChecks)
  | .selftest r _ => some (0x7A, r, selftestChecks)
  | .fwDownload r => some (0x7C, r, fwDownloadChecks)
  | .fwCommit r => some (0x7D, r, fwCommitChecks)
  | .quiesce r => some (0x7E, r, quiesceChecks)
  | .healthCmd r => some (0x7F, r, healthChecks)
  | _ => none

end Sys2Proof.Machine
end

