-- ==== Sys2Proof/Certificates/Slice0/Obligations.lean ====
section
/-!
DEFINITION. The statements for the provers, from the numbered rules of spec/. Each says what a row of the opcode table, a
shared operation of the machine, or a whole step does; hypotheses speak of the state and the operands alone.
-/
section Statements
open Sys2Proof Sys2Proof.Machine

/-! The block and its queue. -/

/-- Model's own interface (notes/assumptions/10.md): with command `c` at the front of the queue, a step is `exec c` on the
state with the queue's rest. -/
def Obligations.StepRunsFrontCommand : Prop :=
  ∀ (c : Instr) (s : State), step { s with pending := c :: s.pending } = exec c s

/-- Model's own choice (notes/assumptions/9.md): on an empty queue the block idles, and idling is one 40 ns period of the
PD0 crystal in DEV_TIME and in the lifetime count, while PD0 is powered. -/
def Obligations.EmptyQueueTicks : Prop :=
  ∀ s : State, s.pending = [] →
    ∃ t, step s = .next t ∧
      (s.pwr.on.getLsbD 0 = false → t = s) ∧
      (s.pwr.on.getLsbD 0 = true →
        t.dev.time = s.dev.time + 40 ∧
        t.health.lifeS.toNat * 1000000000 + t.health.lifeNs
          = (s.health.lifeS.toNat + (s.health.lifeNs + 40) / 1000000000) % 2 ^ 64 * 1000000000
            + (s.health.lifeNs + 40) % 1000000000 ∧
        { t with dev := s.dev, health := s.health } = s)

/-- Every command that names things a BZ160 has gets an answer that goes on: no fault and no refusal, in any state. -/
def Obligations.WellFormedCommandsGoOn : Prop :=
  ∀ (c : Instr) (s : State), c.wf = true → ∃ t, exec c s = .next t

/-- Every step takes the front command off the queue and leaves the rest as it waits, first in, first out, and what
manufacture fixed in the fuses (variant, steppings, security version, debug and production fuses) as it is. -/
def Obligations.StepsKeepQueueOrderAndFuses : Prop :=
  ∀ s t : State, step s = .next t → t.pending = s.pending.tail ∧ fused t = fused s

/-- The shapes of the state that every step keeps: byte memories in their canonical form, program counters at words. -/
def Obligations.StepsKeepShape : Prop :=
  ∀ s t : State, Shaped s → step s = .next t → Shaped t

/-- The state after reset: it has those shapes; no domain is powered and nothing is in flight, pending or written to memory; only
company 0 exists; and registers to which the register map gives a reset value hold it (R57, R142, R845 to R856); the
Prompter's reads zero on a part without one. Values that the
spec does not give are the model's (notes/assumptions/1.md) and are not stated here. -/
def Obligations.ResetIsShaped : Prop :=
  Shaped State.reset ∧
  let s := State.reset
  s.pending = [] ∧ s.taken = [] ∧ s.out = [] ∧ s.coherent = [] ∧ s.atomics = [] ∧ s.store.scenes = [] ∧
  s.store.streams = [] ∧ s.store.scratch = [] ∧ s.conns = [] ∧ s.sessions = [] ∧ s.store.companies.map (·.1) = [0] ∧
  s.pwr.on = 0 ∧ s.dev.dawnPhase = 0 ∧ s.dev.curUp = false ∧ s.dev.time = 0 ∧ s.pwr.targetPs = 0x02BC ∧
  s.pwr.thermC = 0x64 ∧ s.evt.cause = 0 ∧ s.evt.mask = 0x1FF ∧ s.evt.coalUs = 0x03E8 ∧
  (∀ e, e < 9 → s.evt.route.getD e 0 = 0x80000000) ∧ s.flash.actrl = 0 ∧ s.shSpray = 0x0100 ∧
  arbCtrl s 0 = 0x003F00FF1F001005 ∧ arbCtrl s 1 = 0x0FFF0FFF0700043D ∧ arbCtrl s 2 = 0x000F003F0F000800 ∧
  arbCtrl s 3 = 0x007F01FF3F00080D ∧ arbCtrl s 4 = 0x000F003F0F000800 ∧ arbCtrl s 5 = 0x03FF0FFF0301021D ∧
  (∀ a, a < 32 → (agent s a).company = 0) ∧
  (∀ (u : State) (a : Nat), hasPrompter u = false → readReg u a 0x5028 = 0)

/-! Paulou commands. `Passes op r s t checks`: r names command t of opcode op, which may run, and none of its checks fails. -/

/-- A command that its row finds and that fails a check ends with the completion of the first check that fails, in the order
of R583, and has no other effect, but that QUEUE_WAIT with abort_on_fail flushes its queue (R558); a row that finds no command that
may run has no effect. Of the fields that fail one check, the completion names the one that lies lowest in the packet (R551). -/
def Obligations.FailedCheckEndsCommand : Prop :=
  (∀ (i : Instr) (op : Nat) (r : CmdRef) (checks : Taken → State → List Chk) (s : State),
     commandRow i = some (op, r, checks) →
     (∀ t c, findRun op r s = some t → firstOf (checks t s) = some c →
       exec i s = .next (if op == 0x53 then settle (completeWait t (bit (word t 1) 32) c s) else finish t c s)) ∧
     (findRun op r s = none → findRunning op r s = none → exec i s = .next s)) ∧
  ∀ (l : List Bad) (c : Completion), badFields l = some c →
    ∃ off reason, (true, off, reason) ∈ l ∧ c = badAt off reason ∧ ∀ o r, (true, o, r) ∈ l → off ≤ o

/-- Once every check passes, the state left and the completion: NOP, IDENTIFY, GET_LOG, SET_FEATURE, GET_FEATURE, HEALTH and QUIESCE. -/
def Obligations.AdminCommandsComplete : Prop :=
  ∀ (r : CmdRef) (s : State) (t : Taken),
    let owner := t.queue == 0 || t.company == 0
    let sel := fld (word t 0) 63 48
    (Passes 0x01 r s t nopChecks → exec (.nop r) s = .next (finish t okay s)) ∧
    (Passes 0x02 r s t identifyChecks →
      exec (.identify r) s = .next (finish t (okWith (w64 (capUnits s)) 0 0) (toHost t (word t 1).toNat
        (if sel == 0 then identifyDevice s owner (s.dev.fwSlot == 3)
         else if sel == 1 then identifyCompany s t.company
         else if sel == 2 then (upto 64).flatMap fun k => identifyModel s (fun c => owner || c == t.company) k
         else ((openStream s t.company (low (word t 2))).map (identifyStream (low (word t 2)))).getD (leBytes 4096 0)) s))) ∧
    (Passes 0x03 r s t getLogChecks →
      let all := logBytes s owner t.company sel
      let off := (word t 3).toNat
      exec (.getLog r) s = .next (finish t (okWith (w64 (min (low (word t 2)) (all.length - off))) (w64 all.length) 0)
        (toHost t (word t 1).toNat (slice all off (low (word t 2))) s))) ∧
    (Passes 0x04 r s t setFeatureChecks →
      let s' := applyFeature t.company sel (word t 1) (bit (word t 3) 63) (hostArray t 0) s
      exec (.setFeature r) s = .next (finish t (okWith (featureValue s' t.company sel) 0 0) s')) ∧
    (Passes 0x05 r s t getFeatureChecks →
      exec (.getFeature r) s = .next (finish t (okWith (featureValue s t.company sel) 0 0) s)) ∧
    (Passes 0x7F r s t healthChecks →
      exec (.healthCmd r) s = .next (finish t
        (okWith (healthWord s) (w64 s.loft.spareLeft.toNat) (w64 s.loft.pctUsed.toNat)) s)) ∧
    (Passes 0x7E r s t quiesceChecks →
      let s' := reportQuiesce (quiesced s) { s with dev := { s.dev with quiesceCmd := !bit (word t 1) 0 } }
      let done := okWith (w64 (b2n (quiesced s'))) 0 0
      exec (.quiesce r) s = .next
        (if bit (word t 1) 8 then
          settle (modWork (fun w => { w with drains := kset w.drains t.seq done }) (setRunning t.seq s'))
         else finish t done s'))

/-- COMPANY_CREATE, COMPANY_DESTROY, COMPANY_RULES, ADMIT, RELEASE, MODEL_REGISTER and MODEL_RETIRE: each changes the
store and then waits for its journal record (COMPANY_RULES for its switch, MODEL_RETIRE for the readers of its scenes).
`onceRoom` leaves the state as it is while an earlier command holds the room up (R247, R391; notes/assumptions/103.md). -/
def Obligations.CompanyCommandsComplete : Prop :=
  ∀ (r : CmdRef) (s : State) (t : Taken),
    let c := t.company
    (Passes 0x08 r s t companyCreateChecks →
      let co : Company := { Company.fresh with salt := Config.salt s.free, key := some s.free,
                                               connLimit := fld (word t 2) 15 0 }
      let s1 : State := { s with free := s.free + 1, store := { s.store with companies := kset s.store.companies c co } }
      let s2 := ((upto 32).filter fun a => bit (word t 1) a).foldl
        (fun s a => modAgent a (fun g => { g with company := c }) s) s1
      let s3 := zeroRegions c { s2 with lock := { s2.lock with ruleViol := kdel s2.lock.ruleViol c } }
      exec (.companyCreate r) s = .next (holdFor (recordCompany c s3) t okay s3)) ∧
    (Passes 0x09 r s t companyDestroyChecks →
      exec (.companyDestroy r) s = .next
        (if s.taken.any fun u => decide (u.seq < t.seq) && u.company == c && u.queue == 0 then
          modCompany c (fun k => { k with dying := true }) s
         else holdFor (.companyDestroy c) t okay (zeroRegions c (destroyCompany c s)))) ∧
    (Passes 0x0A r s t companyRulesChecks →
      exec (.companyRules r) s = .next (modWork (fun w => { w with rules := w.rules ++
        [{ seq := t.seq, company := c, table := ruleTableOf (hostArray t 0), switched := false, switchAt := 0,
           newEpoch := 0, recorded := false, cut := 0 }] }) (setRunning t.seq s))) ∧
    (Passes 0x10 r s t admitChecks →
      ∃ s1, shrinkAll c (word t 1).toNat (word t 2).toNat (word t 3).toNat s = some s1 ∧
        let s2 := modCompany c (fun k => { k with
          stageRes := (word t 1).toNat, wingsRes := (word t 2).toNat, loftRes := (word t 3).toNat
          unified := (word t 4).toNat, streamRes := low (word t 5), split := bit (word t 6) 0 }) s1
        exec (.admitCompany r) s = .next (onceRoom t s s1
          (holdFor (recordCompany c s2) t (okWith (w64 (heldAll s c - heldAll s1 c)) 0 0) s2))) ∧
    (Passes 0x11 r s t releaseChecks → ((ofCompany s c).any fun x => inFlight s c x.id) = false →
      let n := (ofCompany s c).length
      let s1 := removeAll (fun x => x.company == c) n s
      let s2 := (s1.store.weights.filter fun w => w.company == c).foldl
        (fun s w => formRecord (.weightsRemove c w.name) none s) (dropMedium c s1)
      let s3 := modCompany c (fun k => { k with stageRes := 0, wingsRes := 0, loftRes := 0, streamRes := 0 })
        { s2 with store := { s2.store with weights := s2.store.weights.filter fun w => w.company != c
                                           scratch := s2.store.scratch.filter fun p => p.2.company != c } }
      exec (.release r) s = .next (holdFor (recordCompany c s3) t (okWith (w64 n) 0 0) s3)) ∧
    (Passes 0x18 r s t modelRegisterChecks →
      ∃ k, kfree s.store.models 64 = some k ∧
        let w := word t 2
        let m : Model := { fingerprint := word t 1, layers := fld w 7 0, heads := fld w 15 8, dim := fld w 31 16,
                           kvType := fld w 39 32, company := c, retiring := false }
        exec (.modelRegister r) s = .next (holdFor (.modelPut k (some m)) t (okWith (w64 k) 0 0)
          { s with store := { s.store with models := kset s.store.models k m } })) ∧
    (Passes 0x19 r s t modelRetireChecks →
      let k := fld (word t 0) 53 48
      let s' : State := { s with store := { s.store with models := kmod s.store.models k fun m => { m with retiring := true } } }
      exec (.modelRetire r) s = .next
        (if retireReady s' t k then retireModel t k s'
         else modWork (fun w => { w with drains := kset w.drains t.seq okay }) (setRunning t.seq s')))

/-- Once every check passes, the state left and the completion: STREAM_OPEN, STREAM_CLOSE, STREAM_FORK, FIND_PREFIX, APPEND_SCENES, SEAL and TRIM.
`onceRoom` leaves the state as it is while an earlier command holds the room up (R247, R391; notes/assumptions/103.md). -/
def Obligations.StreamCommandsComplete : Prop :=
  ∀ (r : CmdRef) (s : State) (t : Taken),
    let c := t.company
    let h := low (word t 1)
    (Passes 0x20 r s t streamOpenChecks →
      ∃ s1, makeRoom .wings c chainMapBytes s = some s1 ∧
        let made := openNew { company := c, model := fld (word t 1) 5 0, translate := if fld (word t 1) 9 8 == 2 then 2 else 1,
                              tailStage := bit (word t 1) 16, chain := [], tailCount := 0, tailFps := [], tailPages := [],
                              tailSketches := [], tailPoison := [], placed := none, placedOn := [] } s1
        exec (.streamOpen r) s = .next (onceRoom t s s1 (finish t (okWith (w64 made.1) 0 0) made.2))) ∧
    (Passes 0x21 r s t streamCloseChecks → exec (.streamClose r) s = .next (finish t okay (closeStream t h s))) ∧
    (Passes 0x22 r s t streamForkChecks → bit (word t 1) 32 = true →
      ∃ u s1, openStream s c (low (word t 2)) = some u ∧
        tailRoom c (if u.tailCount != 0 then sceneBytes (modelD s u.model) else 0)
          (((openStream s c h).map (·.tailStage)).getD false) s = some s1 ∧
        exec (.streamFork r) s = .next (onceRoom t s s1
          (finish t (okWith (w64 (streamLength u)) (w64 u.chain.length) 0) (stampUse c u.chain (modStream h (fun v => { v with
            chain := u.chain, tailCount := u.tailCount, tailFps := u.tailFps, tailPages := u.tailPages,
            tailSketches := u.tailSketches }) s1))))) ∧
    (Passes 0x22 r s t streamForkChecks → bit (word t 1) 32 = false →
      let id : SceneId := BitVec.ofNat 128 ((word t 2).toNat + (word t 3).toNat * 2 ^ 64)
      ∃ x s1, findScene s c id = some x ∧ x.retired = false ∧
        tailRoom c 0 (((openStream s c h).map (·.tailStage)).getD false) s = some s1 ∧
        exec (.streamFork r) s = .next
          (onceRoom t s s1 (let chain := ancestors s1 c x.depth id
           finish t (okWith (w64 (16 * chain.length)) (w64 chain.length) 0)
            (stampUse c chain (modStream h (fun v => { v with chain := chain }) s1))))) ∧
    (Passes 0x28 r s t findPrefixChecks →
      let ids := matchPrefix s c (((companyOf s c).map (·.salt)).getD 0) (modelD s (fld (word t 1) 5 0)).fingerprint
        (low (word t 3) / 16) 0 (fpList (hostArray t 0) (low (word t 3)))
      exec (.findPrefix r) s = .next (finish t
        (okWith (w64 ids.length) (w64 (ids.getLast?.getD 0).toNat) (w64 ((ids.getLast?.getD 0).toNat / 2 ^ 64)))
        (stampUse c ids s))) ∧
    (Passes 0x29 r s t appendScenesChecks →
      ∃ u s1, openStream s c h = some u ∧
        let w := word t 2
        let m := modelD s u.model
        tailRoom c (scenesBegun (high (word t 1)) (low w) * sceneBytes m) u.tailStage s = some s1 ∧
        let put := appendN m { handle := h, start := high (word t 1), count := low w, fill := bit w 33, byPos := bit w 32,
                               data := hostArray t 0, fps := hostArray t 1,
                               sketch := if bit w 34 then some (hostArray t 2) else none } (low w) 0 0 s1
        exec (.appendScenes r) s = .next (onceRoom t s s1 (finish t
          (if put.2.2.1 then okWith (w64 put.1) (w64 put.2.1.toNat) (w64 (put.2.1.toNat / 2 ^ 64))
           else statusWith (sealStatus h put.2.2.2) (w64 put.1)) put.2.2.2))) ∧
    (Passes 0x2A r s t sealChecks →
      exec (.sealTail r) s = .next (match sealTailOf h s with
        | none => finish t (status (sealStatus h s)) s
        | some (id, s') => finish t (okWith (w64 id.toNat) (w64 (id.toNat / 2 ^ 64)) 0) s')) ∧
    (Passes 0x2B r s t trimChecks →
      let n := high (word t 1)
      exec (.trim r) s = .next (finish t (okWith (w64 n) 0 0) (modStream h (trimTo n)
        (letGo t h (((kget s.store.streams h).map (·.chain.drop (n / 16))).getD []) s))))

/-- Once every check passes, the state left and the completion: PIN, UNPIN, PLACE, MIGRATE, WEIGHTS_LOAD and CLUSTER_LOAD.
`onceRoom` leaves the state as it is while an earlier command holds the room up (R247, R391; notes/assumptions/103.md).
The place of a view, the numbers of a new handle and a new set, and the offset that MIGRATE repeats for an object that stays, are the
model's (notes/assumptions/12.md, 26.md, 46.md, 108.md). -/
def Obligations.PlacementCommandsComplete : Prop :=
  ∀ (r : CmdRef) (s : State) (t : Taken),
    let c := t.company
    let ids := (pinTargets t s).1
    let tier := fld (word t 1) 57 56
    let o := placeObj t s
    let what := (viewOf t o s).1
    let bytes := (viewOf t o s).2
    let window := stageWindow s c tier
    let mapped := fun (v : Viewed) (n : Nat) (u : State) => if bit (word t 1) 48 then mapObject c v n window u else none
    (Passes 0x30 r s t pinChecks →
      exec (.pin r) s = .next (finish t (okWith (w64 ids.length) 0 0) (addPins c ids (· + 1) s))) ∧
    (Passes 0x31 r s t unpinChecks →
      exec (.unpin r) s = .next (finish t (okWith (w64 ids.length) 0 0) (addPins c ids (· - 1) s))) ∧
    (Passes 0x32 r s t placeChecks → o = .create → bit (word t 1) 49 = false →
      ∃ s1, moveRoom t o tier s = some s1 ∧
      let made := newScratch c (word t 2).toNat (tier == 1) s1
      exec (.place r) s = .next (onceRoom t s s1 (match mapped (.scratch made.1) (word t 2).toNat made.2 with
        | some (off, s') => finish t (okWith (w64 made.1) (w64 off) 0) s'
        | none => finish t (okWith (w64 made.1) 0 0) made.2))) ∧
    (Passes 0x32 r s t placeChecks → bit (word t 1) 49 = true →
      exec (.place r) s = .next (finish t okay
        (modStore (fun x => { x with scratch := kdel x.scratch (low (word t 1)) }) (unmap c what s)))) ∧
    (Passes 0x32 r s t placeChecks → o ≠ .create → bit (word t 1) 49 = false → moveLost t o tier s = none →
      ∃ s1, moveRoom t o tier s = some s1 ∧
      let moved := moveObj t o tier true s1
      exec (.place r) s = .next (onceRoom t s s1 (match mapped what bytes moved with
        | some (off, s') => finishMove t o (okWith 0 (w64 off) 0) s'
        | none => finishMove t o okay (unmap c what moved)))) ∧
    (Passes 0x33 r s t migrateChecks → moveLost t o tier s = none →
      ∃ s1, moveRoom t o tier s = some s1 ∧
      let moved := moveObj t o tier false s1
      let shown := if movesHome o tier then (remap c what (tier == 1) moved).getD (0, moved) else (0, moved)
      exec (.migrate r) s = .next (onceRoom t s s1 (finishMove t o (okWith 0 (w64 shown.1) 0) shown.2))) ∧
    (∀ p : PageRef, moveLost t o tier s = some p →
      (Passes 0x32 r s t placeChecks → bit (word t 1) 49 = false → exec (.place r) s = .next (failMove t 0x502 p s)) ∧
      (Passes 0x33 r s t migrateChecks → exec (.migrate r) s = .next (failMove t 0x502 p s))) ∧
    (Passes 0x48 r s t weightsLoadChecks → fld (word t 2) 10 0 = 0 →
      let name := (word t 1).toNat
      exec (.weightsLoad r) s = .next (holdFor (.weightsRemove c name) t okay (freeSets (unmap c (.weights name)
        { s with store := { s.store with weights := s.store.weights.map fun w =>
            if w.company == c && w.name == name && !w.pending then { w with old := true } else w } })))) ∧
    (Passes 0x48 r s t weightsLoadChecks → fld (word t 2) 10 0 ≠ 0 →
      let n := fld (word t 2) 10 0
      let sizes := layerSizes (hostArray t 0) n
      ∃ s1, weightsRoom c sizes.sum s = some s1 ∧
        let k := freeSet s1
        let w : Weights := { company := c, name := (word t 1).toNat, layers := splitLayers sizes 0 (hostArray t 1)
                             wings := pagesOf n true, stage := pagesOf n false, loft := pagesOf n false, placed := none
                             retired := false, setNum := k, madeBy := t.seq, pending := true, old := false }
        let s2 := modStore (fun st => { st with weights := st.weights ++ [w] }) s1
        exec (.weightsLoad r) s = .next (onceRoom t s s1 (setRunning t.seq (startItem .writeBack c none k sizes.sum
          ((upto n).flatMap fun l => pageFeet s2 c (.weights k l)) s2)))) ∧
    (Passes 0x60 r s t clusterLoadChecks →
      exec (.clusterLoad r) s = .next (finish t okay (modCompany c (fun x => { x with
        programs := kset x.programs (fld (word t 1) 3 0) (slice (hostArray t 0) 0 (fld (word t 1) 48 32)) }) s)))

/-- Once every check passes, the state left and the completion: CUE, DELIVER, CANCEL_CUE, WEIGHTS_STREAM, XFER and ATOMIC.
Which times of a command PTM must be valid for, and the bitmap of a CUE cancelled before it runs, are the model's reading
(notes/assumptions/36.md, 37.md). -/
def Obligations.DeliveryCommandsComplete : Prop :=
  ∀ (r : CmdRef) (s : State) (t : Taken),
    let entries := (parseList t s).entries
    let retiredItem := indexWhere (fun i : CueItem => isRetired s t.company i.scene) (entries.flatMap entryItems)
    (∀ isCue : Bool, Passes (if isCue then 0x38 else 0x39) r s t (runCueChecks isCue) →
      (bit (word t 2) 50 = true ∨ t.cancelled = true ∨ retiredItem = none) →
      let op := cueOpOf isCue t s
      exec (if isCue then .cue r else .deliver r) s = .next (progressCues (stageItems t op
        (modWork (fun w => { w with cues := w.cues ++ [op] }) (setRunning t.seq (translateCue t entries s)))))) ∧
    (Passes 0x3A r s t cancelCueChecks →
      exec (.cancelCue r) s = .next (match cueNamed s (fld (word t 1) 43 32) (fld (word t 1) 15 0) with
        | none => finish t okay s
        | some u => finish t (okWith 1 0 0)
          (if u.running then
            progressCue u.seq (missItems u.seq (fun _ => true) (modCue u.seq (fun o => { o with cancelled := true }) s))
           else { s with taken := s.taken.map fun v => if v.seq == u.seq then { v with cancelled := true } else v }))) ∧
    (Passes 0x49 r s t weightsStreamChecks →
      ((setNamed t s (word t 1).toNat).map (·.retired)).getD false = false →
      exec (.weightsStream r) s = .next (progressStream t.seq
        (modWork (fun x => { x with wstreams := x.wstreams ++ [streamOpOf t s] }) (setRunning t.seq s)))) ∧
    (Passes 0x58 r s t xferChecks → exec (.xfer r) s = .next (beginNet t (netXferOp t s) s)) ∧
    (Passes 0x59 r s t atomicChecks → exec (.atomic r) s = .next (beginNet t (netAtomicOp t s) s))

/-- Once every check passes, the state left and the completion: ATTEND, ATTEND_SPARSE, SKETCH_QUERY, CLUSTER_RUN and CLUSTER_HALT.
What 'at intake' means of a cutoff that has passed is the model's reading (notes/assumptions/124.md). -/
def Obligations.ComputeCommandsComplete : Prop :=
  ∀ (r : CmdRef) (s : State) (t : Taken),
    (Passes 0x40 r s t (runAttendChecks false) → 4 * attendNeed t s ≤ 5 * t.budget →
      exec (.attend r) s = .next ((upto (fld (word t 1) 31 16)).foldl (fun u i => meetRow t t.seq i u)
        (beginAttend t (attendOp false t s) s))) ∧
    (Passes 0x41 r s t (runAttendChecks true) → 4 * attendNeed t s ≤ 5 * t.budget →
      exec (.attendSparse r) s = .next (beginAttend t (attendOp true t s) s)) ∧
    (Passes 0x42 r s t sketchQueryChecks →
      exec (.sketchQuery r) s = .next
        (if pageCount (sketchOpOf t s).rows == 0 then finish t okay s
         else modWork (fun w => { w with sketches := w.sketches ++ [sketchOpOf t s] }) (setRunning t.seq s))) ∧
    (Passes 0x61 r s t clusterRunChecks →
      exec (.clusterRun r) s = .next (setRunning t.seq (takeReads t.seq (runScenes (runOpOf t s).bufs)
        (modWork (fun w => { w with runs := w.runs ++ [runOpOf t s] }) s)))) ∧
    (Passes 0x62 r s t clusterHaltChecks →
      exec (.clusterHalt r) s = .next
        (match (s.taken.find? fun u => u.queue == fld (word t 1) 43 32 && u.tag == fld (word t 1) 15 0).filter
            fun u => u.opcode == 0x61 with
         | none => finish t okay s
         | some u => finish t (okWith 1 0 0) (match runOf s u.seq with
           | none => finishCore u (status 2) s
           | some op =>
             if op.started.isNone then
               finishCore u (status 2) (modWork (fun w => { w with runs := w.runs.filter (·.seq != u.seq) }) s)
             else haltRun u.seq (modRun u.seq (fun o => { o with halted := true }) s))))

/-- Once every check passes, the state left and the completion: QUEUE_CREATE, QUEUE_DELETE, QUEUE_FLUSH and QUEUE_WAIT.
`onceRoom` leaves the state as it is while an earlier command holds the room up (R247, R391; notes/assumptions/103.md). -/
def Obligations.QueueCommandsComplete : Prop :=
  ∀ (r : CmdRef) (s : State) (t : Taken),
    let y := fld (word t 1) 11 0
    (Passes 0x50 r s t queueCreateChecks →
      ∃ s1, (if t.company = 0 then s1 = s else makeRoom .wings t.company overflowBytes s = some s1) ∧
        exec (.queueCreate r) s = .next (onceRoom t s s1 (finish t okay
          { s1 with queues := kset s1.queues (createArgs t).num (newQueue t (createArgs t) s1) }))) ∧
    (Passes 0x51 r s t queueDeleteChecks →
      let gone := flushQueue y 0x601 t.seq (modQueue y (fun q => { q with deleting := some t.seq }) (setRunning t.seq s))
      exec (.queueDelete r) s = .next (settle (modWork (fun w => { w with
        drains := kset w.drains t.seq (okWith (w64 gone.2.1) (w64 gone.2.2) 0) }) gone.1))) ∧
    (Passes 0x52 r s t queueFlushChecks →
      let gone := flushQueue y 0x601 t.seq (setRunning t.seq s)
      exec (.queueFlush r) s = .next (settle (modWork (fun w => { w with
        drains := kset w.drains t.seq
          (okWith (w64 gone.2.1) (w64 (((queue gone.1 y).map (·.head)).getD 0)) (w64 gone.2.2)) }) gone.1))) ∧
    (Passes 0x53 r s t queueWaitChecks →
      let limit := (word t 3).toNat
      exec (.queueWait r) s = .next (settle (modQueue t.queue (fun q => { q with wait := some {
        tag := t.tag, target := y, count := (word t 2).toNat
        until_ := if limit == 0 then none else some (t.time + limit)
        abort := bit (word t 1) 32, since := t.time, posts := true } }) (setRunning t.seq s))))

/-- Once every check passes, the state left and the completion: SCRUB_NOW, REPAIR, SELFTEST, FW_DOWNLOAD and FW_COMMIT.
The results of REPAIR where its entry is brief, CAPACITY of kind 1, and the way in which FW_COMMIT action 2 shuts down, are the model's
reading (notes/assumptions/86.md, 119.md, 120.md). -/
def Obligations.MaintenanceCommandsComplete : Prop :=
  ∀ (r : CmdRef) (o : MaintOutcome) (s : State) (t : Taken),
    (Passes 0x78 r s t scrubChecks →
      let l := namedBlocks s (fld (word t 1) 9 0) (fld (word t 1) 26 16)
      let pass := scrubPass o l s
      exec (.scrubNow r o) s = .next (endRivals t scrubChecks (finish t
        (okWith (w64 l.length) (w64 pass.1) (w64 pass.2.1)) pass.2.2))) ∧
    (Passes 0x79 r s t repairChecks →
      let kind := fld (word t 1) 3 0
      let v := (word t 2).toNat
      exec (.repair r o) s = .next
        (if kind == 0 then (if clusterBusy s v then setRunning t.seq s else repairCluster t v s)
         else if kind == 1 then repairLanes t v o s
         else if kind == 2 then repairWings t v s
         else repairDie t v s)) ∧
    (Passes 0x7A r s t selftestChecks →
      let found := selfTest (fld (word t 1) 3 0) o s
      exec (.selftest r o) s = .next (endRivals t selftestChecks
        (finish t (okWith (w64 found.1) (w64 found.2.1) 0) found.2.2))) ∧
    (Passes 0x7C r s t fwDownloadChecks →
      let put : FwSlot → FwSlot := fun f =>
        { f with image := f.image.writes (word t 2).toNat (hostArray t 0), state := 0 }
      exec (.fwDownload r) s =
        .next (finish t okay { s with fw := kmodD s.fw (fld (word t 1) 0 0) FwSlot.fresh put })) ∧
    (Passes 0x7D r s t fwCommitChecks →
      let slot := fld (word t 1) 0 0
      let action := fld (word t 1) 9 8
      let s1 := recordVerdict slot 0 s
      let s2 := finish t okay (if action == 0 then s1 else { s1 with flash := { s1.flash with activeSlot := slot == 1 } })
      (slotVerdict s slot = 0 → (action = 0 ∨ s.lock.fw = false) → exec (.fwCommit r) s = .next
        (if action == 2 then { s2 with dev := { s2.dev with shutdownReq := true, restart := true } } else s2)) ∧
      (slotVerdict s slot = 0 → action ≠ 0 → s.lock.fw = true → exec (.fwCommit r) s = .next (finish t (status 0x204) s)) ∧
      (slotVerdict s slot ≠ 0 → exec (.fwCommit r) s
        = .next (finish t (badAt 64 (slotVerdict s slot)) (recordVerdict slot (slotVerdict s slot) s))))

/-! Core instructions. `Issues op c legal regs s x`: the core takes the instruction up and nothing holds it back. -/

/-- R431: s0 reads 0 and p0 reads 1, and writes to either are discarded; any other register of a core that holds 32 reads
what was last written to it, and no write changes another. -/
def Obligations.ZeroRegistersAndWrites : Prop :=
  ∀ (k : Core) (r q : Nat) (v : Word64) (n m : Nat) (b : Bool),
    sreg k 0 = 0 ∧ preg k 0 = true ∧ setS 0 v k = k ∧ setP 0 b k = k ∧
    (0 < r → r < k.s.length → sreg (setS r v k) r = v) ∧
    (q ≠ r → sreg (setS r v k) q = sreg k q) ∧
    (0 < n → n < 8 → preg (setP n b k) n = b) ∧
    (m ≠ n → preg (setP n b k) m = preg k m) ∧
    (setS r v k).p = k.p ∧ (setS r v k).pc = k.pc ∧ (setP n b k).s = k.s ∧ (setP n b k).pc = k.pc ∧
    (setS r v k).s.length = k.s.length ∧ Core.fresh.s.length = 32

/-- R434 and R435 over every core instruction: one whose guard is not met changes nothing but the pc, which goes on by 4;
an encoding that is not legal faults with ILLEGAL whatever its guard, once the engine's earlier instructions are done; and an
instruction that finds no running core, or another opcode at the pc, or an unsettled register, changes nothing. -/
def Obligations.GuardsAndIllegalEncodings : Prop :=
  ∀ (i : Instr) (op c : Nat) (legal : Word32 → Bool) (regs : Word32 → List Nat) (s : State) (x : CoreCtx),
    coreInstr i = some (op, c, legal, regs) → c < 160 →
    (running c s = none → exec i s = .next s) ∧
    (running c s = some x → opOf x.w ≠ op → exec i s = .next s) ∧
    (running c s = some x → fetched x = true → opOf x.w = op → x.cl.engQ = [] →
      (legal x.w = false → exec i s = .next (coreFault x 1 0 x.cl.core.pc.toNat s)) ∧
      (legal x.w = true → guardOf x = false →
        exec i s = .next (modCluster x.p (fun cl => { cl with core := { cl.core with pc := cl.core.pc + 4 } }) s)) ∧
      (legal x.w = true → guardOf x = true → (regs x.w).any (fun r => x.cl.core.pendRd.contains r) = true →
        exec i s = .next s))

/-- The arithmetic instructions write rd and go on to pc + 4: ALU by its function table (R437), ADDI, ANDI, ORI, XORI, SHI,
MOVI, and LDPC within the 64 KiB of instruction memory. -/
def Obligations.ArithmeticWritesRd : Prop :=
  ∀ (c : Nat) (s : State) (x : CoreCtx),
    let w := x.w
    let a := sreg x.cl.core (raOf w)
    let b := sreg x.cl.core (rbOf w)
    let gives := fun (i : Instr) (v : Word64) => exec i s = .next (modCluster x.p
      (fun cl => { cl with core := { setS (rdOf w) v cl.core with pc := cl.core.pc + 4 } }) s)
    (Issues 0x00 c aluLegal regsR s x → gives (.alu c) (aluFn (fnOf w) a b)) ∧
    (Issues 0x01 c always regsI s x → gives (.addi c) (a + sext 12 (fw w 11 0))) ∧
    (Issues 0x02 c always regsI s x → gives (.andi c) (a &&& w64 (fw w 11 0))) ∧
    (Issues 0x03 c always regsI s x → gives (.ori c) (a ||| w64 (fw w 11 0))) ∧
    (Issues 0x04 c always regsI s x → gives (.xori c) (a ^^^ w64 (fw w 11 0))) ∧
    (Issues 0x05 c shiLegal regsI s x → gives (.shi c)
      (if fw w 7 6 = 0 then a <<< fw w 5 0 else if fw w 7 6 = 1 then a >>> fw w 5 0 else a.sshiftRight (fw w 5 0))) ∧
    (Issues 0x06 c always (fun w => [rdOf w]) s x → gives (.movi c) (sext 17 (fw w 16 0))) ∧
    (Issues 0x07 c always (fun w => [rdOf w]) s x →
      let at_ := (w64 (x.cl.core.pc.toNat / 8 * 8) + 8 * sext 17 (fw w 16 0)).toNat
      at_ < 65536 → gives (.ldpc c false) (imemWord x.cl at_))

/-- R437: division never faults; by zero it gives all ones for DIV and DIVU and ra for REM and REMU; -2^63 by -1 gives -2^63
and remainder 0; a function above 0x14 is ILLEGAL. -/
def Obligations.DivisionNeverFaults : Prop :=
  (∀ a : Word64, aluFn 0x0B a 0 = BitVec.allOnes 64 ∧ aluFn 0x0C a 0 = BitVec.allOnes 64 ∧
    aluFn 0x0D a 0 = a ∧ aluFn 0x0E a 0 = a) ∧
  aluFn 0x0B (BitVec.ofInt 64 (-(2 ^ 63))) (BitVec.ofInt 64 (-1)) = BitVec.ofInt 64 (-(2 ^ 63)) ∧
  aluFn 0x0D (BitVec.ofInt 64 (-(2 ^ 63))) (BitVec.ofInt 64 (-1)) = 0 ∧
  (∀ (c : Nat) (s : State) (x : CoreCtx) (fn : Nat), fn ∈ [0x0B, 0x0C, 0x0D, 0x0E] → fnOf x.w = fn →
    Issues 0x00 c aluLegal regsR s x →
    exec (.alu c) s = .next (modCluster x.p (fun cl => { cl with
      core := { setS (rdOf x.w) (aluFn fn (sreg x.cl.core (raOf x.w)) (sreg x.cl.core (rbOf x.w))) cl.core with
                pc := cl.core.pc + 4 } }) s)) ∧
  (∀ (c : Nat) (s : State) (x : CoreCtx), c < 160 → running c s = some x → fetched x = true → opOf x.w = 0x00 →
    x.cl.engQ = [] → 0x14 < fnOf x.w → exec (.alu c) s = .next (coreFault x 1 0 x.cl.core.pc.toNat s))

/-- CMP and CMPI write predicate pd, PRED a predicate, rd (PGET) or all predicates but p0 (PSET), and go on to pc + 4. -/
def Obligations.PredicatesAreWritten : Prop :=
  ∀ (c : Nat) (s : State) (x : CoreCtx),
    let w := x.w
    let k := x.cl.core
    let gives := fun (i : Instr) (f : Core → Core) => exec i s = .next (modCluster x.p
      (fun cl => { cl with core := { f cl.core with pc := cl.core.pc + 4 } }) s)
    (Issues 0x08 c (fun w => decide (fw w 18 16 < 6) && fw w 5 0 == 0) (fun w => [fw w 15 11, fw w 10 6]) s x →
      gives (.cmp c) (setP (fw w 21 19) (ccOf (fw w 18 16) (sreg k (fw w 15 11)) (sreg k (fw w 10 6))))) ∧
    (Issues 0x09 c (fun w => decide (fw w 18 16 < 6)) (fun w => [fw w 15 11]) s x →
      gives (.cmpi c) (setP (fw w 21 19) (ccOf (fw w 18 16) (sreg k (fw w 15 11)) (sext 11 (fw w 10 0))))) ∧
    (Issues 0x0A c predLegal (fun w => if fnOf w == 4 then [rdOf w] else if fnOf w == 5 then [raOf w] else []) s x →
      (fnOf w < 4 → gives (.pred c) (setP (rdOf w) (predFn (fnOf w) (preg k (raOf w)) (preg k (rbOf w))))) ∧
      (fnOf w = 4 → gives (.pred c) (setS (rdOf w) (w64 (predByte k)))) ∧
      (fnOf w = 5 → gives (.pred c) (fun q => { q with p := (sreg q (raOf w)).truncate 8 &&& 0xFE })))

/-- R441: a load of n bytes at a local address below W or in instruction memory, aligned to n and with no error, writes rd with
the number the bytes hold, least significant first, sign-extended for LDW, LDH and LDB; one whose word gives an
uncorrectable error faults with code 10, a misaligned one with ALIGN, and one at any other address with LOCAL_RANGE. -/
def Obligations.LoadsReadTheWorkingArea : Prop :=
  ∀ (c op n : Nat) (signed : Bool) (row : Bool → Instr) (s : State) (x : CoreCtx),
    (op, n, signed, row) ∈ [(0x0B, 8, false, Instr.ldd c), (0x0C, 4, true, Instr.ldw c), (0x0D, 4, false, Instr.ldwu c),
      (0x0E, 2, true, Instr.ldh c), (0x0F, 2, false, Instr.ldhu c), (0x10, 1, true, Instr.ldb c),
      (0x11, 1, false, Instr.ldbu c)] →
    Issues op c always regsI s x →
    let a := (sreg x.cl.core (raOf x.w) + sext 12 (fw x.w 11 0)).toNat
    (a % n = 0 → a + n ≤ x.cl.wlimit → storesDone x = true → (∀ k, k < n → landing x.cl (a + k) = false) →
      let v := leNat ((upto n).map fun k => areaByte x.cl (a + k))
      exec (row false) s = .next (modCluster x.p (fun cl => { cl with
        core := { setS (rdOf x.w) (if signed then sext (8 * n) v else w64 v) cl.core with pc := cl.core.pc + 4 } })
        { s with free := s.free + 1 })) ∧
    (a % n = 0 → x.cl.wlimit < a + n → 0x1000000 ≤ a → a + n ≤ 0x1010000 →
      let v := (imemWord x.cl ((a - 0x1000000) / 8 * 8)).toNat / 256 ^ (a % 8) % 256 ^ n
      exec (row false) s = .next (modCluster x.p (fun cl => { cl with
        core := { setS (rdOf x.w) (if signed then sext (8 * n) v else w64 v) cl.core with pc := cl.core.pc + 4 } }) s)) ∧
    (x.cl.engQ = [] → a % n = 0 → storesDone x = true →
      (a + n ≤ x.cl.wlimit ∨ (0x1000000 ≤ a ∧ a + n ≤ 0x1010000)) →
      exec (row true) s = .next (coreFault x 10 0 x.cl.core.pc.toNat s)) ∧
    (∀ e, x.cl.engQ = [] → a % n ≠ 0 → exec (row e) s = .next (coreFault x 3 0 x.cl.core.pc.toNat s)) ∧
    (∀ e, x.cl.engQ = [] → a % n = 0 → x.cl.wlimit < a + n → (a < 0x1000000 ∨ 0x1010000 < a + n) →
      exec (row e) s = .next (coreFault x 5 0 x.cl.core.pc.toNat s))

/-- R441: a store of n bytes below W, aligned to n, puts the low bytes of rd at the address, least significant first, and goes on
to pc + 4; a misaligned one faults with ALIGN, one that does not end below W with LOCAL_RANGE. Whenever a next state comes,
every byte of every working area outside the n bytes at the address that the instruction computes reads as before, and so
does every scratch object and coherent window. (That the working area lists rising addresses is the invariant
StepsKeepShape.) -/
def Obligations.StoresWriteTheWorkingArea : Prop :=
  (∀ (c op n : Nat) (row : Instr) (s : State) (x : CoreCtx),
     (op, n, row) ∈ [(0x12, 8, Instr.std c), (0x13, 4, Instr.stw c), (0x14, 2, Instr.sth c), (0x15, 1, Instr.stb c)] →
     Issues op c always regsI s x →
     let a := (sreg x.cl.core (raOf x.w) + sext 12 (fw x.w 11 0)).toNat
     (x.cl.engQ = [] → a % n ≠ 0 → exec row s = .next (coreFault x 3 0 x.cl.core.pc.toNat s)) ∧
     (x.cl.engQ = [] → a % n = 0 → x.cl.wlimit < a + n → exec row s = .next (coreFault x 5 0 x.cl.core.pc.toNat s)) ∧
     (rising x.cl.work = true → a % n = 0 → a + n ≤ x.cl.wlimit → storesDone x = true →
     ∃ t, exec row s = .next t ∧
       (cluster t x.p).core = { x.cl.core with pc := x.cl.core.pc + 4 } ∧
       (∀ k, k < n → areaByte (cluster t x.p) (a + k)
         = BitVec.ofNat 8 ((sreg x.cl.core (rdOf x.w)).toNat / 256 ^ k)) ∧
       (∀ b, (b < a ∨ a + n ≤ b) → areaByte (cluster t x.p) b = areaByte x.cl b) ∧
       (∀ p, p ≠ x.p → cluster t p = cluster s p) ∧
       { t with clusters := s.clusters } = s)) ∧
  ∀ (c op n : Nat) (row : Instr) (s t : State),
    (op, n, row) ∈ [(0x12, 8, Instr.std c), (0x13, 4, Instr.stw c), (0x14, 2, Instr.sth c), (0x15, 1, Instr.stb c)] →
    exec row s = .next t →
    t.store = s.store ∧ t.coherent = s.coherent ∧ t.fw = s.fw ∧
    ∀ p b, (∀ x, running c s = some x → p = x.p →
        let a := (sreg x.cl.core (raOf x.w) + sext 12 (fw x.w 11 0)).toNat
        b < a ∨ a + n ≤ b) →
      areaByte (cluster t p) b = areaByte (cluster s p) b

/-- The frame of the instructions that stay in a core (arithmetic, predicates, loads, branches, CSRR, WAITC, FENCE, HALT,
TRAP and the two exceptions), whenever a next state comes: outside the clusters, only the run's fault record and the number
of the next free value may change; every cluster keeps its working area, transfers, instruction memory, engine state and
counters, and every other cluster its core. -/
def Obligations.CoreInstructionsKeepMemory : Prop :=
  ∀ (i : Instr) (c : Nat) (s t : State), coreOnly i = some c → exec i s = .next t →
    { t with clusters := s.clusters, work := s.work, free := s.free } = s ∧
    { t.work with runs := s.work.runs } = s.work ∧
    ∀ p, (cluster t p).work = (cluster s p).work ∧ (cluster t p).workFree = (cluster s p).workFree ∧
      (cluster t p).xfers = (cluster s p).xfers ∧ (cluster t p).imem = (cluster s p).imem ∧
      (cluster t p).eng = (cluster s p).eng ∧ (cluster t p).core.cnt = (cluster s p).core.cnt ∧
      (cluster t p).core.mbx = (cluster s p).core.mbx ∧
      (physOf s c ≠ some p → (cluster t p).core = (cluster s p).core)

/-- BR goes to pc + 4 × off22, CALL as well with the return address in s31, JR to ra with the return address in rd, and a
target that is no word faults with ALIGN. FENCE goes on once every earlier mesh, transfer and engine memory instruction has
completed (R515); HALT then ends the cluster's part of the run with its code in CLUS_FAULT.info once the engine's queue is
empty as well (R514); TRAP, an opcode outside the table and a pc outside the image fault with TRAP, ILLEGAL and FETCH (R436,
R468, R469). -/
def Obligations.BranchesFencesAndTraps : Prop :=
  ∀ (c : Nat) (s : State) (x : CoreCtx),
    let w := x.w
    let pc := x.cl.core.pc.toNat
    let target : BitVec 16 := (w64 x.cl.core.pc.toNat + 4 * sext 22 (fw w 21 0)).truncate 16
    let link := fun (k : Core) => w64 (k.pc.toNat + 4)
    (Issues 0x18 c always (fun _ => []) s x →
      exec (.br c) s = .next (modCluster x.p (fun cl => { cl with core := { cl.core with pc := target } }) s)) ∧
    (Issues 0x19 c always (fun _ => [31]) s x →
      exec (.call c) s = .next (modCluster x.p
        (fun cl => { cl with core := { setS 31 (link cl.core) cl.core with pc := target } }) s)) ∧
    (Issues 0x1A c (fun w => fnOf w == 0 && rbOf w == 0) regsI s x →
      let a := sreg x.cl.core (raOf w)
      (a.toNat % 4 = 0 → exec (.jr c) s = .next (modCluster x.p
        (fun cl => { cl with core := { setS (rdOf w) (link cl.core) cl.core with pc := a.truncate 16 } }) s)) ∧
      (a.toNat % 4 ≠ 0 → x.cl.engQ = [] → exec (.jr c) s = .next (coreFault x 3 0 x.cl.core.pc.toNat s))) ∧
    (Issues 0x28 c (fun w => fw w 21 0 == 0) (fun _ => []) s x → fenceClear x s = true →
      exec (.fence c) s = .next (modCluster x.p (fun cl => { cl with core := { cl.core with pc := cl.core.pc + 4 } }) s)) ∧
    (Issues 0x29 c (fun w => fw w 21 12 == 0) (fun _ => []) s x → fenceClear x s = true → x.cl.engQ = [] →
      exec (.halt c) s = .next (modCluster x.p (fun cl => { cl with
        st := 4, faultPc := cl.core.pc, faultInfo := BitVec.ofNat 12 (fw x.w 11 0), faultCode := 0 }) s)) ∧
    (Issues 0x2A c (fun w => fw w 21 12 == 0) (fun _ => []) s x → x.cl.engQ = [] →
      exec (.trap c) s = .next (coreFault x 4 (fw x.w 11 0) pc s)) ∧
    (c < 160 → running c s = some x → fetched x = true → undefinedOp (opOf x.w) = true → x.cl.engQ = [] →
      exec (.illegalInstruction c) s = .next (coreFault x 1 0 pc s)) ∧
    (c < 160 → running c s = some x → fetched x = false → x.cl.engQ = [] →
      exec (.fetchFault c) s = .next (coreFault x 2 0 pc s))

/-- CSRR reads every readable CSR of R442, an engine CSR once the engine's queue is empty. CSRW writes MBX_CFG_k,
CNT_SRC_c (REMOTE for a cluster outside the run, ILLEGAL for 0xA0 to 0xFC: R443), CNT_c and the engine's CSRs. -/
def Obligations.CsrsAreReadAndWritten : Prop :=
  ∀ (c : Nat) (s : State) (x : CoreCtx),
    let n := fw x.w 11 0
    (Issues 0x1C c (fun w => raOf w == 0 && csrReadable (fw w 11 0)) (fun w => [rdOf w]) s x →
      (engineCsr n = true → x.cl.engQ = []) →
      exec (.csrr c) s = .next (ret x (rdOf x.w) (csrRead x n s).1 (csrRead x n s).2)) ∧
    (Issues 0x1D c (fun w => rdOf w == 0 && csrWritable (fw w 11 0)) (fun w => [raOf w]) s x →
      let v := sreg x.cl.core (raOf x.w)
      let b := v.toNat % 256
      let gives := fun (f : Core → Core) => exec (.csrw c) s = .next (modCluster x.p
        (fun cl => { cl with core := { f cl.core with pc := cl.core.pc + 4 } }) s)
      (0x20 ≤ n → n ≤ 0x23 → gives (fun k => { k with mbxCfg := setAt k.mbxCfg (n - 0x20) (v.truncate 5) })) ∧
      (0x30 ≤ n → n ≤ 0x3F → (b < 0xA0 → inRun x.run b = true) → (b < 0xA0 ∨ 0xFC < b) →
        gives (fun k => { k with cntSrc := setAt k.cntSrc (n - 0x30) (v.truncate 8) })) ∧
      (0x30 ≤ n → n ≤ 0x3F → x.cl.engQ = [] → 0xA0 ≤ b → b ≤ 0xFC →
        exec (.csrw c) s = .next (coreFault x 1 0 x.cl.core.pc.toNat s)) ∧
      (0x30 ≤ n → n ≤ 0x3F → x.cl.engQ = [] → b < 0xA0 → inRun x.run b = false →
        exec (.csrw c) s = .next (coreFault x 6 0 x.cl.core.pc.toNat s)) ∧
      (0x100 ≤ n → n ≤ 0x10F → gives (fun k => { k with cnt := setAt k.cnt (n - 0x100) v })) ∧
      (∀ e, 0x200 ≤ n → x.cl.engQ = [] → engCsrWrite x.cl.eng n v = some e →
        exec (.csrw c) s = .next (modCluster x.p (fun cl => { cl with core := { cl.core with pc := cl.core.pc + 4 } })
          (modCluster x.p (fun cl => { cl with eng := e }) s))))

/-- SEND puts the message on the mesh and marks rd as still being written (R448); MAILBOX_ARRIVAL stores it with its source
and acknowledges OK, or MBX_FULL at 16 messages, or FLUSHED after a flush (R448, R450, R566); SEND_ACK writes the status
into rd; RECV takes the oldest message, or writes 0 (R450). -/
def Obligations.MailboxesDeliver : Prop :=
  ∀ (c : Nat) (s : State) (x : CoreCtx),
    (Issues 0x20 c always regsR s x →
      let d := sreg x.cl.core (raOf x.w)
      let src := (sreg x.cl.core (rbOf x.w)).toNat
      let n := fld d 24 16
      src % 8 = 0 → src + n ≤ x.cl.wlimit → inRun x.run (fld d 7 0) = true → 1 ≤ n → n ≤ 256 → storesDone x = true →
      ∃ t, exec (.send c) s = .next t ∧
        t.work.mesh = s.work.mesh ++ [.mail c (fld d 7 0) (fld d 9 8) (areaLoad x.cl s.free src n) (rdOf x.w)]) ∧
    (∀ (dst m : Nat) (data : List Byte) (rd : Nat) (rest : List MeshItem),
      c < 160 → dst < 160 → m < 4 → clusterIn dst s = some x →
      takeItem (fun i => match i with | .mail a b k _ _ => a == c && b == dst && k == m | _ => false) s.work.mesh
        = some (.mail c dst m data rd, rest) →
      ∃ t, exec (.mailboxArrival c dst m) s = .next t ∧
        let st := if (x.cl.core.flushed.getD m []).contains c then 2
                  else if 16 ≤ (x.cl.core.mbx.getD m []).length then 1 else 0
        t.work.mesh = rest ++ [.ack c dst m rd st] ∧
        (cluster t x.p).core.mbx
          = if st = 0 then modAt x.cl.core.mbx m (fun l => l ++ [{ src := c, data := data }]) else x.cl.core.mbx) ∧
    (∀ (a dst m rd st : Nat) (rest : List MeshItem), c < 160 → clusterIn c s = some x →
      takeItem (fun i => match i with | .ack a _ _ _ _ => a == c | _ => false) s.work.mesh
        = some (.ack a dst m rd st, rest) →
      exec (.sendAck c) s = .next (modCluster x.p (fun cl => { cl with
          core := { setS rd (w64 st) cl.core with pendRd := cl.core.pendRd.erase rd } })
        { s with work := { s.work with mesh := rest } })) ∧
    (Issues 0x21 c (fun w => raOf w == 0) (fun w => [rdOf w, rbOf w]) s x →
      let m := fnOf x.w % 4
      let a := (sreg x.cl.core (rbOf x.w)).toNat
      a % 8 = 0 →
      (x.cl.core.mbx.getD m [] = [] → exec (.recv c) s = .next (ret x (rdOf x.w) 0 s)) ∧
      (∀ g r, x.cl.core.mbx.getD m [] = g :: r → a + g.data.length ≤ x.cl.wlimit → storesDone x = true →
        exec (.recv c) s = .next (ret x (rdOf x.w) (w64 (g.src * 65536 + g.data.length))
          (setCore x (fun k => { k with mbx := setAt k.mbx m r }) (modCluster x.p (areaStore a g.data) s)))))

/-- PUT, GET, MOVE and PAGE that pass their checks at issue (R452, R453, R458, R459) become transfers of the cluster. A transfer
that has not failed lands (R444, R454, R457 to R459): a PUT in the target's working area, a GET, an inbound MOVE or a PAGE in
the cluster's own, an outbound MOVE in its buffer; then its counter goes up by 1 and it is gone. A PAGE, and an inbound MOVE of a
weight set, lands only when its pages are in Stage or Wings. -/
def Obligations.TransfersAreIssuedAndLand : Prop :=
  (∀ (c : Nat) (s : State) (x : CoreCtx),
     let far := sreg x.cl.core (raOf x.w)
     let here := (sreg x.cl.core (rbOf x.w)).toNat
     let n := (sreg x.cl.core (rdOf x.w)).toNat
     let issued := fun (i : Instr) (kind : XferKind) (len off : Nat) => ∃ t u, exec i s = .next t ∧
       (cluster t x.p).xfers = x.cl.xfers ++ [u] ∧ u.id = x.cl.issued ∧ u.kind = kind ∧ u.here = here ∧ u.len = len ∧
       u.peer = fld far 63 56 ∧ u.offset = off ∧ u.counter = fnOf x.w % 16 ∧
       (cluster t x.p).core = { x.cl.core with pc := x.cl.core.pc + 4 } ∧ (cluster t x.p).work = x.cl.work
     (∀ put : Bool, Issues (if put then 0x22 else 0x23) c always regsR s x → xferAlign far.toNat here n = true →
       here + n ≤ x.cl.wlimit → inRun x.run (fld far 63 56) = true → fld far 55 0 + n ≤ x.cl.wlimit →
       storesDone x = true →
       issued (if put then .put c else .get c) (if put then .put else .get) n (fld far 55 0)) ∧
     (∀ g, Issues 0x26 c always regsR s x → xferAlign far.toNat here n = true → here + n ≤ x.cl.wlimit →
       x.run.bufs[fld far 63 56]? = some g → fld far 55 0 + n ≤ bufLength g s →
       (if bit x.w 4 then g.write else g.read) = true → storesDone x = true →
       (bit x.w 4 = false → lostMove x.run.company (pagesMoved g (fld far 55 0) n s) s = false) →
       issued (.move c) (if bit x.w 4 then .moveOut else .moveIn) n (fld far 55 0)) ∧
     (∀ g, Issues 0x27 c always regsR s x → here % 64 = 0 → x.run.bufs[fld far 63 56]? = some g → g.kind = 4 →
       here + footprint (modelD s g.model) ≤ x.cl.wlimit → fld far 31 0 < 16 * g.chain.length →
       n < (modelD s g.model).layers →
       ((findScene s x.run.company (g.chain.getD (fld far 31 0 / 16) 0)).map (·.retired)) = some false →
       storesDone x = true →
       issued (.page c) .page (footprint (modelD s g.model)) (fld far 31 0))) ∧
  ∀ (c id : Nat) (data : List Byte) (s : State) (x : CoreCtx) (u : Transfer),
    c < 160 → clusterIn c s = some x → x.cl.xfers.find? (·.id == id) = some u → u.failed = none →
    let done := exec (.transferComplete c id data false) s
    (∀ y, u.kind = .put → clusterIn u.peer s = some y →
      done = .next (bump (if u.atTarget then y.p else x.p) u.counter 1
        (modCluster y.p (areaStore u.offset (sentBytes u s.free)) (spend (dropXfer x u.id s))))) ∧
    (∀ y, u.kind = .get → clusterIn u.peer s = some y →
      done = .next (landHere x u (areaLoad y.cl s.free u.offset u.len) (spend s))) ∧
    (∀ b, u.kind = .moveOut → x.run.bufs[u.peer]? = some b →
      done = .next (bump x.p u.counter 1 (spend (bufWrite x.run b u.offset (sentBytes u s.free) (dropXfer x u.id s))))) ∧
    (∀ b, u.kind = .moveIn → x.run.bufs[u.peer]? = some b →
      (b.kind = 1 → data.length = u.len → done = .next (landHere x u data s)) ∧
      (b.kind ≠ 1 → (b.kind = 3 → scratchPoisoned b.addr u.offset u.len s = false) →
        (pagesMoved b u.offset u.len s).all (pageReady s x.run.company) = true →
        done = .next (landHere x u (bufRead b u.offset u.len s) s))) ∧
    (u.kind = .page → pageReady s x.run.company (.scene u.scene u.layer) = true →
      done = .next (landHere x u (pageBytes s x.run.company u.scene u.layer) s))

/-- R444 to R446, R455: SIG sends a signal, which once the PUTs before it have landed adds to its counter; WAITC goes on at
once with MET when the counter is at least the goal, and otherwise waits; a rise of the counter to the goal ends the wait
with MET, the time limit with TIMEOUT. -/
def Obligations.CountersSignalAndWait : Prop :=
  ∀ (c : Nat) (s : State) (x : CoreCtx),
    (Issues 0x24 c (fun w => rdOf w == 0) (fun w => [raOf w, rbOf w]) s x →
      let dst := (sreg x.cl.core (raOf x.w)).toNat
      dst < 160 → inRun x.run dst = true →
      exec (.sig c) s = .next (sendItem (.signal c dst (fnOf x.w % 16) (sreg x.cl.core (rbOf x.w)) x.cl.issued)
        (setCore x nextPc s))) ∧
    (∀ (dst k upTo : Nat) (v : Word64) (rest : List MeshItem), c < 160 → dst < 160 → clusterIn dst s = some x →
      takeItem (fun i => match i with | .signal a b _ _ _ => a == c && b == dst | _ => false) s.work.mesh
        = some (.signal c dst k v upTo, rest) → putsLanded s c x upTo = true →
      exec (.signalArrival c dst) s = .next (bump x.p k v { s with work := { s.work with mesh := rest } })) ∧
    (Issues 0x25 c always regsR s x →
      let k := fnOf x.w % 16
      let goal := sreg x.cl.core (raOf x.w)
      let lim := (sreg x.cl.core (rbOf x.w)).toNat
      (goal.toNat ≤ (x.cl.core.cnt.getD k 0).toNat → exec (.waitc c) s = .next (ret x (rdOf x.w) 0 s)) ∧
      ((x.cl.core.cnt.getD k 0).toNat < goal.toNat →
        exec (.waitc c) s = .next (modCluster x.p (fun cl => { cl with
          st := 3, waitCnt := BitVec.ofNat 4 k
          core := { cl.core with waitFor := goal, waitRd := rdOf x.w, waitAt := now s,
                                 waitUntil := if lim == 0 then none else some (now s + lim) } }) s))) ∧
    (∀ (p k : Nat) (v : Word64), let cl := cluster s p
      k < cl.core.cnt.length →
      (cluster (bump p k v s) p).core.cnt.getD k 0 = cl.core.cnt.getD k 0 + v ∧
      ((cluster (bump p k v s) p).st ≠ cl.st ↔
        cl.st = 3 ∧ cl.waitCnt.toNat = k ∧ cl.core.waitFor.toNat ≤ (cl.core.cnt.getD k 0 + v).toNat)) ∧
    (∀ d, c < 160 → clusterIn c s = some x → x.cl.core.waitUntil = some d → x.cl.st = 3 → d ≤ now s →
      exec (.waitcTimeout c) s = .next (modCluster x.p (fun cl => { cl with
        st := 2, core := nextPc (setS cl.core.waitRd 1 cl.core) }) s))

/-- R468: a fault changes no register, predicate, counter or memory byte. The faulting core stops, its CLUS_STATE.state reads
5 and CLUS_FAULT holds pc, info and code; its queued engine instructions are gone; the run keeps its first fault, of two in one instant that of the lower cluster (R478); every
other running or waiting cluster of the run is halted (R464), and clusters of no part of the run stay as they are. -/
def Obligations.FaultsArePrecise : Prop :=
  ∀ (c code info pc : Nat) (s : State) (x : CoreCtx), clusterIn c s = some x →
    let t := coreFault x code info pc s
    (cluster t x.p).st = 5 ∧ (cluster t x.p).faultPc = BitVec.ofNat 16 pc ∧
    (cluster t x.p).faultInfo = BitVec.ofNat 12 info ∧ (cluster t x.p).faultCode = BitVec.ofNat 8 code ∧
    (cluster t x.p).engQ = [] ∧
    (∀ p, (cluster t p).core = (cluster s p).core ∧ (cluster t p).eng = (cluster s p).eng ∧
      (cluster t p).work = (cluster s p).work ∧ (cluster t p).xfers = (cluster s p).xfers) ∧
    (∀ p, p ≠ x.p → (cluster s p).run = some x.run.seq → ((cluster s p).st = 2 ∨ (cluster s p).st = 3) →
      (cluster t p).st = 4) ∧
    (∀ p, p ≠ x.p → (cluster s p).run ≠ some x.run.seq → cluster t p = cluster s p) ∧
    (∃ r, runOf t x.run.seq = some r ∧
      (x.run.fault = none → r.fault = some (now s, x.c, code, pc, info)) ∧
      ∀ g, x.run.fault = some g →
        r.fault = some (if g.1 = now s ∧ x.c < g.2.1 then (now s, x.c, code, pc, info) else g)) ∧
    t.store = s.store ∧ t.coherent = s.coherent ∧ t.work.mesh = s.work.mesh

/-! Engine instructions, runs and clusters. `EngIssues`: as `Issues`, with a place in the engine's queue. -/

/-- VSETVL, and the instructions whose result is one vector register (VOP, VOPS, VUN, VCHAIN, VLANE, and VMISC's insert and
broadcast), enter the engine's queue with that result in shadow state: lanes outside the active ones keep what they held, and
no fault, store or scalar result comes with it (VSETVL's scalar result is the new VL). VCMP and VMISC's mask functions replace
the bits of a mask register that they compute and keep its others; VMISC counts and finds mask bits and reads an element into
rd; VSCAN scans or reduces the first VL lanes, and with VL 0 changes nothing. -/
def Obligations.VectorInstructionsQueueTheirResult : Prop :=
  ∀ (c : Nat) (s : State) (x : CoreCtx),
    let w := x.w
    let e := shadow x.cl
    let vd := vreg e (rdOf w)
    let on := active e (fw w 6 4)
    let fn := fw w 3 0
    let gives := fun (i : Instr) (r : VReg × Nat) => exec i s = .next (queued x (entryOf (setV (rdOf w) r.1 e) r.2) s)
    (EngIssues 0x30 c (fun w => decide (fw w 11 9 < 5) && fw w 8 0 == 0) (fun w => [rdOf w, raOf w]) s x →
      let n := min (sreg x.cl.core (raOf w)).toNat (vlmax (fw w 11 9))
      exec (.vsetvl c) s = .next (queued x { entryOf { e with etype := fw w 11 9, vl := n } 0 with
        rd := some (rdOf w, w64 n) } s)) ∧
    (EngIssues 0x31 c (fun w => decide (fw w 3 0 < 14)) noRegs s x → vopIllegal e (fw w 3 0) = false → fw w 3 0 ≠ 13 →
      gives (.vop c) (mapElems (ew e) on vd fun i =>
        laneFn e (fw w 3 0) (elemAt (ew e) (vreg e (raOf w)) i) (elemAt (ew e) (vreg e (rbOf w)) i) (elemAt (ew e) vd i))) ∧
    (EngIssues 0x31 c (fun w => decide (fw w 3 0 < 14)) noRegs s x → fw w 3 0 = 13 →
      gives (.vop c) ((mapElems (ew e) (fun i => decide (i < e.vl)) vd fun i =>
        (copyElem e (elemAt (ew e) (vreg e (if bit (mreg e (fw w 6 4)) i then raOf w else rbOf w)) i), 0)).1, 0)) ∧
    (EngIssues 0x32 c (fun w => decide (fw w 3 0 < 14)) (fun w => [rbOf w]) s x → vopIllegal e (fw w 3 0) = false →
      fw w 3 0 ≠ 13 →
      let b := scalarIn e (sreg x.cl.core (rbOf w))
      let r := mapElems (ew e) on vd fun i =>
        laneFn e (fw w 3 0) (elemAt (ew e) (vreg e (raOf w)) i) b.1 (elemAt (ew e) vd i)
      gives (.vops c) (r.1, r.2 ||| (if (upto e.vl).any on then b.2 else 0))) ∧
    (EngIssues 0x33 c vunLegal noRegs s x → (isFp e = true ∨ fw w 3 0 < 3 ∨ 6 < fw w 3 0) →
      gives (.vun c) (mapElems (ew e) on vd fun i =>
        unFn e (fw w 3 0) (fw w 10 7) (s.free + 1) i (elemAt (ew e) (vreg e (raOf w)) i))) ∧
    (EngIssues 0x35 c vmiscLegal vmiscRegs s x → fw w 3 0 = 8 →
      gives (.vmisc c) (mapElems (ew e) on vd fun _ => scalarIn e (sreg x.cl.core (raOf w)))) ∧
    (EngIssues 0x35 c vmiscLegal vmiscRegs s x → fw w 3 0 = 7 →
      let i := (sreg x.cl.core (rbOf w)).toNat
      i < vlmax e.etype →
      gives (.vmisc c) (mapElems (ew e) (· == i) vd fun _ => scalarIn e (sreg x.cl.core (raOf w)))) ∧
    (EngIssues 0x3E c (fun w => !bit w 0) noRegs s x → chainCount e (fw w 3 1) ≤ 8 →
      (chainStages e (fw w 3 1)).all stageLegal = true →
      gives (.vchain c) (mapElems (ew e) on vd (chainElem e (s.free + 1) w))) ∧
    (EngIssues 0x3F c (fun w => fw w 1 0 == 0) noRegs s x → laneCount e (fw w 3 2) ≤ 32 →
      (laneProgram e (fw w 3 2)).all laneLegal = true →
      gives (.vlane c) (mapElems (ew e) on vd (laneElem e (s.free + 1) w))) ∧
    (EngIssues 0x34 c (fun w => decide (fw w 18 16 < 6) && fw w 1 0 == 0)
        (fun w => if bit w 5 then [fw w 10 6] else []) s x →
      ∃ fl, exec (.vcmp c) s = .next (queued x (entryOf (setM (fw w 21 19)
        (mapMask (active e (fw w 4 2)) (mreg e (fw w 21 19)) fun i =>
          (cmpElem e (fw w 18 16) (elemAt (ew e) (vreg e (fw w 15 11)) i)
            (if bit w 5 then (scalarIn e (sreg x.cl.core (fw w 10 6))).1
             else elemAt (ew e) (vreg e (fw w 10 6)) i)).1) e) fl) s)) ∧
    (EngIssues 0x35 c vmiscLegal vmiscRegs s x →
      let ma := mreg e (raOf w)
      let i := (sreg x.cl.core (rbOf w)).toNat
      (fn ≤ 3 → exec (.vmisc c) s = .next (queued x (entryOf (setM (rdOf w) (mapMask (fun i => decide (i < e.vl))
        (mreg e (rdOf w)) fun i => predFn fn (bit ma i) (bit (mreg e (rbOf w)) i)) e) 0) s)) ∧
      (fn = 4 → exec (.vmisc c) s = .next (queued x { entryOf e 0 with
        rd := some (rdOf w, w64 ((upto e.vl).filter (bit ma)).length) } s)) ∧
      (fn = 5 → exec (.vmisc c) s = .next (queued x { entryOf e 0 with
        rd := some (rdOf w, (((upto e.vl).find? (bit ma)).map w64).getD (BitVec.allOnes 64)) } s)) ∧
      (fn = 6 → i < vlmax e.etype →
        let r := scalarOut e (elemAt (ew e) (vreg e (raOf w)) i)
        exec (.vmisc c) s = .next (queued x { entryOf e r.2 with rd := some (rdOf w, r.1) } s))) ∧
    (EngIssues 0x38 c (fun w => decide (fw w 3 0 < 7) && rbOf w == 0) noRegs s x →
      exec (.vscan c) s = .next (queued x
        (if e.vl = 0 then entryOf e 0 else entryOf (setV (rdOf w) (scanResult e w).1 e) (scanResult e w).2) s))

/-- VLD and TLS load lanes and tiles from the working area, VST and TLS store them, each element converted between its memory
type and the engine's (R496, R500): the entry holds the register or the bytes to store, and is marked as a memory entry. -/
def Obligations.EngineMemoryInstructionsQueueTheirResult : Prop :=
  ∀ (c : Nat) (s : State) (x : CoreCtx),
    let w := x.w
    let e := shadow x.cl
    let y : EngCtx := { core := x, e := e, k := s.free }
    let mt := fw w 3 0
    let on := active e (fw w 6 4)
    let lanes := (upto e.vl).filter on
    (EngIssues 0x36 c vmemLegal vmemRegs s x → placesFault y mt (lanes.map (vmemPlace y)) = none →
      let r := mapElems (ew e) on (vreg e (rdOf w)) fun i =>
        convert mt e.etype (readElem y mt (vmemPlace y i)) (freeElem (s.free + 1) i)
      exec (.vld c) s = .next (queued x { entryOf (setV (rdOf w) r.1 e) r.2 with memory := true } s)) ∧
    (EngIssues 0x37 c vmemLegal vmemRegs s x → placesFault y mt (lanes.map (vmemPlace y)) = none →
      let r := storeElems y e.etype mt (lanes.map fun i => (vmemPlace y i, elemAt (ew e) (vreg e (rdOf w)) i))
      exec (.vst c) s = .next (queued x { entryOf e r.2 with writes := r.1, memory := true } s)) ∧
    (EngIssues 0x39 c (fun w => decide (fw w 3 0 < 9) && fw w 6 4 == 0) (fun w => [fw w 17 13, fw w 12 8]) s x →
      let td := fw w 21 18
      let rowBytes := if fw w 12 8 == 0 then w64 (32 * typeBits mt / 8) else sreg x.cl.core (fw w 12 8)
      let place := fun i => elemPlace mt (sreg x.cl.core (fw w 17 13) + w64 (i / 32) * rowBytes) (w64 (elemSize mt)) (i % 32)
      placesFault y mt ((upto 1024).map place) = none →
      (bit w 7 = true →
        let r := storeElems y (tileType e) mt ((upto 1024).map fun i => (place i, elemAt 32 (treg e td) i))
        exec (.tls c) s = .next (queued x { entryOf e r.2 with writes := r.1, memory := true } s)) ∧
      (bit w 7 = false →
        let r := mapElems 32 (fun _ => true) (treg e td) fun i =>
          convert mt (tileType e) (readElem y mt (place i)) (freeElem (s.free + 1) i)
        exec (.tls c) s = .next (queued x { entryOf (setT td r.1 e) r.2 with memory := true } s)))

/-- The result that enters the engine's queue: TMAC, TRED, TBC and TMOV: every element of the tile, or the first 32 lanes, or the rows moved. -/
def Obligations.TileInstructionsQueueTheirResult : Prop :=
  ∀ (c : Nat) (s : State) (x : CoreCtx),
    let w := x.w
    let e := shadow x.cl
    let tile := fun (i : Instr) (td : Nat) (r : TReg × Nat) => exec i s = .next (queued x (entryOf (setT td r.1 e) r.2) s)
    (EngIssues 0x3A c (fun w => fw w 6 5 != 3 && fw w 4 0 == 0) noRegs s x → (isFp e = true ∨ fw w 6 5 = 0) →
      tile (.tmac c) (fw w 21 18) (mapTile (tmacElem e w))) ∧
    (EngIssues 0x3B c (fun w => fw w 11 10 != 3 && fw w 9 0 == 0) noRegs s x →
      let r := mapElems (ew e) (fun i => decide (i < 32)) (vreg e (rdOf w)) (tredElem e (s.free + 1) w)
      exec (.tred c) s = .next (queued x (entryOf (setV (rdOf w) r.1 e) r.2) s)) ∧
    (EngIssues 0x3C c (fun w => fw w 8 7 != 3 && fw w 6 3 == 0 && decide (fw w 2 0 < 5))
        (fun w => if fw w 8 7 == 2 then [fw w 13 9] else []) s x →
      tile (.tbc c) (fw w 21 18) (mapTile (tbcElem e (sreg x.cl.core (fw w 13 9)) w))) ∧
    (EngIssues 0x3D c tmovLegal noRegs s x →
      let tn := fw w 16 13
      let r0 := fw w 10 6
      (fw w 12 11 = 2 → tile (.tmov c) tn (0, 0)) ∧
      (fw w 12 11 = 3 → tile (.tmov c) tn (mapTile fun i j => (tileAt (treg e (rdOf w % 16)) j i, 0))) ∧
      (fw w 12 11 = 0 → e.vl % 32 = 0 → r0 + e.vl / 32 ≤ 32 →
        let r := mapElems (ew e) (fun i => decide (i < e.vl)) (vreg e (rdOf w)) fun i =>
          convert (tileType e) e.etype (elemAt 32 (treg e tn) (32 * r0 + i)) (freeElem (s.free + 1) i)
        exec (.tmov c) s = .next (queued x (entryOf (setV (rdOf w) r.1 e) r.2) s)) ∧
      (fw w 12 11 = 1 → e.vl % 32 = 0 → r0 + e.vl / 32 ≤ 32 →
        tile (.tmov c) tn (mapElems 32 (fun i => decide (32 * r0 ≤ i) && decide (i < 32 * r0 + e.vl)) (treg e tn) fun i =>
          convert e.etype (tileType e) (elemAt (ew e) (vreg e (rdOf w)) (i - 32 * r0)) 0)))

/-- R512, R514: a queued engine instruction changes no visible state; ENGINE_COMMIT makes the oldest entry visible (registers,
flags only in FLAGS mode and gathered, scalar result, bytes stored), or raises the fault the entry holds at that entry's pc,
squashing the entries after it. -/
def Obligations.EngineCommitsInOrder : Prop :=
  ∀ (c : Nat) (s : State) (x : CoreCtx) (n : EngEntry),
    (let t := queued x n s
     (cluster t x.p).eng = (cluster s x.p).eng ∧ (cluster t x.p).core.s = (cluster s x.p).core.s ∧
     (cluster t x.p).work = (cluster s x.p).work ∧ (cluster t x.p).core.pc = (cluster s x.p).core.pc + 4 ∧
     (∀ p, p ≠ x.p → cluster t p = cluster s p) ∧ { t with clusters := s.clusters, free := s.free } = s) ∧
    (∀ rest, c < 160 → clusterIn c s = some x → (x.cl.st = 2 ∨ x.cl.st = 3) → x.cl.engQ = n :: rest →
      (n.fault = none → ∃ t, exec (.engineCommit c) s = .next t ∧
        (cluster t x.p).engQ = rest ∧
        (cluster t x.p).eng = { n.eng with vflags := x.cl.eng.vflags ||| (if n.eng.flagsOn then n.flags else 0) } ∧
        (∀ rd v, n.rd = some (rd, v) → (cluster t x.p).core.s = (setS rd v x.cl.core).s) ∧
        (n.rd = none → (cluster t x.p).core = x.cl.core) ∧
        (∀ a, (∀ b, (a, b) ∉ n.writes) → areaByte (cluster t x.p) a = areaByte x.cl a) ∧
        (∀ p, p ≠ x.p → cluster t p = cluster s p) ∧ { t with clusters := s.clusters } = s) ∧
      (∀ code, n.fault = some code → ∃ t, exec (.engineCommit c) s = .next t ∧
        (cluster t x.p).st = 5 ∧ (cluster t x.p).engQ = [] ∧ (cluster t x.p).faultCode = BitVec.ofNat 8 code ∧
        (cluster t x.p).core.pc = BitVec.ofNat 16 n.pc ∧ (cluster t x.p).eng = x.cl.eng))

/-- The elements of a vector or tile register: replacing those of which p holds by values that fit leaves exactly those
values there and every other element as it was. -/
def Obligations.ElementsAreReplacedAlone : Prop :=
  ∀ (n w : Nat) (p : Nat → Bool) (old : BitVec n) (f : Nat → Flagged) (i : Nat),
    0 < w → n % w = 0 → (∀ j, (f j).1 < 2 ^ w) → i < n / w →
    elemAt w (mapElems w p old f).1 i = if p i then (f i).1 else elemAt w old i

/-- RUN_START puts every cluster of the run in R463's state once the run holds them all; RUN_TIME_LIMIT halts a run whose time
is up; RUN_END completes a run that is over with R465's status and frees its clusters; CLUSTER_SCRUB passes a cluster to
another company with its registers, queue, instruction memory and working area cleared (R471). -/
def Obligations.RunsStartAndEnd : Prop :=
  ∀ (r : CmdRef) (s : State) (t : Taken) (op : RunOp), Shaped s →
    (findRunning 0x61 r s = some t → runOf s t.seq = some op →
      (canStart s op = true → ∃ u, exec (.runStart r) s = .next u ∧
        runOf u op.seq = some { op with started := some (now s) } ∧
        ∀ rank c p, (runClusters op)[rank]? = some c → physOf s c = some p → (runClusters op).Nodup →
          (cluster u p).st = 2 ∧ (cluster u p).run = some op.seq ∧ (cluster u p).core.pc = 0 ∧ (cluster u p).core.p = 0 ∧
          sreg (cluster u p).core 1 = w64 rank ∧ sreg (cluster u p).core 2 = w64 (op.rows * op.cols) ∧
          (cluster u p).core.cnt = List.replicate 16 0 ∧ (cluster u p).eng = Engine.fresh ∧
          (cluster u p).imageLen = op.image.length) ∧
      (∀ t0, op.started = some t0 → t0 + op.limit ≤ now s →
        exec (.runTimeLimit r) s = .next (haltRun op.seq (modRun op.seq (fun o => { o with timedOut := true }) s))) ∧
      (runOver s op = true →
        let free : Nat → Cluster → Cluster := fun _ x => if x.run == some op.seq then { x with run := none } else x
        let mine := (heldBy s op.seq).map fun p => p.2.logical.toNat
        exec (.runEnd r) s = .next (finish t (statusWith (op.aborted.getD (runStatus s op)) (runResult s op))
          { s with clusters := kmap s.clusters free
                   work := { s.work with runs := s.work.runs.filter (·.seq != op.seq)
                                         mesh := s.work.mesh.filter fun i => !mine.any fun c => toCluster c i } }))) ∧
    (∀ c company p, c < 160 → company < 64 → clusterFree s c = true → cleanFor s c company = false →
      awaits s c company = true → physOf s c = some p →
      ∃ u, exec (.clusterScrub c company) s = .next u ∧
        (cluster u p).company = company ∧ (cluster u p).core = Core.fresh ∧ (cluster u p).eng = Engine.fresh ∧
        (cluster u p).imem = [] ∧ (cluster u p).dirty = false ∧ (∀ a, areaByte (cluster u p) a = 0))

/-- MIDNIGHT_SCAN ends the waits it finds: of clusters all of whose producers have stopped, and of the youngest member of each
closed set of clusters or queues (R474 to R476, R560); CLUS_SIGNAL adds to a counter, and MAILBOX_FLUSH empties the mailboxes
named, for an agent that may write the cluster's window. -/
def Obligations.MidnightAndClusterWindow : Prop :=
  ∀ (s : State),
    (let o := ((waiters s).filter (orphaned s)).foldl (fun s x =>
        modPerf2 (fun p => { p with orphans := satInc p.orphans }) (endWaitc x.p 3 s)) s
     let b := (victims (clusterGraph s) (waitSince s)).foldl (fun s c => breakCluster c s) o
     exec .midnightScan s = .next (settle ((victims (queueGraph s) (queueSince s)).foldl (fun s q => breakQueue q s) b))) ∧
    (∀ (a p : Nat) (part : Part) (v : BitVec 64), a < 32 → p < 176 → windowWriter s a p = true →
      let cl := cluster s p
      let w := mergePart (w64 (cl.sigAmount.toNat * 2 ^ 32 + cl.sigCounter.toNat)) part v
      let u := modCluster p (fun cl => { cl with sigAmount := BitVec.ofNat 32 (high w), sigCounter := BitVec.ofNat 4 (fld w 3 0) }) s
      exec (.clusSignal a p part v) s
        = .next (if (cl.run.bind (runOf s)).isNone then u else bump p (fld w 3 0) (w64 (high w)) u)) ∧
    (∀ (a p : Nat) (v : BitVec 32), a < 32 → p < 176 → windowWriter s a p = true →
      (cluster s p).core.mbx.length = 4 →
      ∃ u, exec (.mailboxFlush a p v) s = .next u ∧
        ∀ k, k < 4 → (cluster u p).core.mbx.getD k [] = if bit v k then [] else (cluster s p).core.mbx.getD k [])

/-! Queues, registers, arbiters and events. -/

/-- The completion machinery: ending a command in flight posts its completion (to the queue's ring, or behind it in its
overflow area), counts it, and takes the command out of flight; a command no longer in flight is not completed again (R552,
R553). What ending a command, and all that then ends because of it, leaves alone: the objects of the store but replaced weight sets, which
go with their last reader (R640), with their data in the Loft, and references that waited only for the command (R43); every register outside
queues and counts, the coherent windows and the memory and registers of every cluster. -/
def Obligations.CompletionsArePostedOnce : Prop :=
  (∀ (s : State) (t : Taken) (c : Completion) (q : Queue),
     (s.taken.any (fun u => u.seq == t.seq) = false → finish t c s = s) ∧
     (queue s t.queue = some q →
       let u := finishCore t c s
       let e : Completion := { c with tag := t.tag, urgent := t.urgent }
       u.taken = s.taken.filter (fun v => v.seq != t.seq) ∧
       ∃ q', queue u t.queue = some q' ∧ q'.compCount = q.compCount + 1 ∧
         (if ringFull q = true ∨ q.spill ≠ [] then
           q'.spill = q.spill ++ [e] ∧ q'.cqTail = q.cqTail ∧ u.out = s.out
          else
           q'.spill = q.spill ∧ q'.cqTail = (q.cqTail + 1) % q.cqSize ∧
           q'.phase = (if q'.cqTail = 0 then !q.phase else q.phase) ∧
           u.out = .completion t.queue q.cqTail c.r0 c.r1 c.r2
             (w64 (b2n q.phase * 2 ^ 63 + c.status * 2 ^ 32 + t.tag * 2 ^ 16 + q.head)) :: s.out))) ∧
  ∀ (s : State) (t : Taken) (c : Completion),
    let u := finish t c s
    { u.store with weights := s.store.weights, lingering := s.store.lingering } = s.store ∧
    { u.loft with feet := s.loft.feet, stripes := s.loft.stripes } = s.loft ∧ { u.arb with arb := s.arb.arb } = s.arb ∧
    u.dev = s.dev ∧ u.pwr = s.pwr ∧ u.health = s.health ∧
    u.ports = s.ports ∧ u.agents = s.agents ∧ u.coherent = s.coherent ∧ u.atomics = s.atomics ∧ u.snoops = s.snoops ∧
    u.sessions = s.sessions ∧ u.conns = s.conns ∧ u.eth = s.eth ∧ u.fw = s.fw ∧ u.disk = s.disk ∧ u.flash = s.flash ∧
    u.nextSeq = s.nextSeq ∧ fused u = fused s ∧ u.pending = s.pending ∧
    (∀ p, (cluster u p).core = (cluster s p).core ∧ (cluster u p).eng = (cluster s p).eng ∧
      (cluster u p).work = (cluster s p).work)

/-- DOORBELL moves tail and head of a queue of its agent, and counts a value out of range in bad_doorbells; FENCED_DISPATCH lets
a fenced command run once every earlier one of its queue has ended; QUEUE_WAIT_TIMEOUT, COMPLETION_INTERRUPT,
HOST_READ_COMPLETION and HOST_READ_TIMEOUT, of a command's arrays and of the reads that close a delivery (R325, R539 to R541, R547,
R557, R567, R568, R706). -/
def Obligations.QueueRowsComplete : Prop :=
  ∀ (s : State) (r : CmdRef),
    (∀ (a q : Nat) (x : Queue) (v : BitVec 64), a < 32 → q < 4096 → ioServed s a = true → queue s q = some x → x.agent = a →
      exec (.doorbell a q .full v) s = .next (setCqHead q (fld v 47 32) (setTail q (fld v 15 0) s)) ∧
      exec (.doorbell a q .lo v) s = .next (setTail q (fld v 15 0) s) ∧
      exec (.doorbell a q .hi v) s = .next (setCqHead q (fld v 15 0) s) ∧
      ∀ n, (n < x.sqSize → setTail q n s = modQueue q (fun y => { y with sqTail := n }) s) ∧
        (x.sqSize ≤ n → setTail q n s = modPerf2 (fun p => { p with badDoorbells := satInc p.badDoorbells }) s) ∧
        (x.cqSize ≤ n → setCqHead q n s = modPerf2 (fun p => { p with badDoorbells := satInc p.badDoorbells }) s)) ∧
    (∀ t, s.taken.find? (fun t => t.queue == r.queue && t.tag == r.tag && !t.dispatched) = some t →
      (∀ u ∈ s.taken, u.queue = t.queue → t.seq ≤ u.seq) →
      exec (.fencedDispatch r) s = .next { s with
        taken := s.taken.map fun u => if u.seq == t.seq then { u with dispatched := true } else u }) ∧
    (∀ t w d, findRunning 0x53 r s = some t → (queue s r.queue).bind (·.wait) = some w → w.until_ = some d → d ≤ now s →
      exec (.queueWaitTimeout r) s = .next (settle (endWait r.queue w
        { status 0x403 with r0 := w64 (((queue s w.target).map (·.compCount)).getD 0) } s))) ∧
    (∀ q x, queue s q = some x → interruptDue s x = true →
      let p := port s (agentPort s x.agent)
      let open_ := reachable s x.agent && bit p.msixOn (agentLd s x.agent)
      let held := bit p.msixMask (agentLd s x.agent) || (msixVec p (agentLd s x.agent) x.vector).masked
      ∃ u, exec (.completionInterrupt q) s = .next u ∧
        queue u q = some { x with intCount := 0, intFirst := none, intDue := false } ∧
        u.out = (if open_ && !held then .msix x.agent x.vector :: s.out else s.out) ∧
        (open_ = true → held = true →
          (msixVec (port u (agentPort s x.agent)) (agentLd s x.agent) x.vector).pending = true) ∧
        ((open_ && held) = false → u.ports = s.ports)) ∧
    (∀ t arrays, reading r s = some t → arrays.map (·.length) = t.want.map (·.2) →
      exec (.hostReadCompletion r arrays) s = .next (startReads { t with arrays := t.arrays ++ arrays } s)) ∧
    (∀ t, reading r s = some t → t.readAt + 50000000 ≤ now s →
      exec (.hostReadTimeout r) s
        = .next (settle (abortUnrun 0x602 t (readTimedOut (agentPort s (queueAgent s t.queue)) s)))) ∧
    (∀ t c agents, reading r s = none → closing r s = some (t, c, agents) →
      (∀ arrays, arrays.map (·.length) = t.want.map (·.2) →
        exec (.hostReadCompletion r arrays) s = .next (finish t c (dropDelivery t.seq s))) ∧
      (t.readAt + 50000000 ≤ now s →
        exec (.hostReadTimeout r) s = .next (settle (abortOne 0x602 t (readTimedOut (agentPort s (agents.headD 0)) s)))))

/-- PACKET_INTAKE takes the packet of the queue whose turn it is: the head moves on by its slots, and the command is in flight
under the next intake number, or ends at once with the check that it fails; a packet whose later slots are not published yet
waits for them (R534, R536, R537, R543, R545). -/
def Obligations.PacketsAreTakenInOrder : Prop :=
  ∀ (s : State) (qn slots : Nat) (q : Queue) (words : List (BitVec 64)),
    queue s qn = some q → 8 ≤ words.length → mayTake s qn = true → slots = fld (words.headD 0) 9 8 + 1 →
    (published q < slots → exec (.packetIntake qn words) s = .next (modQueue qn (fun q => { q with needs := slots }) s)) ∧
    (slots ≤ published q → words.length = 8 * slots →
      let t := takenOf s qn words
      let u := dma q.agent (64 * slots) (advance qn slots s)
      u.taken = s.taken ∧ u.nextSeq = s.nextSeq + 1 ∧ t.seq = s.nextSeq ∧
      queue u qn = some { q with head := (q.head + slots) % q.sqSize, needs := 1 } ∧
      exec (.packetIntake qn words) s = .next (match intakeCheck u q t with
        | some c => settle (finishCore t c u)
        | none => startReads (takenIn u q t) { u with taken := u.taken ++ [takenIn u q t] }))

/-- REGISTER_WRITE: a served, aligned write of 4 or 8 bytes reaches BAR0 by its place; from an agent that does not serve the
owner, a register outside doorbells, cluster windows and atomic windows keeps its value; a read-only register keeps its value
whoever writes (R15, R77, R835 to R841). -/
def Obligations.RegisterWritesReachTheirRegister : Prop :=
  ∀ (s : State) (a off size : Nat) (v : BitVec 64), a < 32 → (size = 4 ∨ size = 8) → off % size = 0 → ioServed s a = true →
    off < 0x100000 →
    exec (.registerWrite a off size v) s = .next (writeReg a off size v s) ∧
    ((off < 0x10000 ∨ (0x18000 ≤ off ∧ off < 0x40000) ∨ (0x4B000 ≤ off ∧ off < 0x80000)) → (agent s a).company ≠ 0 →
      writeReg a off size v s = s) ∧
    (ownerAgent s a = true → off ∈ [0x0, 0x10, 0x1010, 0x2008, 0x2018, 0x6000, 0x6018, 0x3040] → writeReg a off size v s = s) ∧
    (ownerAgent s a = true → off = 0x4008 → size = 4 → writeReg a off size v s
      = { s with evt := { s.evt with mask := BitVec.ofNat 9 (v.toNat % 512) } }) ∧
    (ownerAgent s a = true → off = 0x4000 → size = 4 → writeReg a off size v s
      = { s with evt := { s.evt with cause := s.evt.cause &&& ~~~(BitVec.ofNat 9 (v.toNat % 512)) } })

/-- ADMIN_QUEUE_ENABLE applies the other fields and restarts the queue, ADMIN_QUEUE_DISABLE stops intake and changes nothing
else (R550, R570); SHUTDOWN_REQ, PD6_GATE, PD6_UNGATE, PD6_SWITCH_OFF, EPOCH_WRITE, ARB_CTRL_WRITE and AGENT_MAP_WRITE, from an
agent of the owner (R74, R87, R89, R96, R108, R132, R678). -/
def Obligations.OwnerRegistersAct : Prop :=
  ∀ (s : State) (a : Nat) (v : BitVec 32), a < 32 → ownerAgent s a = true →
    (bit s.flash.actrl 31 = false → bit v 31 = true →
      exec (.adminQueueEnable a v) s = .next (restartAdmin { s with flash := { s.flash with actrl := v &&& actrlMask } })) ∧
    (bit s.flash.actrl 31 = true → bit v 31 = false →
      exec (.adminQueueDisable a v) s = .next (modQueue 0 (fun q => { q with enabled := false })
        { s with flash := { s.flash with actrl := s.flash.actrl &&& 0x7FFFFFFF } })) ∧
    (bit v 0 = true → s.dev.flushed = false → s.pwr.safeOff = false →
      exec (.shutdownReq a v) s = .next { s with dev := { s.dev with restart := bit v 1, shutdownReq := true } }) ∧
    (bit v 0 = true → hasPrompter s = true →
      exec (.pd6Gate a v) s = .next { s with pwr := { s.pwr with pd6Gate := true } }) ∧
    (bit v 0 = false → hasPrompter s = true → ∃ u, exec (.pd6Ungate a v) s = .next u ∧ u.pwr.pd6Gate = false ∧
      u.pwr.on = if pd6Due s then s.pwr.on ||| 0x40 else s.pwr.on) ∧
    (s.pwr.pd6Gate = true → bit s.pwr.on 6 = true → prompterBusy s = false → ∃ u, exec .pd6SwitchOff s = .next u ∧
      u.pwr.on = s.pwr.on &&& 0x3F ∧ u.store.tables = [] ∧ u.store.fetchBuf = none) ∧
    (exec (.epochWrite a v) s = .next (if v.truncate 8 = s.perf.beatEpoch then s
      else { s with perf := { s.perf with beatEpoch := v.truncate 8, beatMin := s.perf.beatNow, beatMax := s.perf.beatNow } })) ∧
    (∀ j part (w : BitVec 64), j < 6 → classPresent s j = true → s.arb.ctrl.length = 6 →
      ∃ u, exec (.arbCtrlWrite a j part w) s = .next u ∧
        arbCtrl u j = mergePart (arbCtrl s j) part w &&& 0xFFFFFFFFFF01FFFD ∧
        (∀ k, k ≠ j → arbCtrl u k = arbCtrl s k) ∧
        ∀ inst, inst < instances j → (arbiter u j inst).reqs = (arbiter s j inst).reqs.map fun r => { r with grants := 0 }) ∧
    (∀ b, b < 32 → (agent s b).company = 0 → (s.queues.any fun p => p.2.agent == b && (p.1 != 0 || p.2.enabled)) = false →
      ∃ u, exec (.agentMapWrite a b v) s = .next u ∧ (agent u b).map = v &&& 0x8000003B ∧
        (agent u b).eff = (agent s b).eff)

/-- R794: a WO1 field takes its first write since power-on; a later write of another value changes nothing and is one violation, which
LOCK_VIOL and EV_LOCK_VIOLATION report. SANITIZE sets the marker, ends every command and erases every company's key (R796). -/
def Obligations.LockFieldsAreWrittenOnce : Prop :=
  ∀ (s : State) (a : Nat) (v : BitVec 32), a < 32 → ownerAgent s a = true →
    (s.lock.tenancyWritten = false → ∃ u, exec (.lockWrite a 0x3000 v) s = .next u ∧
      u.lock = { s.lock with tenancy := bit v 0, tenancyWritten := true }) ∧
    (s.lock.fwWritten = false → ∃ u, exec (.lockWrite a 0x3008 v) s = .next u ∧
      u.lock = { s.lock with fw := bit v 0, fwWritten := true }) ∧
    (s.lock.ideWritten = false → ∃ u, exec (.lockWrite a 0x3010 v) s = .next u ∧
      u.lock = { s.lock with ide := bit v 0, ideWritten := true }) ∧
    (s.lock.tenancyWritten = true → bit v 0 ≠ s.lock.tenancy → ∃ u, exec (.lockWrite a 0x3000 v) s = .next u ∧
      u.lock.tenancy = s.lock.tenancy ∧ u.lock.woViol = true ∧ u.lock.violAgent = BitVec.ofNat 5 a ∧
      u.lock.violOffset = 0x3000 ∧ u.lock.violCount = satInc s.lock.violCount) ∧
    (s.lock.sanitizeWritten = false → v = 0xC1EA → ∃ u, exec (.sanitize a v) s = .next u ∧
      u.flash.marker = true ∧ u.dev.shutdownReq = true ∧ u.taken = [] ∧ u.store.scenes = [] ∧ u.store.scratch = [] ∧
      u.coherent = [] ∧ u.conns = [] ∧ ∀ p ∈ u.store.companies, p.2.key = none)

/-- The arbiters: the lowest drain class wins, then round-robin order after the last winner, among the raised and unmasked;
the winner's losses restart and every loser backs off with one loss more (R124 to R127). The winner holds the resource for its burst: nothing
is granted meanwhile, each transfer counts, and the last one, like the holder's dropping of its request, brings the next decision (R125, R126).
The order of the inputs is the model's (notes/assumptions/14.md). -/
def Obligations.DecisionsFollowTheArbiter : Prop :=
  (∀ (c : BitVec 64) (a : Arbiter) (w k n : Nat), a.held = some (w, k) →
    grantReq c a = a ∧
    (k ≤ 1 → transfers c (n + 1) a = transfers c n (decision c { a with held := none })) ∧
    (1 < k → transfers c (n + 1) a = transfers c n { a with held := some (w, k - 1) }) ∧
    catchUp c { transfers := 0, dropped := true } a = decision c { a with held := none }) ∧
  (∀ (c : BitVec 64) (a : Arbiter), a.held = none → grantReq c a = decision c a ∧
    (pickReq a.last (a.reqs.filter fun r => r.raised && !masked c a r) = none → decision c a = a)) ∧
  ∀ (c : BitVec 64) (a : Arbiter) (w : ArbReq),
    pickReq a.last (a.reqs.filter fun r => r.raised && !masked c a r) = some w →
    (w ∈ a.reqs ∧ w.raised = true ∧ masked c a w = false ∧
     ∀ r ∈ a.reqs, r.raised = true → masked c a r = false →
      w.cls < r.cls ∨ (w.cls = r.cls ∧ roundPlace a.last w.requester ≤ roundPlace a.last r.requester)) ∧
    (decision c a).last = w.requester ∧ (decision c a).held = some (w.requester, burstOf c) ∧
    (decision c a).reqs.length = a.reqs.length ∧
    ∀ (k : Nat) (r q : ArbReq), a.reqs[k]? = some r → (decision c a).reqs[k]? = some q →
      q.requester = r.requester ∧ q.cls = r.cls ∧
      (r.requester = w.requester → q.raised = false ∧ q.losses = 0 ∧ q.grants = r.grants + 1) ∧
      (r.requester ≠ w.requester → r.raised = true → masked c a r = false → q.raised = false ∧ q.losses = r.losses + 1) ∧
      (r.requester ≠ w.requester → r.raised = false → q = r)

/-- Effects of the rows BACKOFF_EXPIRY, QUOTA_WINDOW_END, STARVATION_FLAG, HBM_REFRESH and EVENT_INTERRUPT (R127, R129 to R131, R851, R852).
What an instance has done since its last row comes as an operand (notes/assumptions/14.md). -/
def Obligations.ArbiterAndEventRowsComplete : Prop :=
  ∀ (s : State) (cls inst req : Nat) (item : ArbItem) (since : ArbSince),
    arbOk cls inst = true → req < 65536 → item.cls < 6 → classPresent s cls = true →
    let c := arbCtrl s cls
    let a := catchUp c since (arbiter s cls inst)
    (∃ u, exec (.backoffExpiry cls inst req item since) s = .next u ∧
      arbiter u cls inst = (if itemStands s item then grantReq c (raise req item.cls (itemSeq s item) a) else a) ∧
      { u with arb := s.arb } = s) ∧
    (starveFlags c = false → ∃ u, exec (.quotaWindowEnd cls inst since) s = .next u ∧
      arbiter u cls inst = grantReq c { a with reqs := a.reqs.map fun r => { r with grants := 0 } } ∧
      { u with arb := s.arb } = s) ∧
    (starveFlags c = true → mayFlag s (arbiter s cls inst) req item = true → s.arb.src.length = 6 →
      ∃ u, exec (.starvationFlag cls inst req item) s = .next u ∧ bit u.arb.starve cls = true ∧
        u.arb.src.getD cls 0 = w32 (inst * 65536 + req) ∧ bit u.evt.cause 3 = true ∧
        ((arbiter u cls inst).reqs.any fun r => r.requester == req && r.flagged) = true ∧
        { u with arb := s.arb, evt := s.evt } = s) ∧
    (∀ stack pc, stack < 8 → pc < 32 → exec (.hbmRefresh stack pc) s = .next s) ∧
    (∀ e, e < 9 → eventDue s e = true → ∃ u, exec (.eventInterrupt e) s = .next u ∧
      bit u.evt.fresh e = false ∧ u.evt.cause = s.evt.cause ∧
      let ag := (eventRoute s e).1
      let v := (eventRoute s e).2
      let p := agentPort s ag
      let ld := agentLd s ag
      let open_ := reachable s ag && bit (port s p).msixOn ld
      let held := bit (port s p).msixMask ld || (msixVec (port s p) ld v).masked
      (open_ = true → held = false → u.out = Out.msix ag v :: s.out ∧ u.ports = s.ports) ∧
      (open_ = true → held = true → u.out = s.out ∧ (msixVec (port u p) ld v).pending = true) ∧
      (open_ = false → u.out = s.out ∧ u.ports = s.ports))

/-! Power, resets and readings. -/

/-- A Dawn leaves every volatile object and command behind and starts in FUSE with PD0 and PD5; POWER_ON, DAWN, SUPPLY_RECOVERY and
THERMAL_RESTART start one (R41, R52, R57, R58, R76, R84, R885).
That the first reading of a supply is its application, and POWER_ON where none came before, is the model's choice
(notes/assumptions/112.md). -/
def Obligations.DawnStarts : Prop :=
  (∀ (s : State),
    let u := startDawn s
    u.dev.dawnPhase = 1 ∧ u.dev.curUp = false ∧ u.dev.stopped = false ∧ u.pwr.on = 0x21 ∧ u.pwr.inDusk = false ∧
    u.dev.time = s.dev.time ∧ u.taken = [] ∧ u.store.scenes = [] ∧ u.store.streams = [] ∧
    u.store.scratch = [] ∧ u.coherent = [] ∧ u.atomics = [] ∧ u.sessions = [] ∧ u.conns = [] ∧ u.disk = s.disk ∧
    u.flash = s.flash ∧ u.fw = s.fw ∧ u.pending = s.pending ∧ fused u = fused s ∧
    (∀ p, (cluster u p).mapState = 0 ∧ (cluster u p).logical = 0xFF ∧ (cluster u p).work = [] ∧ (cluster u p).rowsUsed = (cluster s p).rowsUsed)) ∧
  ∀ (s : State) (mv : BitVec 16),
    ((powerUp s).pwr.on = 1 ∧ (powerUp s).dev.dawnPhase = 0 ∧ (powerUp s).dev.time = 0 ∧ (powerUp s).dev.cold = true ∧
      (powerUp s).taken = [] ∧ (powerUp s).disk = s.disk ∧ (powerUp s).flash = s.flash) ∧
    (bit s.pwr.on 0 = false → 11200 < mv.toNat → exec (.powerOn mv) s = .next (startDawn (setSupply mv (powerUp s)))) ∧
    (bit s.pwr.on 0 = true → s.dev.cold = true → 11200 < mv.toNat → exec (.powerOn mv) s = .next (startDawn (setSupply mv s))) ∧
    (dawnDue s = true → exec .dawn s = .next (startDawn s)) ∧
    (bit s.pwr.on 0 = true → s.dev.flushed = true → s.dev.tripped = false → 11200 < mv.toNat →
      exec (.supplyRecovery mv) s = .next (startDawn (setSupply mv s))) ∧
    (bit s.pwr.on 0 = true → s.dev.tripped = true → 11200 < s.pwr.supplyMv.toNat →
      exec .thermalRestart s = .next (startDawn s))

/-- Effects of the rows DAWN_PHASE_COMPLETE, DAWN_PHASE_TIMEOUT, SAFE_OFF, DUSK_ENTER, DUSK_EXIT, HOLDUP_FLUSH, PD0_HOLDUP_EXPIRY,
HOUSE_WATCHDOG and HOLDUP_MEASUREMENT (R58 to R63, R74, R78 to R86, R98, R105, R904, R905).
The step at which a shutdown stops a Dawn, what a shutdown waits for, the rail after Dusk and a TRIM above its target are the model's
reading (notes/assumptions/113.md, 115.md, 116.md, 128.md). -/
def Obligations.PowerRowsComplete : Prop :=
  ∀ (s : State),
    (∀ o, inDawn s = true → phaseWaits s = false → outcomeOk s o = true →
      (o.fails = true → ∃ u, exec (.dawnPhaseComplete o) s = .next u ∧ u.dev.stopped = true ∧
        bit u.health.cause 18 = true ∧ u.dev.curUp = false) ∧
      (o.fails = false →
        (s.dev.dawnPhase = 1 → exec (.dawnPhaseComplete o) s = .next (endFuse o s)) ∧
        (s.dev.dawnPhase = 2 → trimmed s o = true → ∃ u, exec (.dawnPhaseComplete o) s = .next u ∧ u.dev.dawnPhase = 3 ∧
          u.pwr.on = s.pwr.on ||| 0x18 ∧ 720 ≤ u.pwr.railMv.toNat ∧ u.pwr.railMv.toNat ≤ 880 ∧
          u.pwr.railChosen.toNat = clampRail o.railMv.toNat) ∧
        (s.dev.dawnPhase = 3 → o.deadStacks = [] → ∃ u, exec (.dawnPhaseComplete o) s = .next u ∧
          u.dev.dawnPhase = 4 ∧ u.pwr.holdupUs = o.holdupUs) ∧
        ((s.dev.dawnPhase = 3 ∨ s.dev.dawnPhase = 4) → o.deadStacks ≠ [] → ∃ u, exec (.dawnPhaseComplete o) s = .next u ∧
          u.dev.stopped = true ∧ bit u.health.cause 17 = true ∧ bit u.health.cause 18 = true) ∧
        (s.dev.dawnPhase = 4 → o.deadStacks = [] → o.wingsRows.length ≤ s.health.wingsRsv.toNat →
          ∃ u, exec (.dawnPhaseComplete o) s = .next u ∧
          u.dev.dawnPhase = 5 ∧ ∀ k, k < 8 → (port u k).memActive = true) ∧
        (s.dev.dawnPhase = 5 → exec (.dawnPhaseComplete o) s = .next (endLoft o s)) ∧
        (s.dev.dawnPhase = 6 → exec (.dawnPhaseComplete o) s = .next (endClusters o s)) ∧
        (s.dev.dawnPhase = 7 → ∃ u, exec (.dawnPhaseComplete o) s = .next u ∧ u.dev.curUp = true ∧ u.dev.attempts = 0))) ∧
    (inDawn s = true → s.pwr.inDusk = false → s.dev.phaseStart.toNat + phaseMax s.dev.dawnPhase.toNat < now s →
      exec .dawnPhaseTimeout s = .next
        (if s.dev.attempts + 1 < 3 then startDawn { s with dev := { s.dev with attempts := s.dev.attempts + 1 } }
         else if s.dev.otherSlot then
           stopDawn (2 ^ 18) { s with dev := { s.dev with attempts := s.dev.attempts + 1 } }
         else startDawn { s with dev := { s.dev with attempts := 0, otherSlot := true } })) ∧
    (s.dev.shutdownReq = true → s.pwr.safeOff = false → s.dev.flushed = false → shutdownWaits s = false →
      shutdownDrained s = true → ∃ u, exec .safeOff s = .next u ∧ u.pwr.on = 1 ∧ u.pwr.safeOff = true ∧
        (∀ k, (port u k).linkUp = false) ∧ u.store.scenes = [] ∧ u.store.streams = [] ∧ u.store.scratch = [] ∧
        u.coherent = [] ∧ u.conns = [] ∧ u.taken = [] ∧ (closeDue s = true → u.dev.closeRecord = true)) ∧
    (∀ mv, bit s.pwr.on 0 = true → s.pwr.inDusk = false → s.dev.flushed = false → mv.toNat < 10800 →
      ∃ u, exec (.duskEnter mv) s = .next u ∧ u.pwr.inDusk = true ∧ u.dev.duskSeen = true ∧
        u.pwr.duskEntries = satInc s.pwr.duskEntries ∧ u.pwr.railMv = (if bit s.pwr.on 1 then 720 else s.pwr.railMv) ∧
        bit u.evt.cause 1 = true ∧
        { u with pwr := s.pwr, dev := s.dev, evt := s.evt, loft := { u.loft with dies := s.loft.dies } } = s) ∧
    (∀ mv, s.pwr.inDusk = true → s.dev.flushed = false → 11200 < mv.toNat →
      ∃ u, exec (.duskExit mv) s = .next u ∧ u.pwr.inDusk = false ∧
        u.pwr.railMv = (if bit s.pwr.on 1 then s.pwr.railChosen else s.pwr.railMv) ∧ bit u.evt.cause 1 = true ∧
        u.ports = s.ports ∧ u.conns = s.conns) ∧
    (∀ mv, bit s.pwr.on 0 = true → s.dev.flushed = false → mv.toNat < 9600 → ∃ u, exec (.holdupFlush mv) s = .next u ∧
      u.pwr.on = 1 ∧ u.dev.flushed = true ∧ u.dev.curUp = false ∧ u.pwr.inDusk = s.pwr.inDusk ∧ u.taken = [] ∧
      (bit s.pwr.on 3 = true → bit s.pwr.on 4 = true →
        u.pwr.powerLosses = satInc s.pwr.powerLosses ∧ u.loft.lossMarker = true) ∧
      ∀ k, (port u k).linkUp = false) ∧
    (∀ t, bit s.pwr.on 0 = true → s.dev.flushed = true → s.pwr.supplyMv.toNat < 9600 → s.pwr.lossAt = some t →
      (t + 40000000 ≤ now s ∨ s.pwr.holdupUs.toNat < 40000) →
      exec .pd0HoldupExpiry s = .next { s with pwr := { s.pwr with on := 0 } }) ∧
    (s.dev.dawnPhase = 7 → s.dev.flushed = false → s.pwr.safeOff = false → ∃ u, exec .houseWatchdog s = .next u ∧
      u.pwr.on = 1 ∧ u.dev.dawnPhase = 0 ∧ u.taken = [] ∧ u.dev.time = s.dev.time) ∧
    (∀ us, measureDue s = true → s.dev.flushed = false → s.pwr.safeOff = false →
      ∃ u, exec (.holdupMeasurement us) s = .next u ∧ u.pwr.holdupUs = us ∧
        u.pwr.holdupWeak = decide (us.toNat < 20000))

/-- Effects of the rows RAIL_READING, MONITOR_FAILURE, TEMPERATURE_READING, POWER_READING and the sideband pins (R101 to R104, R152, R871,
R876 to R887). How far RAIL_READING moves the rail is a free value (notes/assumptions/2.md), at most 10 mV. That a
failed monitor of a cluster region makes each cluster of its row a defect is the model's reading (notes/assumptions/84.md).
POWER_READING with PD0 off is the application of supply (the model's choice, notes/assumptions/112.md). -/
def Obligations.ReadingsAndPinsAct : Prop :=
  ∀ (s : State),
    (∀ beats, beats.length = 18 → s.dev.curUp = true → s.pwr.inDusk = false → bit s.pwr.on 1 = true →
      720 ≤ s.pwr.railMv.toNat → s.pwr.railMv.toNat ≤ 880 → ∃ u, exec (.railReading beats) s = .next u ∧
        720 ≤ u.pwr.railMv.toNat ∧ u.pwr.railMv.toNat ≤ 880 ∧ u.pwr.railMv.toNat ≤ s.pwr.railMv.toNat + 10 ∧
        s.pwr.railMv.toNat ≤ u.pwr.railMv.toNat + 10 ∧ u.pwr.railChosen = u.pwr.railMv ∧
        (∀ k, k < 16 → bit s.health.monitorBad k = false → u.perf.beatNow.getD k 0 = beats.getD k 0) ∧
        { u with pwr := s.pwr, perf := s.perf, free := s.free } = s) ∧
    (∀ k, k < 18 → bit s.pwr.on 0 = true → bit s.health.monitorBad k = false → (k = 17 → hasPrompter s = true) →
      ∃ u, exec (.monitorFailure k) s = .next u ∧ bit u.health.monitorBad k = true ∧ bit u.health.cause 6 = true ∧
        (k < 16 → ∀ i, i < 11 → 11 * k + i ∈ u.health.repairMap)) ∧
    (∀ temps, temps.length = 18 → bit s.pwr.on 0 = true →
      let tj := hottest (((upto 18).filter (regionOn s)).map fun k => temps.getD k 0)
      ∃ u, exec (.temperatureReading temps) s = .next u ∧ u.pwr.tjC = tj ∧ u.pwr.peakC = hottest [s.pwr.peakC, tj] ∧
        (bit s.pwr.on 1 = true → u.pwr.therm = thermAfter s tj.toNat) ∧
        (bit s.pwr.on 1 = true → tj.toNat < 115 → u.pwr.tripReads = 0 ∧ u.pwr.on = s.pwr.on) ∧
        (bit s.pwr.on 1 = true → 115 ≤ tj.toNat → 1 ≤ s.pwr.tripReads → u.dev.tripped = true ∧ u.pwr.on = 1)) ∧
    (∀ w mv, bit s.pwr.on 0 = true → ∃ u, exec (.powerReading w mv) s = .next u ∧ u.pwr.inputW = w ∧
      u.pwr.supplyMv = mv ∧ (w.toNat < 900 → u.pwr.railHeld = false) ∧ { u with pwr := s.pwr } = s) ∧
    (∀ w mv, bit s.pwr.on 0 = false → exec (.powerReading w mv) s
      = .next (if mv.toNat < 9600 then s else setSupply mv (powerUp s))) ∧
    (∀ b, bit s.pwr.on 0 = true → ∃ u, exec (.quiesceNChange b) s = .next u ∧ u.pwr.quiesceCnt = b ∧
      u.pwr.quiesceIn = (if s.dev.curUp && holdoffOver s.pwr.quiesceAt s then b else s.pwr.quiesceIn) ∧
      { u with pwr := s.pwr, evt := s.evt } = s) ∧
    (∀ b, bit s.pwr.on 0 = true → ∃ u, exec (.forceRoChange b) s = .next u ∧ u.pwr.forceRoCnt = b ∧
      u.pwr.forceRo = (if s.dev.curUp && holdoffOver s.pwr.forceRoAt s then b else s.pwr.forceRo) ∧
      (s.dev.curUp = true → holdoffOver s.pwr.forceRoAt s = true → s.pwr.forceRo ≠ b → u.dev.roMode = (b || s.loft.roCause == 1))) ∧
    (bit s.pwr.on 0 = true → s.dev.curUp = true → holdoffOver s.pwr.quiesceAt s = true →
      ∃ u, exec (.pinHoldoffExpiry .quiesceN) s = .next u ∧ u.pwr.quiesceIn = s.pwr.quiesceCnt) ∧
    (bit s.pwr.on 0 = true → s.dev.curUp = true → holdoffOver s.pwr.forceRoAt s = true →
      ∃ u, exec (.pinHoldoffExpiry .forceRo) s = .next u ∧ u.pwr.forceRo = s.pwr.forceRoCnt)

/-! The host ports. -/

/-- Effects of the rows CXL_LINK_UP, LINK_RETRAIN, CXL_PORT_RESET, CONFIG_REQUEST, MEMORY_INFO_VALID, IDE_CHECK_FAILURE, PTM_DIALOGUE,
PTM_VALID_TIMEOUT, DOE_DISCOVERY and CDAT_READ (R68, R70, R73, R306, R307, R673, R674, R684, R695, R697, R704, R711). Where the
registers lie in configuration space is the model's (notes/assumptions/30.md). -/
def Obligations.PortRowsComplete : Prop :=
  ∀ (s : State) (k : Nat), k < 8 →
    (∀ sp w, bit s.pwr.on 5 = true → (port s k).linkUp = false → trainable sp w = true →
      ∃ u, exec (.cxlLinkUp k sp w) s = .next u ∧
        port u k = { port s k with linkUp := true, speed := BitVec.ofNat 3 sp, width := BitVec.ofNat 4 w } ∧
        (∀ j, j ≠ k → port u j = port s j) ∧ { u with ports := s.ports, queues := s.queues } = s) ∧
    (∀ sp w, (port s k).linkUp = true → trainable sp w = true → exec (.linkRetrain k sp w) s
      = .next (modPort k (fun p => { p with linkUp := true, speed := BitVec.ofNat 3 sp, width := BitVec.ofNat 4 w }) s)) ∧
    (bit s.pwr.on 5 = true → ∃ u, exec (.cxlPortReset k) s = .next u ∧ (port u k).linkUp = false ∧
      (port u k).decoders = [] ∧ (port u k).busMaster = 0 ∧ (port u k).ptmValid = false ∧ (port u k).ideIo = IdeStream.off ∧
      (port u k).ideMem = IdeStream.off ∧ (port u k).actLd = (port s k).cfgLd ∧ (∀ j, j ≠ k → port u j = port s j) ∧
      (∀ x ∈ u.sessions, ∀ ld, x.ep ≠ .doe k ld) ∧ u.dev = s.dev ∧ fused u = fused s) ∧
    (∀ ld reg w, ld < ldCount (port s k) → (port s k).linkUp = true → ld < 4 → reg < 4096 → reg % 4 = 0 →
      (fuseDone s = false → exec (.configRequest k ld reg w) s = .next (emit (.configRetry k ld) s)) ∧
      (fuseDone s = true → w = none → ∃ v, exec (.configRequest k ld reg w) s
        = .next (emit (.configData k ld reg v) (configValue k ld reg s).2) ∧ (reg = 0 → v = 0x01601F3A) ∧
          (reg = 8 → v.toNat / 256 = 0x058000)) ∧
      (∀ v, fuseDone s = true → w = some v → exec (.configRequest k ld reg w) s = .next (configWrite k ld reg v s)) ∧
      (∀ v, bit (port (configWrite k ld 4 v s) k).busMaster ld = bit v 2)) ∧
    ((port s k).memInfo = false → fuseDone s = true → (port s k).resetEnd + 10000000 ≤ now s →
      exec (.memoryInfoValid k) s = .next (modPort k (fun p => { p with memInfo := true }) s)) ∧
    (∀ cachemem, (port s k).linkUp = true → (ideStream (port s k) cachemem).activeRx.isSome = true →
      ∃ u, exec (.ideCheckFailure k cachemem) s = .next u ∧ (ideStream (port u k) cachemem).insecure = true ∧
        ideStream (port u k) (!cachemem) = ideStream (port s k) (!cachemem) ∧ portIde (port u k) = 2 ∧
        (port u k).perfIde = satInc (port s k).perfIde ∧ bit u.evt.cause 7 = true ∧
        { u with ports := s.ports, evt := s.evt } = s) ∧
    (∀ h d, (port s k).linkUp = true → (port s k).ptmEnable = true →
      ∃ u, exec (.ptmDialogue k true h d) s = .next u ∧ (port u k).ptmOfs = s.dev.time - (h + d.zeroExtend 64) ∧
        (port u k).ptmDelay = d ∧ (port u k).ptmValid = true ∧ { u with ports := s.ports } = s) ∧
    (∀ h d, exec (.ptmDialogue k false h d) s = .next s) ∧
    ((port s k).ptmValid = true → (port s k).ptmLast.getD 0 + 100000000 ≤ now s →
      exec (.ptmValidTimeout k) s = .next (modPort k (fun p => { p with ptmValid := false }) s)) ∧
    (∀ ld n, ld < 4 → doeServed s k ld = true →
      (∃ l, exec (.doeDiscovery k ld n) s = .next (emit (.doe k ld l) s)) ∧
      ∃ l, exec (.cdatRead k ld n) s = .next (emit (.doe k ld l) s))

/-- R692: FetchAdd and Swap of 4 and 8 bytes and CAS of 4, 8 and 16 bytes, aligned, in the agent's own region: carried out there
and answered with the old value, a 16-byte CAS on two adjacent counters as one; no other counter changes. A misaligned one, one
outside the window and one outside the agent's own region (R690) are answered with Unsupported Request. -/
def Obligations.AtomicsActOnOwnCounters : Prop :=
  ∀ (s : State) (a w : Nat) (v : BitVec 64) (x y : BitVec 128), a < 32 → w < 0x80000 → ioServed s a = true →
    let c := (agent s a).company
    let at_ := 0x80000 + w
    let old := counterAt s w
    let part : Part := if w % 8 = 0 then .lo else .hi
    let half : BitVec 32 := if w % 8 = 0 then old.truncate 32 else (old >>> 32).truncate 32
    let acts := fun (i : Instr) (gives : BitVec 128) (new : BitVec 64) => ∃ u, exec i s = .next u ∧
      u.out = .atomicValue a gives :: s.out ∧ counterAt u w = new ∧
      (∀ j, j / 8 ≠ w / 8 → counterAt u j = counterAt s j) ∧ { u with atomics := s.atomics, out := s.out } = s
    (w % 8 = 0 → ownCounter c w = true → (rangeRefused s c 2 1 4 a w 8).isSome = false →
      acts (.fetchAdd a at_ 8 v) (old.zeroExtend 128) (old + v) ∧
      acts (.swap a at_ 8 v) (old.zeroExtend 128) v ∧
      acts (.cas a at_ 8 x y) (old.zeroExtend 128) (if old = x.truncate 64 then y.truncate 64 else old)) ∧
    (w % 4 = 0 → ownCounter c w = true → (rangeRefused s c 2 1 4 a w 4).isSome = false →
      acts (.fetchAdd a at_ 4 v) (half.zeroExtend 128) (mergePart old part ((half + v.truncate 32).zeroExtend 64)) ∧
      acts (.swap a at_ 4 v) (half.zeroExtend 128) (mergePart old part ((v.truncate 32).zeroExtend 64)) ∧
      acts (.cas a at_ 4 x y) (half.zeroExtend 128)
        (if half = x.truncate 32 then mergePart old part ((y.truncate 32).zeroExtend 64) else old)) ∧
    (w % 16 = 0 → ownCounter c w = true → (rangeRefused s c 2 1 4 a w 16).isSome = false →
      ∃ u, exec (.cas a at_ 16 x y) s = .next u ∧ u.out = .atomicValue a (counterAt s (w + 8) ++ old) :: s.out ∧
        counterAt u (w + 8) ++ counterAt u w = (if counterAt s (w + 8) ++ old = x then y else counterAt s (w + 8) ++ old) ∧
        (∀ j, j / 8 ≠ w / 8 → j / 8 ≠ w / 8 + 1 → counterAt u j = counterAt s j) ∧
        { u with atomics := s.atomics, out := s.out } = s) ∧
    (∀ off n, off < 0x100000 → (off < 0x80000 ∨ off % n ≠ 0 ∨ ownCounter c (off - 0x80000) = false) →
      (n ∈ [4, 8] → exec (.fetchAdd a off n v) s = .next (emit (.unsupported a) s) ∧
        exec (.swap a off n v) s = .next (emit (.unsupported a) s)) ∧
      (n ∈ [4, 8, 16] → exec (.cas a off n x y) s = .next (emit (.unsupported a) s)))

/-- CXL_MEM_READ and CXL_MEM_WRITE: an early access, one the rules refuse and one of an insecure port are answered with
poison or dropped, and counted; any other is served, through the bucket in LIMITED mode. A sealed page reads as its bytes and
is never written; a scratch object takes what is written, byte for byte (R72, R172, R214, R241, R681, R697, R699, R707, R774).
A page that has lost the copy of its window reads as unmapped (the model's reading, notes/assumptions/101.md). -/
def Obligations.MemoryAccessesAreServed : Prop :=
  ∀ (s : State) (a : Nat) (dpa : BitVec 64) (hold : LineHold) (b : List Byte),
    a < 32 → dpa.toNat % 64 = 0 → b.length = 64 →
    let d := dpa.toNat
    let c := (agent s a).company
    (memReaches s a d false = true →
      (memRefused s a = true → exec (.cxlMemRead a dpa hold) s = .next (answerPoison a d s)) ∧
      (memRefused s a = false → tooEarly s a d = true → exec (.cxlMemRead a dpa hold) s = .next (answerPoison a d
        { s with perf2 := { s.perf2 with earlyReads := satInc s.perf2.earlyReads } })) ∧
      (memRefused s a = false → tooEarly s a d = false →
        ((rangeRefused s c 2 0 1 a d 64).isSome = true →
          exec (.cxlMemRead a dpa hold) s = .next (answerPoison a d (countPortRefusal c s))) ∧
        ((rangeRefused s c 2 0 1 a d 64).isSome = false → s.store.bandwidth = false →
          exec (.cxlMemRead a dpa hold) s = .next (serveRead a c d hold none (now s) s)))) ∧
    (memReaches s a d true = true →
      (memRefused s a = true → exec (.cxlMemWrite a dpa b false) s = .next (answerAck a d s)) ∧
      (memRefused s a = false → tooEarly s a d = true → exec (.cxlMemWrite a dpa b false) s = .next (answerAck a d
        { s with perf2 := { s.perf2 with earlyWrites := satInc s.perf2.earlyWrites } })) ∧
      (memRefused s a = false → tooEarly s a d = false →
        ((rangeRefused s c 2 0 2 a d 64).isSome = true →
          exec (.cxlMemWrite a dpa b false) s = .next (answerAck a d (countPortRefusal c s))) ∧
        ((rangeRefused s c 2 0 2 a d 64).isSome = false → s.store.bandwidth = false →
          exec (.cxlMemWrite a dpa b false) s = .next (serveWrite a c d b none (now s) s)) ∧
        ((rangeRefused s c 2 0 2 a d 64).isSome = false → exec (.cxlMemWrite a dpa b true) s
          = .next (answerAck a d (modPort (agentPort s a) (fun p =>
            { p with perfPoison := satInc p.perfPoison, headerLog := some (a, d) }) s))))) ∧
    (∀ st o m, coherentAt d = none → regionAt s c d = some (st, o) → mappingAt s c st o = some m →
      (∀ id l off x, seenAt s c m.what (o - m.offset) = .page id l off → findScene s c id = some x →
        ((if isSplit s c then pageInTier s c (.scene id l) st else pageAbove s c (.scene id l)) = true →
          serveRead a c d hold none (now s) s = answerData a d (slice (x.pages.getD l []) off 64) s) ∧
        (isSplit s c = true → pageInTier s c (.scene id l) st = false → x.retired = false →
          serveRead a c d hold none (now s) s = answerPoison a d (countUnmapped s)) ∧
        serveWrite a c d b none (now s) s
          = answerAck a d { s with perf2 := { s.perf2 with sealedWrites := satInc s.perf2.sealedWrites } }) ∧
      (∀ h off x, seenAt s c m.what (o - m.offset) = .scratch h off → kget s.store.scratch h = some x →
        x.mem.wf = true →
        ∃ u y, serveWrite a c d b none (now s) s = answerAck a d u ∧ kget u.store.scratch h = some y ∧
          y.mem.reads off 64 = b ∧ (∀ i, i < off ∨ off + 64 ≤ i → y.mem.reads i 1 = x.mem.reads i 1) ∧
          (∀ j, j ≠ h → kget u.store.scratch j = kget s.store.scratch j) ∧
          { u with store := { u.store with scratch := s.store.scratch } } = s))

/-- Effects of the rows UNIFIED_LOFT_FILL, UNIFIED_LOAD_TIMEOUT, BIRSP, BI_SNOOP_TIMEOUT and TOKEN_BUCKET_RELEASE (R238, R240, R687, R689, R700). -/
def Obligations.WaitingRequestsGoOn : Prop :=
  ∀ (s : State),
    (∀ id x, findLoad s id = some x → x.answered = false → x.arrival + 1000000 ≤ now s →
      ∃ u, exec (.unifiedLoadTimeout id) s = .next (shContinue x.sh u) ∧
        (∀ y ∈ u.work.loads, y.id = id → y.answered = true) ∧
        u.perf.poisonLate = satInc s.perf.poisonLate ∧
        (x.sh = none → ∃ n, u.out = .memPoison x.agent x.dpa n :: s.out)) ∧
    (∀ id o x, findLoad s id = some x → x.dies.all (canRead s) = true → loadCanEnd s x.company x.what x.dies o = true →
      x.answered = false → x.sh = none →
      (o ≠ .failed → now s ≤ x.arrival + 1000000 → ∃ u, exec (.unifiedLoftFill id o) s = .next (installPage x o u) ∧
        findLoad u id = none ∧ ∃ n, u.out = .memData x.agent x.dpa (loadBytes s x) n :: s.out) ∧
      (o = .failed → ∃ u, exec (.unifiedLoftFill id o) s = .next (afterMedium (losePage x.company x.what u)) ∧
        findLoad u id = none ∧ u.perf.poisonMedia = satInc s.perf.poisonMedia ∧
        ∃ n, u.out = .memPoison x.agent x.dpa n :: s.out)) ∧
    (∀ a line w dirty, a < 32 → line < 1048576 → (∀ b, dirty = some b → b.length = 64) →
      s.snoopWaits.find? (fun w => w.target == ((agent s a).company, line) && w.waitFor.contains a) = some w →
      let c := (agent s a).company
      let s1 := (dirty.map fun b => writeLine c line 0 b s).getD s
      exec (.birsp a line dirty) s = .next (answered c line a (release c line a
        (w.target == (w.company, w.line) && w.data.isNone && w.hold != .exclusive) s1))) ∧
    (∀ a line, a < 32 → line < 1048576 →
      s.snoopWaits.any (fun w => w.target == ((agent s a).company, line) && w.waitFor.contains a
        && isLate w.since 4000000 s) = true →
      ∃ u, exec (.biSnoopTimeout a line) s = .next u ∧ bit u.evt.cause 7 = true ∧
        (port u (agentPort s a)).perfBi = satInc (port s (agentPort s a)).perfBi) ∧
    (∀ a n held r, a < 32 → (agent s a).waiting = (n, held) :: r →
      (s.store.bandwidth = true → n ≤ (refill (now s) (agent s a)).level) →
      exec (.tokenBucketRelease a) s = .next
        (let g := refill (now s) (agent s a)
         let u := modAgent a (fun _ => { g with waiting := r, level := if s.store.bandwidth then g.level - n else g.level }) s
         match held with
         | none => u
         | some (i, t) => serveHeld i t u))

/-! Sessions and management. -/

/-- The SPDM responder and IDE key management: every request is answered; one that comes before its negotiation with
UnexpectedRequest, one that is not supported with UnsupportedRequest; IDE_KM outside a session is refused (R788 to R791).
Codes are those of SPDM 1.2 (notes/assumptions/31.md). -/
def Obligations.SpdmRowsComplete : Prop :=
  ∀ (s : State) (ep : Endpoint), epOk ep = true → spdmServed s ep = true →
    exec (.getVersion ep) s = .next (reply ep 0x04 [0x12] (setLevel ep 1 s)) ∧
    (∀ code, spdmRequests.contains code.toNat = false →
      exec (.spdmUnsupportedRequest ep code) s = .next (spdmError ep 7 s)) ∧
    (1 ≤ spdmLevel s ep → exec (.getCapabilities ep) s
      = .next (reply ep 0x61 [capFlags] (setLevel ep (max 2 (spdmLevel s ep)) s))) ∧
    (∀ base hash dhe aead, 2 ≤ spdmLevel s ep → bit base 7 = true → bit hash 1 = true →
      exec (.negotiateAlgorithms ep base hash dhe aead) s
        = .next (reply ep 0x63 [0x80, 2, (dhe &&& 0x10).toNat, (aead &&& 2).toNat] (setLevel ep 3 s))) ∧
    (spdmLevel s ep < 3 → ∀ slot nonce, exec (.challenge ep slot nonce) s = .next (spdmError ep 4 s) ∧
      exec (.getDigests ep) s = .next (spdmError ep 4 s)) ∧
    (3 ≤ spdmLevel s ep →
      exec (.getDigests ep) s = .next (reply ep 0x01 [1, certDigest s] s) ∧
      (∀ off n, off < (certChainOf s).length → exec (.getCertificate ep 0 off n) s
        = .next (reply ep 0x02 ([0, (((certChainOf s).drop off).take n).length,
          (certChainOf s).length - off - (((certChainOf s).drop off).take n).length]
          ++ (((certChainOf s).drop off).take n).map (·.toNat)) s)) ∧
      (∀ nonce, exec (.challenge ep 0 nonce) s
        = .next (reply ep 0x03 (withSign s [0, certDigest s, nonce.toNat]) s)) ∧
      (∀ k nonce, 1 ≤ k → k ≤ 7 → exec (.getMeasurements ep k false nonce) s
        = .next (reply ep 0x60 [1, k, (measureBlock s k).toNat] s)) ∧
      (∀ id x, findSession s ep id = none → (sessionsOf s ep).length < sessionLimit ep →
        ∃ u, exec (.keyExchange ep 0 id x) s = .next u ∧
          u.sessions = s.sessions ++ [{ ep := ep, id := id, up := false, epoch := 0 }] ∧
          { u with sessions := s.sessions, out := s.out, free := s.free } = s) ∧
      (∀ id x, findSession s ep id = none → sessionLimit ep ≤ (sessionsOf s ep).length →
        exec (.keyExchange ep 0 id x) s = .next (spdmError ep 0x0A s)) ∧
      (∀ id v x, findSession s ep id = some x → x.up = false → exec (.finish ep id v) s
        = .next (if Config.finishOk id v then reply ep 0x65 [id] (setSession { x with up := true } s)
          else spdmError ep 6 (dropSession ep id s))) ∧
      (∀ id op x, findSession s ep id = some x → x.up = true → 1 ≤ op → op ≤ 3 → exec (.keyUpdate ep id op) s
        = .next (reply ep 0x69 [id, op] (if op = 3 then s else setSession { x with epoch := x.epoch + 1 } s))) ∧
      (∀ id x, findSession s ep id = some x → x.up = true →
        exec (.endSession ep id) s = .next (reply ep 0x6C [id] (dropSession ep id s)))) ∧
    (∀ id cm rx set key, ideAllowed s ep id = none →
      exec (.ideKmKeyProg ep id cm rx set key) s = .next (emit (.ideKm ep 3 4) s) ∧
      exec (.kSetGo ep id cm rx set) s = .next (emit (.ideKm ep 6 4) s) ∧
      exec (.kSetStop ep id cm rx set) s = .next (emit (.ideKm ep 6 4) s)) ∧
    (∀ id cm rx set key k, ideAllowed s ep id = some k → set < 2 →
      exec (.ideKmKeyProg ep id cm rx set key) s = .next (emit (.ideKm ep 3 0) (setIde k cm (fun x =>
        if rx then { x with keysRx := kset x.keysRx set key.toNat } else { x with keysTx := kset x.keysTx set key.toNat }) s)) ∧
      (khas (if rx then (ideStream (port s k) cm).keysRx else (ideStream (port s k) cm).keysTx) set = true →
        exec (.kSetGo ep id cm rx set) s = .next (emit (.ideKm ep 6 0) (setIde k cm (goStream rx set) s))) ∧
      exec (.kSetStop ep id cm rx set) s
        = .next (emit (.ideKm ep 6 0) (setIde k cm (fun x => { x with activeRx := none, activeTx := none }) s)))

/-- The fabric manager API, MCTP and PLDM: the telemetry that R679 names is answered, its set commands are refused, and
nothing but the answer changes, save the endpoint ID, the event receiver and the events polled (R679, R827, R889, R890). Codes are
those of CXL 3.1 and the DMTF (notes/assumptions/32.md). -/
def Obligations.ManagementRowsComplete : Prop :=
  ∀ (s : State),
    (∀ k, k < 8 → (port s k).linkUp = true → (port s k).actMld = true → fuseDone s = true →
      exec (.getLdInfo k) s
        = .next (emit (.fm k 0x5400 0 [((lds s k).map (ldBytes s k)).sum, ldCount (port s k), 1]) s) ∧
      exec (.getLdAllocations k) s = .next (emit (.fm k 0x5401 0 ((lds s k).map (ldBytes s k))) s) ∧
      exec (.getQosControl k) s = .next (emit (.fm k 0x5403 0 [b2n s.store.bandwidth]) s) ∧
      exec (.getQosStatus k) s = .next (emit (.fm k 0x5405 0 [100 * portLoad s k / requestQueue]) s) ∧
      exec (.getQosAllocatedBw k) s = .next (emit (.fm k 0x5406 0 (ldRates s k effRate)) s) ∧
      exec (.getQosBwLimit k) s
        = .next (emit (.fm k 0x5408 0 (ldRates s k fun g => if s.store.bandwidth then effRate g else 0)) s) ∧
      exec (.setLdAllocations k) s = .next (emit (.fm k 0x5402 3 []) s) ∧
      exec (.setQosControl k) s = .next (emit (.fm k 0x5404 3 []) s) ∧
      exec (.setQosAllocatedBw k) s = .next (emit (.fm k 0x5407 3 []) s) ∧
      exec (.setQosBwLimit k) s = .next (emit (.fm k 0x5409 3 []) s)) ∧
    (bit s.pwr.on 0 = true →
      (∀ e : BitVec 8, 8 ≤ e.toNat → e.toNat < 0xFF → exec (.setEndpointId e) s
        = .next (emit (.mctp 1 [0, e.toNat]) { s with health := { s.health with eid := e } })) ∧
      (∀ e : BitVec 8, (e.toNat < 8 ∨ e = 0xFF) → exec (.setEndpointId e) s
        = .next (emit (.mctp 1 [2, s.health.eid.toNat]) s)) ∧
      exec .getEndpointId s = .next (emit (.mctp 2 [0, s.health.eid.toNat]) s) ∧
      (∀ ty : BitVec 8, ty ∈ [0xFF, 0, 1, 5] → ∃ v, exec (.getMctpVersionSupport ty) s
        = .next (emit (.mctp 4 [0, 1, v]) { s with free := s.free + 1 })) ∧
      exec .getMessageTypeSupport s = .next (emit (.mctp 5 [0, 2, 1, 5]) s) ∧
      (∀ r, exec (.setEventReceiver r) s
        = .next (emit (.pldm 0x04 [0]) { s with health := { s.health with receiver := some r } })) ∧
      (s.health.waiting = [] → exec .pollForPlatformEventMessage s = .next (emit (.pldm 0x0B [0, 0]) s)) ∧
      (∀ e r, s.health.waiting = e :: r → exec .pollForPlatformEventMessage s
        = .next (emit (.pldm 0x0B [0, 1, e.1, e.2]) { s with health := { s.health with waiting := r } })) ∧
      (∀ k v, sensorReading s k = some v → exec (.pldmSensorRead k) s
        = .next (emit (.pldm (if k = 1 then 0x21 else 0x11) [0, k, v]) s)) ∧
      sensorReading s 1 = some ((healthState s).toNat + 1) ∧ sensorReading s 6 = some s.pwr.tjC.toNat ∧
      exec (.pldmBaseRequest 4) s = .next (emit (.pldm 4 [0, 0, 2]) s))

/-! Stagehand. -/

/-- Packets of the device's peers. One that no connection accepts is dropped and counted, whatever it is; a data packet again
received is acknowledged again; a new one is carried out on its connection (R722, R726, R728 to R737, R740, R741, R753). -/
def Obligations.PacketsActOnTheirConnection : Prop :=
  ∀ (s : State) (p : ShPacket),
    (Arrives p s → acceptedOn p s = none → ∀ i ∈ packetRows p, exec i s = .next (countDrop s)) ∧
    (∀ k x, Accepted p s k x → Duplicate p x → ∀ i ∈ dataRows p,
      exec i s = .next (sendAck k (heardFrom k p s))) ∧
    (∀ k x, Accepted p s k x → NewData p x →
      let s1 := dma x.entry.agent p.payload.length (heardFrom k p s)
      let base := (p.remote.toNat + 2 ^ 64 - p.offset.toNat) % 2 ^ 64
      let off := p.remote.toNat % 2 ^ 62
      (∀ m, inMsg x p.msgId.toNat 1 = some m → m.ended = false → disagrees p base (some m) = false →
        let u := placePayload k x p (setInMsg k m s1)
        exec (.shWrite p) s = .next (if shPending u (k, p.psn.toNat) then
          modConn k (fun y => { y with held := y.held ++ [p] }) u else writeVisible k p u)) ∧
      (inMsg x p.msgId.toNat 1 = none → disagrees p base none = false → openMsgs x < 1024 →
        p.offset.toNat ≤ off → mayReach s1 x 2 base p.length.toNat = true →
        let m : InMsg := { msgId := p.msgId.toNat, opcode := 1, length := p.length.toNat, remote := base, spans := [],
                           epoch := ((companyOf s1 x.company).map (·.epoch)).getD 0, notify := false, ended := false }
        let u := placePayload k x p (setInMsg k m s1)
        exec (.shWrite p) s = .next (if shPending u (k, p.psn.toNat) then
          modConn k (fun y => { y with held := y.held ++ [p] }) u else writeVisible k p u)) ∧
      (inMsg x p.msgId.toNat 1 = none → disagrees p base none = false → openMsgs x < 1024 →
        mayReach s1 x 2 base p.length.toNat = false → exec (.shWrite p) s = .next (refuseMsg k 1 1 p s1)) ∧
      (p.payload.length = 8 → p.offset = 0 → p.length ≠ 0 → p.length.toNat ≤ maxMessage → openMsgs x < 1024 →
        mayReach s1 x 1 p.remote.toNat p.length.toNat = true → p.remote.toNat / 2 ^ 62 = 1 →
        let r : InRead := { msgId := p.msgId.toNat, psn := p.psn, remote := p.remote.toNat, length := p.length.toNat,
                            land := leAt p.payload 0 8, epoch := ((companyOf s1 x.company).map (·.epoch)).getD 0, failed := false }
        exec (.readReq p) s = .next (shContinue (some (k, shReadKey p.msgId.toNat))
          (received k p.psn true (modConn k (fun y => { y with inReads := y.inReads ++ [r] }) s1)))) ∧
      (ownMsg x p.msgId.toNat [2] = none → exec (.readResp p) s = .next (received k p.psn false s1)) ∧
      (∀ o, ownMsg x p.msgId.toNat [2] = some o → disagrees p base (inMsg x p.msgId.toNat 3) = false →
        p.length.toNat = o.length → base = o.land.2.2 →
        let id := p.msgId.toNat
        let m := withSpan ((inMsg x id 3).getD { msgId := id, opcode := 3, length := p.length.toNat, remote := base,
                                                 spans := [], epoch := 0, notify := false, ended := false }) p
        let u := match o.owner.bind (findNet s1) with
          | some net => landBytes net p.offset.toNat p.payload s1
          | none => s1
        let v := received k p.psn true (dropOut k id false (dropInMsg k id 3 u))
        exec (.readResp p) s = .next (if allArrived m then
            (if (o.owner.bind (findNet v)).isSome then endNet (o.owner.getD 0) (okWith (w64 o.length) 0 0) v else v)
          else received k p.psn false (setInMsg k m u))) ∧
      (∀ o, ownMsg x p.msgId.toNat [2] = some o → disagrees p base (inMsg x p.msgId.toNat 3) = false →
        p.length.toNat = o.length → base ≠ o.land.2.2 →
        exec (.readResp p) s
          = .next (received k p.psn false (messageFailed o 0x201 (dropOut k p.msgId.toNat false s1)))) ∧
      (p.payload.length = 8 → p.length = 8 → p.offset = 0 → p.remote.toNat / 2 ^ 62 = 1 → off % 8 = 0 →
        mayReach s1 x 4 p.remote.toNat 8 = true →
        exec (.atomicAdd p) s = .next (received k p.psn true (queueMessage k p.msgId.toNat
          (response 6 0 9 (beBytes 8 (counterAt s1 off).toNat ++ [0]))
          (setCounter off (counterAt s1 off + w64 (beAt p.payload 0 8)) s1)))) ∧
      (p.payload.length = 16 → p.length = 8 → p.offset = 0 → p.remote.toNat / 2 ^ 62 = 1 → off % 8 = 0 →
        mayReach s1 x 4 p.remote.toNat 8 = true →
        let hit := counterAt s1 off == w64 (beAt p.payload 8 8)
        exec (.atomicCas p) s = .next (received k p.psn true (queueMessage k p.msgId.toNat
          (response 6 0 9 (beBytes 8 (counterAt s1 off).toNat ++ [if hit then 1 else 0]))
          (setCounter off (if hit then w64 (beAt p.payload 0 8) else counterAt s1 off) s1)))) ∧
      (∀ o seq, ownMsg x p.msgId.toNat [4, 5] = some o → o.owner = some seq →
        let u := dropOut k o.msgId false (received k p.psn true s1)
        (findNet u seq).isSome = true → exec (.atomicResp p) s = .next (endNet seq (okWith (w64 (beAt p.payload 0 8))
          (w64 (if o.opcode == 5 then b2n (bit (p.payload.getD 8 0) 0) else 0)) 0) u)) ∧
      (∀ o, ownMsg x p.msgId.toNat [1, 2, 4, 5] = some o → exec (.nak p) s
        = .next (messageFailed o (nakStatus (p.payload.getD 0 0).toNat)
          (dropOut k o.msgId false (received k p.psn true s1))))) ∧
    (∀ k x, Accepted p s k x →
      (x.state = 2 → p.payload.length = 40 → ∃ u l, exec (.ack p) s = .next (afterRoom (declareLost k l u)) ∧
        ∀ q ∈ l, q ∈ x.sent ∧ ackCovers (leAt p.payload 0 4) (p.payload.drop 8) q.pkt.psn = false) ∧
      (x.state = 1 → p.payload.length = 8 → exec (.syncAck p) s
        = .next (setUp k (modConn k (fun y => { y with ackSeen := true }) (takeSync k p (heardFrom k p s))))) ∧
      (x.state = 1 → p.payload.length = 8 → ∃ y, conn (heardFrom k p (takeSync k p (wakeConn k s))) k = some y ∧
        let u := sendControl k 0x21 (syncPayload y) (heardFrom k p (takeSync k p (wakeConn k s)))
        exec (.sync p) s = .next (if y.ackSeen then setUp k u else u)))

/-- Timers and sending of a connection, the wait for one, and the Ethernet ports' own traffic (R716, R722, R727, R733, R735,
R737 to R739, R750, R757). -/
def Obligations.StagehandTimersAct : Prop :=
  ∀ (s : State) (k : Nat),
    (∀ x, conn (wakeConn k s) k = some x → hasStagehand s = true → x.state = 1 →
      exec (.syncTimer k) s = .next (sendControl k 0x20 (syncPayload x) (wakeConn k s))) ∧
    (∀ x, conn s k = some x →
      (x.unacked ≠ 0 → x.unackedAt + 8000 ≤ now s → exec (.ackTimer k) s = .next (sendAck k s)) ∧
      (x.state = 2 → s.health.stagehandFailed = false → ∀ q, x.sent.find? (·.lost) = some q →
        exec (.stagehandSend k) s = .next (resend k x q s)) ∧
      (x.state = 2 → s.health.stagehandFailed = false → x.sent.find? (·.lost) = none →
        ∀ m, x.outMsgs.find? (fun m => decide (m.sent < m.data.length)) = some m →
          exec (.stagehandSend k) s = .next (sendNext k x m s)) ∧
      (∀ psn q, x.sent.find? (fun q => q.pkt.psn.toNat == psn && !q.lost) = some q → q.sentAt + rto x ≤ now s →
        (q.retries < 8 → exec (.retransmitTimeout k psn) s = .next (markLost k q.pkt.psn s)) ∧
        (8 ≤ q.retries → exec (.retransmitTimeout k psn) s = .next (loseConn k s))) ∧
      (∀ t r, x.sent.map (·.firstAt) = t :: r → max x.lastRx (r.foldl min t) + 100000000 ≤ now s →
        exec (.peerSilenceTimeout k) s = .next (loseConn k s)) ∧
      (∀ e, ∃ u y, exec (.entropyRestore k e) s = .next u ∧ conn u k = some y ∧
        y.removed = x.removed.filter (fun p => !(p.1 == e && decide (p.2 + 1000000 ≤ now s))) ∧
        { u with conns := s.conns } = s)) ∧
    (∀ r t o, s.taken.find? (fun t => t.queue == r.queue && t.tag == r.tag && t.running
        && (t.opcode == 0x58 || t.opcode == 0x59)) = some t → findNet s t.seq = some o → o.msg = none →
      ((conn s o.conn).map (·.state)).getD 0 ≠ 2 → t.time + 100000000 ≤ now s → exec (.connectionWaitTimeout r) s = .next (endNet t.seq (status 0x602) s)) ∧
    (k < 4 → hasEth s = true → bit s.pwr.on 5 = true → ∀ up, exec (.ethLinkChange k up) s
      = .next (modEth k (fun e => { e with linkUp := up, fecLock := up, gw := up && e.gw }) s)) ∧
    (k < 4 → frameArrives s k = true →
      exec (.droppedFrame k) s = .next (countDrop s) ∧
      (∀ a b : BitVec 32, ethIp (ethPort s k) false = a.toNat → a ≠ 0 →
        exec (.arp k true a b) s = .next (emit (.frame k 1 [a.toNat, b.toNat]) s)) ∧
      (∀ a b : BitVec 32, ethIp (ethPort s k) false ≠ 0 → b.toNat = ethGateway (ethPort s k) false →
        exec (.arp k false a b) s = .next (modEth k (fun e => { e with gw := true }) s)) ∧
      (∀ a b : BitVec 128, ethIp (ethPort s k) true = a.toNat → a ≠ 0 →
        exec (.neighborDiscovery k true a b) s = .next (emit (.frame k 2 [a.toNat, b.toNat]) s)) ∧
      (∀ (v6 : Bool) (a b : BitVec 128) (l : List Byte), ethIp (ethPort s k) v6 = a.toNat → a ≠ 0 →
        exec (.icmpEcho k v6 a b l) s = .next (emit (.frame k 3 ([b.toNat, a.toNat] ++ l.map (·.toNat))) s)))

/-! Delivery, attention and rule changes. -/

/-- Effects of the rows CUE_NOT_BEFORE, CUE_CUTOFF, ATTEND_CUTOFF, WEIGHTS_LAYER_CUTOFF, WEIGHTS_SLOT_FREE, STAGING_COMPLETE, ALLOTMENT_DISPATCH and
SCORING_BATCH_COMPLETE (R234, R311, R327, R330, R369, R380, R422, R642).
How lateness is parted between causes, and how long working-area copies last, is the model's reading (notes/assumptions/48.md, 121.md). -/
def Obligations.DeliveryEventsAct : Prop :=
  ∀ (s : State) (r : CmdRef),
    (∀ t op, cueRunning r s = some t → cueOf s t.seq = some op →
      (op.begun = false → op.notBefore ≤ now s →
        exec (.cueNotBefore r) s = .next (progressCues (modCue op.seq (fun o => { o with begun := true }) s))) ∧
      (op.deadlineMode = true → op.cutDone = false → op.deadline.getD 0 - op.guard ≤ now s →
        exec (.cueCutoff r) s = .next (progressCues (missItems op.seq (fun i => !itemReady s t.company i)
          (modCue op.seq (fun o => { o with cutDone := true }) s))))) ∧
    (∀ t op, attRunning r s = some t → attOf s t.seq = some op → op.deadlineMode = true → op.cutDone = false →
      op.deadline.getD 0 - op.guard ≤ now s → exec (.attendCutoff r) s
        = .next (progressAtt op.seq (modAtt op.seq (fun o => { o with cutDone := true })
          (excludePages op (fun i j => !pageReady s t.company (.scene (rowScene (rowD op.rows i) j) op.layer)) s)))) ∧
    (∀ t, findRunning 0x49 r s = some t → exec (.weightsSlotFree r) s = .next (progressStream t.seq s)) ∧
    (∀ t op j, findRunning 0x49 r s = some t → wsOf s t.seq = some op → op.deadlineMode = true → j < op.layers.length →
      op.sent.contains j = false → op.missed.contains j = false → layerDeadline op j - op.guard ≤ now s →
      exec (.weightsLayerCutoff r j) s
        = .next (progressStream t.seq (modWs t.seq (fun o => { o with missed := o.missed ++ [j] }) s))) ∧
    (∀ c what, (∃ g ∈ s.work.staging, g.company = c ∧ g.what = what ∧ g.ended.isSome = true) →
      exec (.stagingComplete c what) s = .next (issueReads (resume
        ((s.work.staging.filter fun g => g.company == c && g.what == what && g.ended.isSome).foldl (fun s g => landCopy g s) s)))) ∧
    (∀ g, refBytes s g.company g.what ≠ 0 → g.allocated = true → landCopy g s = setPage g.company g.what g.stage
      (countLate g (modWork (fun w => { w with staging := w.staging.filter (· != g) }) s))) ∧
    (∀ c op a t, c < 160 → nextAllot s = some (op, a) → s.taken.find? (·.seq == op.seq) = some t →
      allotFree s c t.company = true → op.split = false →
      let row := rowD op.rows (a / blocksOf (modelD s op.model) op)
      exec (.allotmentDispatch c) s = .next (progressAtt op.seq (modAtt op.seq
        (fun o => { o with todo := o.todo.tail, active := o.active ++ [(c, a)] })
        (translate row.mode (c / 10) t.company
          ((keptPages op (a / blocksOf (modelD s op.model) op)).map (rowScene row)) (holdAllot c t.company s))))) ∧
    (∀ c op a t, c < 160 → nextAllot s = some (op, a) → s.taken.find? (·.seq == op.seq) = some t →
      allotFree s c t.company = true → op.split = true → partners s c t.company ≠ [] →
      let row := rowD op.rows (a / blocksOf (modelD s op.model) op)
      ∃ d ∈ partners s c t.company, exec (.allotmentDispatch c) s = .next (progressAtt op.seq (modAtt op.seq
        (fun o => { o with todo := o.todo.tail, active := o.active ++ [(c, a), (d, a)] })
        (translate row.mode (c / 10) t.company
          ((keptPages op (a / blocksOf (modelD s op.model) op)).map (rowScene row))
          (holdAllot d t.company (holdAllot c t.company { s with free := s.free + 1 })))))) ∧
    (∀ t o unread, bit s.pwr.on 6 = true → findRunning 0x42 r s = some t →
      s.work.sketches.find? (·.seq == t.seq) = some o →
      let y := runBatch t (sketchScorer o) unread s
      (y.1.scores.length < pageCount y.1.rows → exec (.scoringBatchComplete r unread) s
        = .next (modWork (fun w => { w with sketches := w.sketches.map fun z =>
            if z.seq == o.seq then { z with scores := y.1.scores } else z }) y.2)) ∧
      (pageCount y.1.rows ≤ y.1.scores.length → exec (.scoringBatchComplete r unread) s
        = .next (finish t (okWith (w64 y.1.scores.length) 0 0)
          (toHost t o.addr (y.1.scores.flatMap fun v => leBytes 2 v.toNat)
            (modWork (fun w => { w with sketches := w.sketches.filter (·.seq != o.seq) }) y.2)))))

/-- RULES_SWITCH in its turn, RULES_GRACE_EXPIRY and RULES_DRAIN_COMPLETE (R599, R776, R778 to R782). The switch puts the new
table in force, the epoch one on. -/
def Obligations.RulesChangeInTurn : Prop :=
  ∀ (s : State),
    (∀ r t o, findRunning 0x0A r s = some t → s.work.rules.find? (fun o => o.seq == t.seq && !o.switched) = some o →
      (∀ u ∈ s.taken, u.opcode = 0x0A → u.company = t.company → t.seq ≤ u.seq) →
      (companyOf s o.company = none → exec (.rulesSwitch r) s = .next (finish t (badAt 10 0) (dropRules t.seq s))) ∧
      (∀ k, companyOf s o.company = some k → connsOver s o.company o.table = true →
        exec (.rulesSwitch r) s = .next (finish t (status 0x302) (dropRules t.seq s))) ∧
      (∀ k, companyOf s o.company = some k → connsOver s o.company o.table = false → k.ruleLock = true →
        exec (.rulesSwitch r) s = .next (finish t (status 0x204) (dropRules t.seq s))) ∧
      (∀ k, companyOf s o.company = some k → connsOver s o.company o.table = false → k.ruleLock = false →
        exec (.rulesSwitch r) s = .next (switchRules t o s))) ∧
    (∀ t o k, companyOf s o.company = some k → o.table.graceMs ≠ 0 → ∃ x, companyOf (switchRules t o s) o.company = some x ∧
      x.table = o.table ∧ x.epoch = k.epoch + 1 ∧ x.ruleLock = (k.ruleLock || o.table.lock)) ∧
    (∀ c o, s.work.rules.find? (fun o => o.company == c && o.switched) = some o →
      o.switchAt + 1000000 * (tableOf s c).graceMs ≤ now s → exec (.rulesGraceExpiry c) s = .next (endGrace o s)) ∧
    (∀ r t o, findRunning 0x0A r s = some t →
      s.work.rules.find? (fun o => o.seq == t.seq && o.switched && o.recorded) = some o → hasDrained s o = true →
      let shut := (s.queues.filter fun p => p.2.ringsBad && p.2.company == o.company).map (·.1)
      exec (.rulesDrainComplete r) s = .next (finish t (okWith (w64 o.newEpoch.toNat) (w64 shut.length) 0)
        (changeConns o.company (deleteShut t shut (dropRules t.seq s)))))

/-! The Loft medium and failures. -/

/-- Reads, programs and records of the Loft: WRITE_BACK_START, LOFT_PROGRAM_COMPLETE, LOFT_ERASE_COMPLETE, STRIPE_CLOSE_TIMER,
JOURNAL_RECORD_COMPLETE, INDEX_CHECKPOINT and LOFT_READ_COMPLETE (R188, R190, R221, R259 to R262, R276 to R279, R285, R286).
Groups, members, blocks and journal channels that the spec leaves open are the model's (notes/assumptions/46.md, 47.md, 110.md). -/
def Obligations.LoftOperationsComplete : Prop :=
  ∀ (s : State), loftOn s = true →
    (∀ u, s.loft.roCause ≠ 1 → s.loft.wbQueue.findSome? (startWriteBack s) = some u →
      exec .writeBackStart s = .next u) ∧
    (∀ o k m, o.die < 1024 → o.block < 4096 → dieWorks s o.die = true → (die s o.die).suspended = false →
      ((die s o.die).op = some (.program k m) →
        (o.failed = false → exec (.loftProgramComplete o) s = .next (afterMedium (landUnit o.die k m (drawsReserve s k) s))) ∧
        (o.failed = true → o.block ∈ targetBlocks s o.die (drawsReserve s k) →
          exec (.loftProgramComplete o) s = .next (blockFails o.die o.block (againLater o.die k m (endOp o.die s))))) ∧
      ((die s o.die).op = some (.rebuild k m) → o.failed = false →
        exec (.loftProgramComplete o) s = .next (afterMedium (landRebuilt o.die k m false s)))) ∧
    (∀ d k m r p u, kget s.loft.stripes k = some p → unitOf p m = some u →
      ∃ q, kget (landUnit d k m r s).loft.stripes k = some q ∧ ∃ v, unitOf q m = some v ∧ v.st = .done ∧
        v.blocks = targetBlocks s d r ∧ v.data = u.data ∧ v.spans = u.spans) ∧
    (∀ d b, d < 1024 → b < 4096 → dieWorks s d = true → (die s d).op = some (.erase b) → (die s d).suspended = false →
      (die s d).duskHeld = false →
      exec (.loftEraseComplete d b false) s = .next (afterMedium (blockErased d b (eraseEnds d b s))) ∧
      exec (.loftEraseComplete d b true) s = .next (blockFails d b (eraseEnds d b s)) ∧
      blk (die (blockErased d b s) d) b = { blk (die s d) b with pe := (blk (die s d) b).pe + 1, used := 0, reads := 0, moving := false }) ∧
    (∀ h k p, h < 2 → kget s.loft.openStripe h = some k → kget s.loft.stripes k = some p → p.units ≠ [] →
      p.openAt + 50000000 ≤ now s → exec (.stripeCloseTimer h) s = .next (afterMedium (closeStripe k s))) ∧
    (s.loft.jprog ≠ 0 → exec .journalRecordComplete s
      = .next (settle (startJournal ((s.loft.journal.take s.loft.jprog).foldl
        (fun s r => completeRecord r (recordDone r.kind s))
        (modLoft (fun l => { l with jprog := 0 }) (writeRecords s.loft.jprog s)))))) ∧
    (programsHeld s = false → s.dev.curUp = true →
      (2 ^ 24 ≤ s.loft.written.length ∨ (s.loft.written ≠ [] ∧ s.loft.ckptAt + 600000000000 ≤ now s)) →
      exec .indexCheckpoint s = .next (writeCheckpoint s) ∧ (writeCheckpoint s).loft.written = []) ∧
    (∀ c what o g, s.work.staging.find? (fun g => g.company == c && g.what == what && g.issued && g.ended.isNone
        && readMayEnd s g o) = some g → refBytes (readEnds g o s) c what ≠ 0 →
      (o ≠ .failed → exec (.loftReadComplete c what o) s = .next (issueReads (readEnds g o s))) ∧
      (o = .failed → pageAbove (readEnds g o s) c what = true →
        exec (.loftReadComplete c what o) s = .next (issueReads (losePage c what (readEnds g o s)))) ∧
      (o = .failed → pageAbove (readEnds g o s) c what = false → pageRetired (readEnds g o s) c what = false →
        exec (.loftReadComplete c what o) s = .next (afterMedium (retirePage c what (!g.waiters.isEmpty) (readEnds g o s)))))

/-- Background work and failures of the dies: SUSPEND_EXPIRY, PATROL_SCRUB, READ_RETRY_CALIBRATION, CALIBRATION_OVERDUE,
READ_DISTURB_REFRESH, RECLAMATION, STATIC_WEAR_LEVELLING, DIE_FAILURE and REBUILD_COMPLETE (R266, R267, R268, R271, R274, R279,
R291 to R293, R297).
What is relocated with a block, and units not yet programmed on a failed die, follow the model's reading (notes/assumptions/47.md, 49.md,
127.md). -/
def Obligations.BackgroundWorkCompletes : Prop :=
  ∀ (s : State) (d b : Nat), d < 1024 → b < 4096 →
    ((die s d).suspended = true → ((die s d).reads = 0 ∨ (die s d).suspendAt + 500000 ≤ now s) →
      exec (.suspendExpiry d) s = .next (redirectLoads d (modDie d (fun x => { x with suspended := false }) s))) ∧
    (∀ o lost, scrubFree s d = true → scrubDue s d b = true →
      exec (.patrolScrub d b o lost) s = .next (afterMedium (endPass (scrubBlock d b o lost.pages s)))) ∧
    (∀ lost, let t := modBlk d b (fun y => { y with scrubAt := s.health.lifeS.toNat }) s
      scrubBlock d b .hard lost s = t ∧
      (s.dev.roMode = false → (blk (die s d) b).moving = false → scrubBlock d b .retried lost s
        = relocate d b (modPerf (fun p => { p with retentionMoves := satInc p.retentionMoves }) t)) ∧
      (blockRebuilds t d b = true → scrubBlock d b .rebuilt lost s = badBlock d b t) ∧
      scrubBlock d b .failed lost s = badBlock d b (losePages (lost.filter (liesIn t d b)) t)) ∧
    (∀ moved, loftOn s = true → dieWorks s d = true →
      (onHold s d = true ∨ (scrubFree s d = true ∧ (moved = true ∨ (die s d).calibAt + calibPeriod s ≤ now s))) →
      exec (.readRetryCalibration d true moved) s
        = .next (kick d (modDie d (fun x => { x with calibAt := now s, heldAt := none }) s)) ∧
      exec (.readRetryCalibration d false moved) s = .next (failDie d s)) ∧
    (∀ moved t, loftOn s = true → dieWorks s d = true → onHold s d = false → calibSince s d moved + 30000000000 ≤ now s →
      (die s d).busySince = some t → t + 30000000000 ≤ now s →
      exec (.calibrationOverdue d moved) s = .next (redirectLoads d (modWork (fun w => { w with staging := w.staging.map (fun g =>
          if (g.issued && g.ended.isNone && g.dies.contains d) then { g with held := true } else g) })
        (modPerf (fun p => { p with calibHolds := satInc p.calibHolds })
          (modDie d (fun x => { x with heldAt := some (now s) }) s))))) ∧
    (dieIdle s d = true → s.dev.roMode = false → (blk (die s d) b).moving = false →
      (100000 ≤ (blk (die s d) b).reads → exec (.readDisturbRefresh d b) s
        = .next (afterMedium (relocate d b (modPerf (fun p => { p with disturbMoves := satInc p.disturbMoves }) s)))) ∧
      (erasedBlocks s d < 32 → reclaimable s d b = true →
        (∀ k, reclaimable s d k = true → staleBytes s d k ≤ staleBytes s d b) →
        exec (.reclamation d b) s = .next (afterMedium (relocate d b s))) ∧
      ∃ x, kget (relocate d b s).loft.dies d = some x ∧ (blk x b).moving = true) ∧
    (∀ worn, worn < 4096 → dieIdle s d = true → programsHeld s = false → s.dev.roMode = false → 250 < peSpread (die s d) →
      isColdest s d b = true → isMostWorn s d worn = true →
      exec (.staticWearLevelling d b worn) s = .next (afterMedium (shiftBlock d b worn s))) ∧
    (loftOn s = true → dieWorks s d = true → exec (.dieFailure d) s = .next (failDie d s)) ∧
    (loftOn s = true → s.dev.curUp = true → d ∈ s.loft.rebuilding → (∀ r ∈ s.loft.rebuilds, r.die ≠ d) →
      ∃ u, exec (.rebuildComplete d) s = .next u ∧ (die u d).state = 3 ∧ d ∉ u.loft.rebuilding ∧
        u.loft.rebuildActive = !u.loft.rebuilding.isEmpty)

/-- What fails in service is repaired or reported: CLUSTER_FAILURE, STAGE_ROW_REPAIR, WINGS_ROW_REPAIR, LINK_DEATH and
UNIT_FAILURE (R119, R120, R813 to R824).
Which of several clusters competes first for an understudy, which parted pair comes first, and which copies a slice held, are the model's
(notes/assumptions/80.md, 82.md, 114.md). -/
def Obligations.FailuresAreRepaired : Prop :=
  ∀ (s : State), upFrom 7 s = true →
    (∀ p row lost, p < 176 → clusterWorks s p = true → ∃ u, exec (.clusterFailure p row lost) s = .next u ∧
      u = failCluster p row lost s ∧ (cluster u p).mapState = 2 ∧ p ∈ u.health.repairMap) ∧
    (∀ p row lost, p < 176 → row < 3200 → clusterWorks s p = true →
      (16 ≤ (cluster s p).rowsUsed → exec (.stageRowRepair p row lost) s
        = .next (failCluster p true lost (healthRecord 1 1 p (Config.recordRepl 1 p none) s))) ∧
      ((cluster s p).rowsUsed < 16 → (clusterServes s p = false ∨ clusterFree s (cluster s p).logical.toNat = true) →
        exec (.stageRowRepair p row lost) s = .next (loseRow true lost (healthRecord 1 0 p (Config.recordRepl 1 p (some (cluster s p).rowsUsed))
          (recountRows (modCluster p (fun x => { x with rowsUsed := (cluster s p).rowsUsed + 1 }) s)))))) ∧
    (∀ stack row lost, stack < 8 → exec (.wingsRowRepair stack row lost) s
      = .next (failRow stack row (loseRow false lost s))) ∧
    (∀ stack row, s.health.wingsRsv = 0 → bit (failRow stack row s).health.cause 17 = true) ∧
    (∀ stack row, s.health.wingsRsv ≠ 0 → s.health.pprLeft.getD stack 0 ≠ 0 → stack < s.health.pprLeft.length →
      (failRow stack row s).health.pprLeft.getD stack 0 = s.health.pprLeft.getD stack 0 - 1 ∧
      (failRow stack row s).health.wingsRsv = s.health.wingsRsv) ∧
    (∀ p dir failing k, linkAt p dir = some k → (deadSet s).contains k = false → failing ≤ 34 → 19 ≤ failing →
      exec (.linkDeath p dir failing) s = .next (healMesh 176 (steerLanes p dir failing s)) ∧
      (failingLanes s k < failing → (deadSet (steerLanes p dir failing s)).contains k = true)) ∧
    (hasPrompter s = true → s.health.prompterFailed = false → ∃ u, exec (.unitFailure false) s = .next u ∧
      u.health.prompterFailed = true ∧ bit u.health.cause 10 = true) ∧
    (hasStagehand s = true → s.health.stagehandFailed = false → ∃ u, exec (.unitFailure true) s = .next u ∧
      u.health.stagehandFailed = true ∧ bit u.health.cause 10 = true ∧ ∀ k x, conn u k = some x → x.state = 0)

end Statements
end

