-- ==== Sys2Proof/Laws/Maps.lean ====
section
/-!
SUPPORT. Laws of numbered maps and of byte memories: what is read after a write, and that every memory operation keeps the
canonical form.
-/
namespace Sys2Proof.Machine
open Sys2Proof

/-! Numbered maps. -/

@[simp] theorem kget_nil {α : Type} (n : Nat) : kget ([] : KMap α) n = none := rfl

theorem kget_kset {α : Type} (m : KMap α) (n j : Nat) (x : α) :
    kget (kset m n x) j = if j = n then some x else kget m j := by
  induction m with
  | nil => simp [kset, kget, eq_comm]
  | cons p r ih =>
    obtain ⟨k, v⟩ := p
    simp only [kset]
    split
    · simp only [kget]; grind
    · split
      · simp only [kget]; grind
      · simp only [kget, ih]; grind

@[simp] theorem kget_kset_same {α : Type} (m : KMap α) (n : Nat) (x : α) : kget (kset m n x) n = some x := by
  simp [kget_kset]

theorem kget_kset_other {α : Type} (m : KMap α) {n j : Nat} (x : α) (h : j ≠ n) : kget (kset m n x) j = kget m j := by
  simp [kget_kset, h]

theorem kget_kmod {α : Type} (m : KMap α) (n j : Nat) (f : α → α) :
    kget (kmod m n f) j = if j = n then (kget m n).map f else kget m j := by
  unfold kmod
  cases h : kget m n with
  | none => by_cases hj : j = n <;> simp_all
  | some x => simp [kget_kset]

@[simp] theorem kget_kmod_same {α : Type} (m : KMap α) (n : Nat) (f : α → α) :
    kget (kmod m n f) n = (kget m n).map f := by simp [kget_kmod]

theorem kget_kmod_other {α : Type} (m : KMap α) {n j : Nat} (f : α → α) (h : j ≠ n) :
    kget (kmod m n f) j = kget m j := by simp [kget_kmod, h]

theorem kgetD_kmodD {α : Type} (m : KMap α) (n j : Nat) (d e : α) (f : α → α) :
    kgetD (kmodD m n d f) j e = if j = n then f (kgetD m n d) else kgetD m j e := by
  unfold kmodD kgetD
  rw [kget_kset]
  split <;> rfl

@[simp] theorem kgetD_kmodD_same {α : Type} (m : KMap α) (n : Nat) (d e : α) (f : α → α) :
    kgetD (kmodD m n d f) n e = f (kgetD m n d) := by simp [kgetD_kmodD]

theorem kgetD_kmodD_other {α : Type} (m : KMap α) {n j : Nat} (d e : α) (f : α → α) (h : j ≠ n) :
    kgetD (kmodD m n d f) j e = kgetD m j e := by simp [kgetD_kmodD, h]

@[simp] theorem kget_kmap {α : Type} (m : KMap α) (f : Nat → α → α) (n : Nat) :
    kget (kmap m f) n = (kget m n).map (f n) := by
  unfold kmap
  induction m with
  | nil => rfl
  | cons p r ih =>
    obtain ⟨k, v⟩ := p
    simp only [List.map_cons, kget]
    split
    · next h => subst h; rfl
    · exact ih

theorem keys_kmap {α : Type} (m : KMap α) (f : Nat → α → α) : (kmap m f).map (·.1) = m.map (·.1) := by
  simp [kmap, Function.comp_def]

theorem kget_kdel_other {α : Type} (m : KMap α) {n j : Nat} (h : j ≠ n) : kget (kdel m n) j = kget m j := by
  induction m with
  | nil => rfl
  | cons p r ih =>
    obtain ⟨k, v⟩ := p
    simp only [kdel]
    split
    · next hk => simp only [kget]; grind
    · simp only [kget, ih]

/-! Byte memories: the canonical form is kept. -/

/-- Every address of a memory lies above a bound, and the memory is canonical. -/
theorem wf_cons (k : Nat) (v : Byte) (r : Memory) :
    Memory.wf ((k, v) :: r) = true ↔ v ≠ 0 ∧ Memory.wf r = true ∧ ∀ p ∈ r.head?, k < p.1 := by
  cases r with
  | nil => simp [Memory.wf]
  | cons p r => obtain ⟨k', v'⟩ := p; simp [Memory.wf, and_comm]

theorem insert_head (m : Memory) (a : Nat) (b : Byte) (k : Nat) (hk : k < a) (h : ∀ p ∈ m.head?, k < p.1) :
    ∀ p ∈ (Memory.insert m a b).head?, k < p.1 := by
  cases m with
  | nil => simp [Memory.insert, hk]
  | cons p r =>
    obtain ⟨x, v⟩ := p
    simp only [Memory.insert]
    simp only [List.head?_cons, Option.mem_def, Option.some.injEq, forall_eq'] at h
    split
    · simpa using hk
    · split <;> simp [hk, h]

theorem insert_wf (m : Memory) (a : Nat) (b : Byte) (hb : b ≠ 0) (h : Memory.wf m = true) :
    Memory.wf (Memory.insert m a b) = true := by
  induction m with
  | nil => simpa [Memory.insert, Memory.wf] using hb
  | cons p r ih =>
    obtain ⟨k, v⟩ := p
    have h' := (wf_cons k v r).1 h
    simp only [Memory.insert]
    split
    · next hlt => exact (wf_cons _ _ _).2 ⟨hb, h, by simpa using hlt⟩
    · split
      · next heq => subst heq; exact (wf_cons _ _ _).2 ⟨hb, h'.2.1, h'.2.2⟩
      · next h1 h2 => exact (wf_cons _ _ _).2 ⟨h'.1, ih h'.2.1, insert_head r a b k (by omega) h'.2.2⟩

theorem wf_bound (m : Memory) (k : Nat) (h : Memory.wf m = true) (hk : ∀ p ∈ m.head?, k < p.1) : ∀ p ∈ m, k < p.1 := by
  induction m generalizing k with
  | nil => simp
  | cons p r ih =>
    obtain ⟨x, v⟩ := p
    have hx : k < x := by simpa using hk
    have h' := (wf_cons x v r).1 h
    intro q hq
    rcases List.mem_cons.1 hq with rfl | hq
    · exact hx
    · exact Nat.lt_trans hx (ih x h'.2.1 h'.2.2 q hq)

theorem erase_sub (m : Memory) (a : Nat) : ∀ p ∈ Memory.erase m a, p ∈ m := by
  induction m with
  | nil => simp [Memory.erase]
  | cons p r ih =>
    obtain ⟨k, v⟩ := p
    simp only [Memory.erase]
    split
    · intro q hq; exact List.mem_cons_of_mem _ hq
    · intro q hq
      rcases List.mem_cons.1 hq with rfl | hq
      · exact List.mem_cons_self
      · exact List.mem_cons_of_mem _ (ih q hq)

theorem erase_wf (m : Memory) (a : Nat) (h : Memory.wf m = true) : Memory.wf (Memory.erase m a) = true := by
  induction m with
  | nil => rfl
  | cons p r ih =>
    obtain ⟨k, v⟩ := p
    have h' := (wf_cons k v r).1 h
    simp only [Memory.erase]
    split
    · exact h'.2.1
    · refine (wf_cons _ _ _).2 ⟨h'.1, ih h'.2.1, ?_⟩
      intro q hq
      exact wf_bound r k h'.2.1 h'.2.2 q (erase_sub r a q (List.mem_of_mem_head? hq))

/-- Every write keeps the canonical form. -/
theorem write_wf (m : Memory) (a : Nat) (b : Byte) (h : Memory.wf m = true) : Memory.wf (Memory.write m a b) = true := by
  unfold Memory.write
  split
  · exact erase_wf m a h
  · next hb => exact insert_wf m a b hb h

theorem writes_wf (l : List Byte) : ∀ (m : Memory) (a : Nat), Memory.wf m = true → Memory.wf (Memory.writes m a l) = true := by
  induction l with
  | nil => intro m a h; exact h
  | cons b r ih => intro m a h; exact ih _ _ (write_wf m a b h)

/-! Reading after a write. -/

theorem read_insert (m : Memory) (a j : Nat) (b : Byte) :
    Memory.read (Memory.insert m a b) j = if j = a then b else Memory.read m j := by
  induction m with
  | nil => simp [Memory.insert, Memory.read, eq_comm]
  | cons p r ih =>
    obtain ⟨k, v⟩ := p
    simp only [Memory.insert]
    split
    · simp only [Memory.read]; grind
    · split
      · simp only [Memory.read]; grind
      · simp only [Memory.read, ih]; grind

theorem read_absent (m : Memory) (a : Nat) (h : ∀ p ∈ m, p.1 ≠ a) : Memory.read m a = 0 := by
  induction m with
  | nil => rfl
  | cons p r ih =>
    obtain ⟨k, v⟩ := p
    have hk : k ≠ a := h (k, v) List.mem_cons_self
    simp only [Memory.read, if_neg hk]
    exact ih fun q hq => h q (List.mem_cons_of_mem _ hq)

theorem read_erase (m : Memory) (a j : Nat) (h : Memory.wf m = true) :
    Memory.read (Memory.erase m a) j = if j = a then 0 else Memory.read m j := by
  induction m with
  | nil => simp [Memory.erase, Memory.read]
  | cons p r ih =>
    obtain ⟨k, v⟩ := p
    have h' := (wf_cons k v r).1 h
    simp only [Memory.erase]
    split
    · next hk =>
      subst hk
      split
      · next hj => subst hj; exact read_absent r _ fun q hq => Nat.ne_of_gt (wf_bound r _ h'.2.1 h'.2.2 q hq)
      · next hj => simp only [Memory.read]; grind
    · next hk =>
      simp only [Memory.read, ih h'.2.1]
      grind

/-- A byte written is what is read back there, and every other byte reads as before. -/
theorem read_write (m : Memory) (a j : Nat) (b : Byte) (h : Memory.wf m = true) :
    Memory.read (Memory.write m a b) j = if j = a then b else Memory.read m j := by
  unfold Memory.write
  split
  · next hb => subst hb; exact read_erase m a j h
  · exact read_insert m a j b

theorem read_writes (l : List Byte) : ∀ (m : Memory) (a j : Nat), Memory.wf m = true →
    Memory.read (Memory.writes m a l) j = if a ≤ j ∧ j < a + l.length then l.getD (j - a) 0 else Memory.read m j := by
  induction l with
  | nil => intro m a j _; rw [if_neg (by simp)]; rfl
  | cons b r ih =>
    intro m a j h
    simp only [Memory.writes, List.length_cons]
    rw [ih _ _ _ (write_wf m a b h), read_write m a j b h]
    by_cases h1 : j = a
    · subst h1; rw [if_neg (by omega), if_pos rfl, if_pos (by omega)]; simp
    · by_cases h2 : a + 1 ≤ j ∧ j < a + 1 + r.length
      · have e : j - a = (j - (a + 1)) + 1 := by omega
        rw [if_pos h2, if_pos (by omega), e, List.getD_cons_succ]
      · rw [if_neg h2, if_neg h1, if_neg (by omega)]

theorem reads_length (m : Memory) (a n : Nat) : (Memory.reads m a n).length = n := by
  induction n generalizing a with
  | zero => rfl
  | succ n ih => simp [Memory.reads, ih]

theorem reads_getD (m : Memory) (a n i : Nat) (h : i < n) : (Memory.reads m a n).getD i 0 = Memory.read m (a + i) := by
  induction n generalizing a i with
  | zero => omega
  | succ n ih =>
    cases i with
    | zero => rfl
    | succ i =>
      rw [Memory.reads, List.getD_cons_succ, ih (a + 1) i (by omega)]
      congr 1
      omega

/-- What was written is read back whole. -/
theorem reads_writes (m : Memory) (a : Nat) (l : List Byte) (h : Memory.wf m = true) :
    Memory.reads (Memory.writes m a l) a l.length = l := by
  apply List.ext_getElem (reads_length _ _ _)
  intro i h1 h2
  have g := reads_getD (Memory.writes m a l) a l.length i h2
  rw [read_writes l m a (a + i) h, if_pos (by omega), Nat.add_sub_cancel_left] at g
  simpa [List.getD_eq_getElem?_getD, h1, h2] using g

end Sys2Proof.Machine
end

