-- ==== Sys2Proof/Laws/State.lean ====
section
/-!
SUPPORT. What each update of the state leaves alone, field by field and reader by reader, and what it changes. All by
unfolding, so that no later proof unfolds an update.
-/
namespace Sys2Proof.Machine
open Sys2Proof

/-! emit -/
@[simp] theorem emit_pending (o : Out) (s : State) : (emit o s).pending = s.pending := rfl
@[simp] theorem emit_fuses (o : Out) (s : State) : (emit o s).fuses = s.fuses := rfl
@[simp] theorem emit_dev (o : Out) (s : State) : (emit o s).dev = s.dev := rfl
@[simp] theorem emit_pwr (o : Out) (s : State) : (emit o s).pwr = s.pwr := rfl
@[simp] theorem emit_lock (o : Out) (s : State) : (emit o s).lock = s.lock := rfl
@[simp] theorem emit_evt (o : Out) (s : State) : (emit o s).evt = s.evt := rfl
@[simp] theorem emit_arb (o : Out) (s : State) : (emit o s).arb = s.arb := rfl
@[simp] theorem emit_health (o : Out) (s : State) : (emit o s).health = s.health := rfl
@[simp] theorem emit_loft (o : Out) (s : State) : (emit o s).loft = s.loft := rfl
@[simp] theorem emit_perf (o : Out) (s : State) : (emit o s).perf = s.perf := rfl
@[simp] theorem emit_perf2 (o : Out) (s : State) : (emit o s).perf2 = s.perf2 := rfl
@[simp] theorem emit_ports (o : Out) (s : State) : (emit o s).ports = s.ports := rfl
@[simp] theorem emit_agents (o : Out) (s : State) : (emit o s).agents = s.agents := rfl
@[simp] theorem emit_snoops (o : Out) (s : State) : (emit o s).snoops = s.snoops := rfl
@[simp] theorem emit_snoopWaits (o : Out) (s : State) : (emit o s).snoopWaits = s.snoopWaits := rfl
@[simp] theorem emit_coherent (o : Out) (s : State) : (emit o s).coherent = s.coherent := rfl
@[simp] theorem emit_atomics (o : Out) (s : State) : (emit o s).atomics = s.atomics := rfl
@[simp] theorem emit_sessions (o : Out) (s : State) : (emit o s).sessions = s.sessions := rfl
@[simp] theorem emit_spdm (o : Out) (s : State) : (emit o s).spdm = s.spdm := rfl
@[simp] theorem emit_measures (o : Out) (s : State) : (emit o s).measures = s.measures := rfl
@[simp] theorem emit_eth (o : Out) (s : State) : (emit o s).eth = s.eth := rfl
@[simp] theorem emit_shSpray (o : Out) (s : State) : (emit o s).shSpray = s.shSpray := rfl
@[simp] theorem emit_shSel (o : Out) (s : State) : (emit o s).shSel = s.shSel := rfl
@[simp] theorem emit_conns (o : Out) (s : State) : (emit o s).conns = s.conns := rfl
@[simp] theorem emit_queues (o : Out) (s : State) : (emit o s).queues = s.queues := rfl
@[simp] theorem emit_taken (o : Out) (s : State) : (emit o s).taken = s.taken := rfl
@[simp] theorem emit_nextSeq (o : Out) (s : State) : (emit o s).nextSeq = s.nextSeq := rfl
@[simp] theorem emit_turn (o : Out) (s : State) : (emit o s).turn = s.turn := rfl
@[simp] theorem emit_errLog (o : Out) (s : State) : (emit o s).errLog = s.errLog := rfl
@[simp] theorem emit_work (o : Out) (s : State) : (emit o s).work = s.work := rfl
@[simp] theorem emit_store (o : Out) (s : State) : (emit o s).store = s.store := rfl
@[simp] theorem emit_clusters (o : Out) (s : State) : (emit o s).clusters = s.clusters := rfl
@[simp] theorem emit_ulb (o : Out) (s : State) : (emit o s).ulb = s.ulb := rfl
@[simp] theorem emit_fw (o : Out) (s : State) : (emit o s).fw = s.fw := rfl
@[simp] theorem emit_disk (o : Out) (s : State) : (emit o s).disk = s.disk := rfl
@[simp] theorem emit_flash (o : Out) (s : State) : (emit o s).flash = s.flash := rfl
@[simp] theorem emit_free (o : Out) (s : State) : (emit o s).free = s.free := rfl
@[simp] theorem emit_port (o : Out) (s : State) (j : Nat) : port (emit o s) j = port s j := rfl
@[simp] theorem emit_agent (o : Out) (s : State) (j : Nat) : agent (emit o s) j = agent s j := rfl
@[simp] theorem emit_die (o : Out) (s : State) (j : Nat) : die (emit o s) j = die s j := rfl
@[simp] theorem emit_cluster (o : Out) (s : State) (j : Nat) : cluster (emit o s) j = cluster s j := rfl
@[simp] theorem emit_ethPort (o : Out) (s : State) (j : Nat) : ethPort (emit o s) j = ethPort s j := rfl
@[simp] theorem emit_companyOf (o : Out) (s : State) (j : Nat) : companyOf (emit o s) j = companyOf s j := rfl
@[simp] theorem emit_queue (o : Out) (s : State) (j : Nat) : queue (emit o s) j = queue s j := rfl
@[simp] theorem emit_now (o : Out) (s : State) : now (emit o s) = now s := rfl

/-! modPort -/
@[simp] theorem modPort_pending (k : Nat) (f : Port → Port) (s : State) : (modPort k f s).pending = s.pending := rfl
@[simp] theorem modPort_fuses (k : Nat) (f : Port → Port) (s : State) : (modPort k f s).fuses = s.fuses := rfl
@[simp] theorem modPort_dev (k : Nat) (f : Port → Port) (s : State) : (modPort k f s).dev = s.dev := rfl
@[simp] theorem modPort_pwr (k : Nat) (f : Port → Port) (s : State) : (modPort k f s).pwr = s.pwr := rfl
@[simp] theorem modPort_lock (k : Nat) (f : Port → Port) (s : State) : (modPort k f s).lock = s.lock := rfl
@[simp] theorem modPort_evt (k : Nat) (f : Port → Port) (s : State) : (modPort k f s).evt = s.evt := rfl
@[simp] theorem modPort_arb (k : Nat) (f : Port → Port) (s : State) : (modPort k f s).arb = s.arb := rfl
@[simp] theorem modPort_health (k : Nat) (f : Port → Port) (s : State) : (modPort k f s).health = s.health := rfl
@[simp] theorem modPort_loft (k : Nat) (f : Port → Port) (s : State) : (modPort k f s).loft = s.loft := rfl
@[simp] theorem modPort_perf (k : Nat) (f : Port → Port) (s : State) : (modPort k f s).perf = s.perf := rfl
@[simp] theorem modPort_perf2 (k : Nat) (f : Port → Port) (s : State) : (modPort k f s).perf2 = s.perf2 := rfl
@[simp] theorem modPort_agents (k : Nat) (f : Port → Port) (s : State) : (modPort k f s).agents = s.agents := rfl
@[simp] theorem modPort_snoops (k : Nat) (f : Port → Port) (s : State) : (modPort k f s).snoops = s.snoops := rfl
@[simp] theorem modPort_snoopWaits (k : Nat) (f : Port → Port) (s : State) : (modPort k f s).snoopWaits = s.snoopWaits := rfl
@[simp] theorem modPort_coherent (k : Nat) (f : Port → Port) (s : State) : (modPort k f s).coherent = s.coherent := rfl
@[simp] theorem modPort_atomics (k : Nat) (f : Port → Port) (s : State) : (modPort k f s).atomics = s.atomics := rfl
@[simp] theorem modPort_sessions (k : Nat) (f : Port → Port) (s : State) : (modPort k f s).sessions = s.sessions := rfl
@[simp] theorem modPort_spdm (k : Nat) (f : Port → Port) (s : State) : (modPort k f s).spdm = s.spdm := rfl
@[simp] theorem modPort_measures (k : Nat) (f : Port → Port) (s : State) : (modPort k f s).measures = s.measures := rfl
@[simp] theorem modPort_eth (k : Nat) (f : Port → Port) (s : State) : (modPort k f s).eth = s.eth := rfl
@[simp] theorem modPort_shSpray (k : Nat) (f : Port → Port) (s : State) : (modPort k f s).shSpray = s.shSpray := rfl
@[simp] theorem modPort_shSel (k : Nat) (f : Port → Port) (s : State) : (modPort k f s).shSel = s.shSel := rfl
@[simp] theorem modPort_conns (k : Nat) (f : Port → Port) (s : State) : (modPort k f s).conns = s.conns := rfl
@[simp] theorem modPort_queues (k : Nat) (f : Port → Port) (s : State) : (modPort k f s).queues = s.queues := rfl
@[simp] theorem modPort_taken (k : Nat) (f : Port → Port) (s : State) : (modPort k f s).taken = s.taken := rfl
@[simp] theorem modPort_nextSeq (k : Nat) (f : Port → Port) (s : State) : (modPort k f s).nextSeq = s.nextSeq := rfl
@[simp] theorem modPort_turn (k : Nat) (f : Port → Port) (s : State) : (modPort k f s).turn = s.turn := rfl
@[simp] theorem modPort_errLog (k : Nat) (f : Port → Port) (s : State) : (modPort k f s).errLog = s.errLog := rfl
@[simp] theorem modPort_work (k : Nat) (f : Port → Port) (s : State) : (modPort k f s).work = s.work := rfl
@[simp] theorem modPort_store (k : Nat) (f : Port → Port) (s : State) : (modPort k f s).store = s.store := rfl
@[simp] theorem modPort_clusters (k : Nat) (f : Port → Port) (s : State) : (modPort k f s).clusters = s.clusters := rfl
@[simp] theorem modPort_ulb (k : Nat) (f : Port → Port) (s : State) : (modPort k f s).ulb = s.ulb := rfl
@[simp] theorem modPort_fw (k : Nat) (f : Port → Port) (s : State) : (modPort k f s).fw = s.fw := rfl
@[simp] theorem modPort_disk (k : Nat) (f : Port → Port) (s : State) : (modPort k f s).disk = s.disk := rfl
@[simp] theorem modPort_flash (k : Nat) (f : Port → Port) (s : State) : (modPort k f s).flash = s.flash := rfl
@[simp] theorem modPort_out (k : Nat) (f : Port → Port) (s : State) : (modPort k f s).out = s.out := rfl
@[simp] theorem modPort_free (k : Nat) (f : Port → Port) (s : State) : (modPort k f s).free = s.free := rfl
@[simp] theorem modPort_agent (k : Nat) (f : Port → Port) (s : State) (j : Nat) : agent (modPort k f s) j = agent s j := rfl
@[simp] theorem modPort_die (k : Nat) (f : Port → Port) (s : State) (j : Nat) : die (modPort k f s) j = die s j := rfl
@[simp] theorem modPort_cluster (k : Nat) (f : Port → Port) (s : State) (j : Nat) : cluster (modPort k f s) j = cluster s j := rfl
@[simp] theorem modPort_ethPort (k : Nat) (f : Port → Port) (s : State) (j : Nat) : ethPort (modPort k f s) j = ethPort s j := rfl
@[simp] theorem modPort_companyOf (k : Nat) (f : Port → Port) (s : State) (j : Nat) : companyOf (modPort k f s) j = companyOf s j := rfl
@[simp] theorem modPort_queue (k : Nat) (f : Port → Port) (s : State) (j : Nat) : queue (modPort k f s) j = queue s j := rfl
@[simp] theorem modPort_now (k : Nat) (f : Port → Port) (s : State) : now (modPort k f s) = now s := rfl

/-! modAgent -/
@[simp] theorem modAgent_pending (k : Nat) (f : Agent → Agent) (s : State) : (modAgent k f s).pending = s.pending := rfl
@[simp] theorem modAgent_fuses (k : Nat) (f : Agent → Agent) (s : State) : (modAgent k f s).fuses = s.fuses := rfl
@[simp] theorem modAgent_dev (k : Nat) (f : Agent → Agent) (s : State) : (modAgent k f s).dev = s.dev := rfl
@[simp] theorem modAgent_pwr (k : Nat) (f : Agent → Agent) (s : State) : (modAgent k f s).pwr = s.pwr := rfl
@[simp] theorem modAgent_lock (k : Nat) (f : Agent → Agent) (s : State) : (modAgent k f s).lock = s.lock := rfl
@[simp] theorem modAgent_evt (k : Nat) (f : Agent → Agent) (s : State) : (modAgent k f s).evt = s.evt := rfl
@[simp] theorem modAgent_arb (k : Nat) (f : Agent → Agent) (s : State) : (modAgent k f s).arb = s.arb := rfl
@[simp] theorem modAgent_health (k : Nat) (f : Agent → Agent) (s : State) : (modAgent k f s).health = s.health := rfl
@[simp] theorem modAgent_loft (k : Nat) (f : Agent → Agent) (s : State) : (modAgent k f s).loft = s.loft := rfl
@[simp] theorem modAgent_perf (k : Nat) (f : Agent → Agent) (s : State) : (modAgent k f s).perf = s.perf := rfl
@[simp] theorem modAgent_perf2 (k : Nat) (f : Agent → Agent) (s : State) : (modAgent k f s).perf2 = s.perf2 := rfl
@[simp] theorem modAgent_ports (k : Nat) (f : Agent → Agent) (s : State) : (modAgent k f s).ports = s.ports := rfl
@[simp] theorem modAgent_snoops (k : Nat) (f : Agent → Agent) (s : State) : (modAgent k f s).snoops = s.snoops := rfl
@[simp] theorem modAgent_snoopWaits (k : Nat) (f : Agent → Agent) (s : State) : (modAgent k f s).snoopWaits = s.snoopWaits := rfl
@[simp] theorem modAgent_coherent (k : Nat) (f : Agent → Agent) (s : State) : (modAgent k f s).coherent = s.coherent := rfl
@[simp] theorem modAgent_atomics (k : Nat) (f : Agent → Agent) (s : State) : (modAgent k f s).atomics = s.atomics := rfl
@[simp] theorem modAgent_sessions (k : Nat) (f : Agent → Agent) (s : State) : (modAgent k f s).sessions = s.sessions := rfl
@[simp] theorem modAgent_spdm (k : Nat) (f : Agent → Agent) (s : State) : (modAgent k f s).spdm = s.spdm := rfl
@[simp] theorem modAgent_measures (k : Nat) (f : Agent → Agent) (s : State) : (modAgent k f s).measures = s.measures := rfl
@[simp] theorem modAgent_eth (k : Nat) (f : Agent → Agent) (s : State) : (modAgent k f s).eth = s.eth := rfl
@[simp] theorem modAgent_shSpray (k : Nat) (f : Agent → Agent) (s : State) : (modAgent k f s).shSpray = s.shSpray := rfl
@[simp] theorem modAgent_shSel (k : Nat) (f : Agent → Agent) (s : State) : (modAgent k f s).shSel = s.shSel := rfl
@[simp] theorem modAgent_conns (k : Nat) (f : Agent → Agent) (s : State) : (modAgent k f s).conns = s.conns := rfl
@[simp] theorem modAgent_queues (k : Nat) (f : Agent → Agent) (s : State) : (modAgent k f s).queues = s.queues := rfl
@[simp] theorem modAgent_taken (k : Nat) (f : Agent → Agent) (s : State) : (modAgent k f s).taken = s.taken := rfl
@[simp] theorem modAgent_nextSeq (k : Nat) (f : Agent → Agent) (s : State) : (modAgent k f s).nextSeq = s.nextSeq := rfl
@[simp] theorem modAgent_turn (k : Nat) (f : Agent → Agent) (s : State) : (modAgent k f s).turn = s.turn := rfl
@[simp] theorem modAgent_errLog (k : Nat) (f : Agent → Agent) (s : State) : (modAgent k f s).errLog = s.errLog := rfl
@[simp] theorem modAgent_work (k : Nat) (f : Agent → Agent) (s : State) : (modAgent k f s).work = s.work := rfl
@[simp] theorem modAgent_store (k : Nat) (f : Agent → Agent) (s : State) : (modAgent k f s).store = s.store := rfl
@[simp] theorem modAgent_clusters (k : Nat) (f : Agent → Agent) (s : State) : (modAgent k f s).clusters = s.clusters := rfl
@[simp] theorem modAgent_ulb (k : Nat) (f : Agent → Agent) (s : State) : (modAgent k f s).ulb = s.ulb := rfl
@[simp] theorem modAgent_fw (k : Nat) (f : Agent → Agent) (s : State) : (modAgent k f s).fw = s.fw := rfl
@[simp] theorem modAgent_disk (k : Nat) (f : Agent → Agent) (s : State) : (modAgent k f s).disk = s.disk := rfl
@[simp] theorem modAgent_flash (k : Nat) (f : Agent → Agent) (s : State) : (modAgent k f s).flash = s.flash := rfl
@[simp] theorem modAgent_out (k : Nat) (f : Agent → Agent) (s : State) : (modAgent k f s).out = s.out := rfl
@[simp] theorem modAgent_free (k : Nat) (f : Agent → Agent) (s : State) : (modAgent k f s).free = s.free := rfl
@[simp] theorem modAgent_port (k : Nat) (f : Agent → Agent) (s : State) (j : Nat) : port (modAgent k f s) j = port s j := rfl
@[simp] theorem modAgent_die (k : Nat) (f : Agent → Agent) (s : State) (j : Nat) : die (modAgent k f s) j = die s j := rfl
@[simp] theorem modAgent_cluster (k : Nat) (f : Agent → Agent) (s : State) (j : Nat) : cluster (modAgent k f s) j = cluster s j := rfl
@[simp] theorem modAgent_ethPort (k : Nat) (f : Agent → Agent) (s : State) (j : Nat) : ethPort (modAgent k f s) j = ethPort s j := rfl
@[simp] theorem modAgent_companyOf (k : Nat) (f : Agent → Agent) (s : State) (j : Nat) : companyOf (modAgent k f s) j = companyOf s j := rfl
@[simp] theorem modAgent_queue (k : Nat) (f : Agent → Agent) (s : State) (j : Nat) : queue (modAgent k f s) j = queue s j := rfl
@[simp] theorem modAgent_now (k : Nat) (f : Agent → Agent) (s : State) : now (modAgent k f s) = now s := rfl

/-! modDie -/
@[simp] theorem modDie_pending (k : Nat) (f : Die → Die) (s : State) : (modDie k f s).pending = s.pending := rfl
@[simp] theorem modDie_fuses (k : Nat) (f : Die → Die) (s : State) : (modDie k f s).fuses = s.fuses := rfl
@[simp] theorem modDie_dev (k : Nat) (f : Die → Die) (s : State) : (modDie k f s).dev = s.dev := rfl
@[simp] theorem modDie_pwr (k : Nat) (f : Die → Die) (s : State) : (modDie k f s).pwr = s.pwr := rfl
@[simp] theorem modDie_lock (k : Nat) (f : Die → Die) (s : State) : (modDie k f s).lock = s.lock := rfl
@[simp] theorem modDie_evt (k : Nat) (f : Die → Die) (s : State) : (modDie k f s).evt = s.evt := rfl
@[simp] theorem modDie_arb (k : Nat) (f : Die → Die) (s : State) : (modDie k f s).arb = s.arb := rfl
@[simp] theorem modDie_health (k : Nat) (f : Die → Die) (s : State) : (modDie k f s).health = s.health := rfl
@[simp] theorem modDie_perf (k : Nat) (f : Die → Die) (s : State) : (modDie k f s).perf = s.perf := rfl
@[simp] theorem modDie_perf2 (k : Nat) (f : Die → Die) (s : State) : (modDie k f s).perf2 = s.perf2 := rfl
@[simp] theorem modDie_ports (k : Nat) (f : Die → Die) (s : State) : (modDie k f s).ports = s.ports := rfl
@[simp] theorem modDie_agents (k : Nat) (f : Die → Die) (s : State) : (modDie k f s).agents = s.agents := rfl
@[simp] theorem modDie_snoops (k : Nat) (f : Die → Die) (s : State) : (modDie k f s).snoops = s.snoops := rfl
@[simp] theorem modDie_snoopWaits (k : Nat) (f : Die → Die) (s : State) : (modDie k f s).snoopWaits = s.snoopWaits := rfl
@[simp] theorem modDie_coherent (k : Nat) (f : Die → Die) (s : State) : (modDie k f s).coherent = s.coherent := rfl
@[simp] theorem modDie_atomics (k : Nat) (f : Die → Die) (s : State) : (modDie k f s).atomics = s.atomics := rfl
@[simp] theorem modDie_sessions (k : Nat) (f : Die → Die) (s : State) : (modDie k f s).sessions = s.sessions := rfl
@[simp] theorem modDie_spdm (k : Nat) (f : Die → Die) (s : State) : (modDie k f s).spdm = s.spdm := rfl
@[simp] theorem modDie_measures (k : Nat) (f : Die → Die) (s : State) : (modDie k f s).measures = s.measures := rfl
@[simp] theorem modDie_eth (k : Nat) (f : Die → Die) (s : State) : (modDie k f s).eth = s.eth := rfl
@[simp] theorem modDie_shSpray (k : Nat) (f : Die → Die) (s : State) : (modDie k f s).shSpray = s.shSpray := rfl
@[simp] theorem modDie_shSel (k : Nat) (f : Die → Die) (s : State) : (modDie k f s).shSel = s.shSel := rfl
@[simp] theorem modDie_conns (k : Nat) (f : Die → Die) (s : State) : (modDie k f s).conns = s.conns := rfl
@[simp] theorem modDie_queues (k : Nat) (f : Die → Die) (s : State) : (modDie k f s).queues = s.queues := rfl
@[simp] theorem modDie_taken (k : Nat) (f : Die → Die) (s : State) : (modDie k f s).taken = s.taken := rfl
@[simp] theorem modDie_nextSeq (k : Nat) (f : Die → Die) (s : State) : (modDie k f s).nextSeq = s.nextSeq := rfl
@[simp] theorem modDie_turn (k : Nat) (f : Die → Die) (s : State) : (modDie k f s).turn = s.turn := rfl
@[simp] theorem modDie_errLog (k : Nat) (f : Die → Die) (s : State) : (modDie k f s).errLog = s.errLog := rfl
@[simp] theorem modDie_work (k : Nat) (f : Die → Die) (s : State) : (modDie k f s).work = s.work := rfl
@[simp] theorem modDie_store (k : Nat) (f : Die → Die) (s : State) : (modDie k f s).store = s.store := rfl
@[simp] theorem modDie_clusters (k : Nat) (f : Die → Die) (s : State) : (modDie k f s).clusters = s.clusters := rfl
@[simp] theorem modDie_ulb (k : Nat) (f : Die → Die) (s : State) : (modDie k f s).ulb = s.ulb := rfl
@[simp] theorem modDie_fw (k : Nat) (f : Die → Die) (s : State) : (modDie k f s).fw = s.fw := rfl
@[simp] theorem modDie_disk (k : Nat) (f : Die → Die) (s : State) : (modDie k f s).disk = s.disk := rfl
@[simp] theorem modDie_flash (k : Nat) (f : Die → Die) (s : State) : (modDie k f s).flash = s.flash := rfl
@[simp] theorem modDie_out (k : Nat) (f : Die → Die) (s : State) : (modDie k f s).out = s.out := rfl
@[simp] theorem modDie_free (k : Nat) (f : Die → Die) (s : State) : (modDie k f s).free = s.free := rfl
@[simp] theorem modDie_port (k : Nat) (f : Die → Die) (s : State) (j : Nat) : port (modDie k f s) j = port s j := rfl
@[simp] theorem modDie_agent (k : Nat) (f : Die → Die) (s : State) (j : Nat) : agent (modDie k f s) j = agent s j := rfl
@[simp] theorem modDie_cluster (k : Nat) (f : Die → Die) (s : State) (j : Nat) : cluster (modDie k f s) j = cluster s j := rfl
@[simp] theorem modDie_ethPort (k : Nat) (f : Die → Die) (s : State) (j : Nat) : ethPort (modDie k f s) j = ethPort s j := rfl
@[simp] theorem modDie_companyOf (k : Nat) (f : Die → Die) (s : State) (j : Nat) : companyOf (modDie k f s) j = companyOf s j := rfl
@[simp] theorem modDie_queue (k : Nat) (f : Die → Die) (s : State) (j : Nat) : queue (modDie k f s) j = queue s j := rfl
@[simp] theorem modDie_now (k : Nat) (f : Die → Die) (s : State) : now (modDie k f s) = now s := rfl

/-! modCluster -/
@[simp] theorem modCluster_pending (k : Nat) (f : Cluster → Cluster) (s : State) : (modCluster k f s).pending = s.pending := rfl
@[simp] theorem modCluster_fuses (k : Nat) (f : Cluster → Cluster) (s : State) : (modCluster k f s).fuses = s.fuses := rfl
@[simp] theorem modCluster_dev (k : Nat) (f : Cluster → Cluster) (s : State) : (modCluster k f s).dev = s.dev := rfl
@[simp] theorem modCluster_pwr (k : Nat) (f : Cluster → Cluster) (s : State) : (modCluster k f s).pwr = s.pwr := rfl
@[simp] theorem modCluster_lock (k : Nat) (f : Cluster → Cluster) (s : State) : (modCluster k f s).lock = s.lock := rfl
@[simp] theorem modCluster_evt (k : Nat) (f : Cluster → Cluster) (s : State) : (modCluster k f s).evt = s.evt := rfl
@[simp] theorem modCluster_arb (k : Nat) (f : Cluster → Cluster) (s : State) : (modCluster k f s).arb = s.arb := rfl
@[simp] theorem modCluster_health (k : Nat) (f : Cluster → Cluster) (s : State) : (modCluster k f s).health = s.health := rfl
@[simp] theorem modCluster_loft (k : Nat) (f : Cluster → Cluster) (s : State) : (modCluster k f s).loft = s.loft := rfl
@[simp] theorem modCluster_perf (k : Nat) (f : Cluster → Cluster) (s : State) : (modCluster k f s).perf = s.perf := rfl
@[simp] theorem modCluster_perf2 (k : Nat) (f : Cluster → Cluster) (s : State) : (modCluster k f s).perf2 = s.perf2 := rfl
@[simp] theorem modCluster_ports (k : Nat) (f : Cluster → Cluster) (s : State) : (modCluster k f s).ports = s.ports := rfl
@[simp] theorem modCluster_agents (k : Nat) (f : Cluster → Cluster) (s : State) : (modCluster k f s).agents = s.agents := rfl
@[simp] theorem modCluster_snoops (k : Nat) (f : Cluster → Cluster) (s : State) : (modCluster k f s).snoops = s.snoops := rfl
@[simp] theorem modCluster_snoopWaits (k : Nat) (f : Cluster → Cluster) (s : State) : (modCluster k f s).snoopWaits = s.snoopWaits := rfl
@[simp] theorem modCluster_coherent (k : Nat) (f : Cluster → Cluster) (s : State) : (modCluster k f s).coherent = s.coherent := rfl
@[simp] theorem modCluster_atomics (k : Nat) (f : Cluster → Cluster) (s : State) : (modCluster k f s).atomics = s.atomics := rfl
@[simp] theorem modCluster_sessions (k : Nat) (f : Cluster → Cluster) (s : State) : (modCluster k f s).sessions = s.sessions := rfl
@[simp] theorem modCluster_spdm (k : Nat) (f : Cluster → Cluster) (s : State) : (modCluster k f s).spdm = s.spdm := rfl
@[simp] theorem modCluster_measures (k : Nat) (f : Cluster → Cluster) (s : State) : (modCluster k f s).measures = s.measures := rfl
@[simp] theorem modCluster_eth (k : Nat) (f : Cluster → Cluster) (s : State) : (modCluster k f s).eth = s.eth := rfl
@[simp] theorem modCluster_shSpray (k : Nat) (f : Cluster → Cluster) (s : State) : (modCluster k f s).shSpray = s.shSpray := rfl
@[simp] theorem modCluster_shSel (k : Nat) (f : Cluster → Cluster) (s : State) : (modCluster k f s).shSel = s.shSel := rfl
@[simp] theorem modCluster_conns (k : Nat) (f : Cluster → Cluster) (s : State) : (modCluster k f s).conns = s.conns := rfl
@[simp] theorem modCluster_queues (k : Nat) (f : Cluster → Cluster) (s : State) : (modCluster k f s).queues = s.queues := rfl
@[simp] theorem modCluster_taken (k : Nat) (f : Cluster → Cluster) (s : State) : (modCluster k f s).taken = s.taken := rfl
@[simp] theorem modCluster_nextSeq (k : Nat) (f : Cluster → Cluster) (s : State) : (modCluster k f s).nextSeq = s.nextSeq := rfl
@[simp] theorem modCluster_turn (k : Nat) (f : Cluster → Cluster) (s : State) : (modCluster k f s).turn = s.turn := rfl
@[simp] theorem modCluster_errLog (k : Nat) (f : Cluster → Cluster) (s : State) : (modCluster k f s).errLog = s.errLog := rfl
@[simp] theorem modCluster_work (k : Nat) (f : Cluster → Cluster) (s : State) : (modCluster k f s).work = s.work := rfl
@[simp] theorem modCluster_store (k : Nat) (f : Cluster → Cluster) (s : State) : (modCluster k f s).store = s.store := rfl
@[simp] theorem modCluster_ulb (k : Nat) (f : Cluster → Cluster) (s : State) : (modCluster k f s).ulb = s.ulb := rfl
@[simp] theorem modCluster_fw (k : Nat) (f : Cluster → Cluster) (s : State) : (modCluster k f s).fw = s.fw := rfl
@[simp] theorem modCluster_disk (k : Nat) (f : Cluster → Cluster) (s : State) : (modCluster k f s).disk = s.disk := rfl
@[simp] theorem modCluster_flash (k : Nat) (f : Cluster → Cluster) (s : State) : (modCluster k f s).flash = s.flash := rfl
@[simp] theorem modCluster_out (k : Nat) (f : Cluster → Cluster) (s : State) : (modCluster k f s).out = s.out := rfl
@[simp] theorem modCluster_free (k : Nat) (f : Cluster → Cluster) (s : State) : (modCluster k f s).free = s.free := rfl
@[simp] theorem modCluster_port (k : Nat) (f : Cluster → Cluster) (s : State) (j : Nat) : port (modCluster k f s) j = port s j := rfl
@[simp] theorem modCluster_agent (k : Nat) (f : Cluster → Cluster) (s : State) (j : Nat) : agent (modCluster k f s) j = agent s j := rfl
@[simp] theorem modCluster_die (k : Nat) (f : Cluster → Cluster) (s : State) (j : Nat) : die (modCluster k f s) j = die s j := rfl
@[simp] theorem modCluster_ethPort (k : Nat) (f : Cluster → Cluster) (s : State) (j : Nat) : ethPort (modCluster k f s) j = ethPort s j := rfl
@[simp] theorem modCluster_companyOf (k : Nat) (f : Cluster → Cluster) (s : State) (j : Nat) : companyOf (modCluster k f s) j = companyOf s j := rfl
@[simp] theorem modCluster_queue (k : Nat) (f : Cluster → Cluster) (s : State) (j : Nat) : queue (modCluster k f s) j = queue s j := rfl
@[simp] theorem modCluster_now (k : Nat) (f : Cluster → Cluster) (s : State) : now (modCluster k f s) = now s := rfl

/-! modEth -/
@[simp] theorem modEth_pending (k : Nat) (f : EthPort → EthPort) (s : State) : (modEth k f s).pending = s.pending := rfl
@[simp] theorem modEth_fuses (k : Nat) (f : EthPort → EthPort) (s : State) : (modEth k f s).fuses = s.fuses := rfl
@[simp] theorem modEth_dev (k : Nat) (f : EthPort → EthPort) (s : State) : (modEth k f s).dev = s.dev := rfl
@[simp] theorem modEth_pwr (k : Nat) (f : EthPort → EthPort) (s : State) : (modEth k f s).pwr = s.pwr := rfl
@[simp] theorem modEth_lock (k : Nat) (f : EthPort → EthPort) (s : State) : (modEth k f s).lock = s.lock := rfl
@[simp] theorem modEth_evt (k : Nat) (f : EthPort → EthPort) (s : State) : (modEth k f s).evt = s.evt := rfl
@[simp] theorem modEth_arb (k : Nat) (f : EthPort → EthPort) (s : State) : (modEth k f s).arb = s.arb := rfl
@[simp] theorem modEth_health (k : Nat) (f : EthPort → EthPort) (s : State) : (modEth k f s).health = s.health := rfl
@[simp] theorem modEth_loft (k : Nat) (f : EthPort → EthPort) (s : State) : (modEth k f s).loft = s.loft := rfl
@[simp] theorem modEth_perf (k : Nat) (f : EthPort → EthPort) (s : State) : (modEth k f s).perf = s.perf := rfl
@[simp] theorem modEth_perf2 (k : Nat) (f : EthPort → EthPort) (s : State) : (modEth k f s).perf2 = s.perf2 := rfl
@[simp] theorem modEth_ports (k : Nat) (f : EthPort → EthPort) (s : State) : (modEth k f s).ports = s.ports := rfl
@[simp] theorem modEth_agents (k : Nat) (f : EthPort → EthPort) (s : State) : (modEth k f s).agents = s.agents := rfl
@[simp] theorem modEth_snoops (k : Nat) (f : EthPort → EthPort) (s : State) : (modEth k f s).snoops = s.snoops := rfl
@[simp] theorem modEth_snoopWaits (k : Nat) (f : EthPort → EthPort) (s : State) : (modEth k f s).snoopWaits = s.snoopWaits := rfl
@[simp] theorem modEth_coherent (k : Nat) (f : EthPort → EthPort) (s : State) : (modEth k f s).coherent = s.coherent := rfl
@[simp] theorem modEth_atomics (k : Nat) (f : EthPort → EthPort) (s : State) : (modEth k f s).atomics = s.atomics := rfl
@[simp] theorem modEth_sessions (k : Nat) (f : EthPort → EthPort) (s : State) : (modEth k f s).sessions = s.sessions := rfl
@[simp] theorem modEth_spdm (k : Nat) (f : EthPort → EthPort) (s : State) : (modEth k f s).spdm = s.spdm := rfl
@[simp] theorem modEth_measures (k : Nat) (f : EthPort → EthPort) (s : State) : (modEth k f s).measures = s.measures := rfl
@[simp] theorem modEth_shSpray (k : Nat) (f : EthPort → EthPort) (s : State) : (modEth k f s).shSpray = s.shSpray := rfl
@[simp] theorem modEth_shSel (k : Nat) (f : EthPort → EthPort) (s : State) : (modEth k f s).shSel = s.shSel := rfl
@[simp] theorem modEth_conns (k : Nat) (f : EthPort → EthPort) (s : State) : (modEth k f s).conns = s.conns := rfl
@[simp] theorem modEth_queues (k : Nat) (f : EthPort → EthPort) (s : State) : (modEth k f s).queues = s.queues := rfl
@[simp] theorem modEth_taken (k : Nat) (f : EthPort → EthPort) (s : State) : (modEth k f s).taken = s.taken := rfl
@[simp] theorem modEth_nextSeq (k : Nat) (f : EthPort → EthPort) (s : State) : (modEth k f s).nextSeq = s.nextSeq := rfl
@[simp] theorem modEth_turn (k : Nat) (f : EthPort → EthPort) (s : State) : (modEth k f s).turn = s.turn := rfl
@[simp] theorem modEth_errLog (k : Nat) (f : EthPort → EthPort) (s : State) : (modEth k f s).errLog = s.errLog := rfl
@[simp] theorem modEth_work (k : Nat) (f : EthPort → EthPort) (s : State) : (modEth k f s).work = s.work := rfl
@[simp] theorem modEth_store (k : Nat) (f : EthPort → EthPort) (s : State) : (modEth k f s).store = s.store := rfl
@[simp] theorem modEth_clusters (k : Nat) (f : EthPort → EthPort) (s : State) : (modEth k f s).clusters = s.clusters := rfl
@[simp] theorem modEth_ulb (k : Nat) (f : EthPort → EthPort) (s : State) : (modEth k f s).ulb = s.ulb := rfl
@[simp] theorem modEth_fw (k : Nat) (f : EthPort → EthPort) (s : State) : (modEth k f s).fw = s.fw := rfl
@[simp] theorem modEth_disk (k : Nat) (f : EthPort → EthPort) (s : State) : (modEth k f s).disk = s.disk := rfl
@[simp] theorem modEth_flash (k : Nat) (f : EthPort → EthPort) (s : State) : (modEth k f s).flash = s.flash := rfl
@[simp] theorem modEth_out (k : Nat) (f : EthPort → EthPort) (s : State) : (modEth k f s).out = s.out := rfl
@[simp] theorem modEth_free (k : Nat) (f : EthPort → EthPort) (s : State) : (modEth k f s).free = s.free := rfl
@[simp] theorem modEth_port (k : Nat) (f : EthPort → EthPort) (s : State) (j : Nat) : port (modEth k f s) j = port s j := rfl
@[simp] theorem modEth_agent (k : Nat) (f : EthPort → EthPort) (s : State) (j : Nat) : agent (modEth k f s) j = agent s j := rfl
@[simp] theorem modEth_die (k : Nat) (f : EthPort → EthPort) (s : State) (j : Nat) : die (modEth k f s) j = die s j := rfl
@[simp] theorem modEth_cluster (k : Nat) (f : EthPort → EthPort) (s : State) (j : Nat) : cluster (modEth k f s) j = cluster s j := rfl
@[simp] theorem modEth_companyOf (k : Nat) (f : EthPort → EthPort) (s : State) (j : Nat) : companyOf (modEth k f s) j = companyOf s j := rfl
@[simp] theorem modEth_queue (k : Nat) (f : EthPort → EthPort) (s : State) (j : Nat) : queue (modEth k f s) j = queue s j := rfl
@[simp] theorem modEth_now (k : Nat) (f : EthPort → EthPort) (s : State) : now (modEth k f s) = now s := rfl

/-! modQueue -/
@[simp] theorem modQueue_pending (k : Nat) (f : Queue → Queue) (s : State) : (modQueue k f s).pending = s.pending := rfl
@[simp] theorem modQueue_fuses (k : Nat) (f : Queue → Queue) (s : State) : (modQueue k f s).fuses = s.fuses := rfl
@[simp] theorem modQueue_dev (k : Nat) (f : Queue → Queue) (s : State) : (modQueue k f s).dev = s.dev := rfl
@[simp] theorem modQueue_pwr (k : Nat) (f : Queue → Queue) (s : State) : (modQueue k f s).pwr = s.pwr := rfl
@[simp] theorem modQueue_lock (k : Nat) (f : Queue → Queue) (s : State) : (modQueue k f s).lock = s.lock := rfl
@[simp] theorem modQueue_evt (k : Nat) (f : Queue → Queue) (s : State) : (modQueue k f s).evt = s.evt := rfl
@[simp] theorem modQueue_arb (k : Nat) (f : Queue → Queue) (s : State) : (modQueue k f s).arb = s.arb := rfl
@[simp] theorem modQueue_health (k : Nat) (f : Queue → Queue) (s : State) : (modQueue k f s).health = s.health := rfl
@[simp] theorem modQueue_loft (k : Nat) (f : Queue → Queue) (s : State) : (modQueue k f s).loft = s.loft := rfl
@[simp] theorem modQueue_perf (k : Nat) (f : Queue → Queue) (s : State) : (modQueue k f s).perf = s.perf := rfl
@[simp] theorem modQueue_perf2 (k : Nat) (f : Queue → Queue) (s : State) : (modQueue k f s).perf2 = s.perf2 := rfl
@[simp] theorem modQueue_ports (k : Nat) (f : Queue → Queue) (s : State) : (modQueue k f s).ports = s.ports := rfl
@[simp] theorem modQueue_agents (k : Nat) (f : Queue → Queue) (s : State) : (modQueue k f s).agents = s.agents := rfl
@[simp] theorem modQueue_snoops (k : Nat) (f : Queue → Queue) (s : State) : (modQueue k f s).snoops = s.snoops := rfl
@[simp] theorem modQueue_snoopWaits (k : Nat) (f : Queue → Queue) (s : State) : (modQueue k f s).snoopWaits = s.snoopWaits := rfl
@[simp] theorem modQueue_coherent (k : Nat) (f : Queue → Queue) (s : State) : (modQueue k f s).coherent = s.coherent := rfl
@[simp] theorem modQueue_atomics (k : Nat) (f : Queue → Queue) (s : State) : (modQueue k f s).atomics = s.atomics := rfl
@[simp] theorem modQueue_sessions (k : Nat) (f : Queue → Queue) (s : State) : (modQueue k f s).sessions = s.sessions := rfl
@[simp] theorem modQueue_spdm (k : Nat) (f : Queue → Queue) (s : State) : (modQueue k f s).spdm = s.spdm := rfl
@[simp] theorem modQueue_measures (k : Nat) (f : Queue → Queue) (s : State) : (modQueue k f s).measures = s.measures := rfl
@[simp] theorem modQueue_eth (k : Nat) (f : Queue → Queue) (s : State) : (modQueue k f s).eth = s.eth := rfl
@[simp] theorem modQueue_shSpray (k : Nat) (f : Queue → Queue) (s : State) : (modQueue k f s).shSpray = s.shSpray := rfl
@[simp] theorem modQueue_shSel (k : Nat) (f : Queue → Queue) (s : State) : (modQueue k f s).shSel = s.shSel := rfl
@[simp] theorem modQueue_conns (k : Nat) (f : Queue → Queue) (s : State) : (modQueue k f s).conns = s.conns := rfl
@[simp] theorem modQueue_taken (k : Nat) (f : Queue → Queue) (s : State) : (modQueue k f s).taken = s.taken := rfl
@[simp] theorem modQueue_nextSeq (k : Nat) (f : Queue → Queue) (s : State) : (modQueue k f s).nextSeq = s.nextSeq := rfl
@[simp] theorem modQueue_turn (k : Nat) (f : Queue → Queue) (s : State) : (modQueue k f s).turn = s.turn := rfl
@[simp] theorem modQueue_errLog (k : Nat) (f : Queue → Queue) (s : State) : (modQueue k f s).errLog = s.errLog := rfl
@[simp] theorem modQueue_work (k : Nat) (f : Queue → Queue) (s : State) : (modQueue k f s).work = s.work := rfl
@[simp] theorem modQueue_store (k : Nat) (f : Queue → Queue) (s : State) : (modQueue k f s).store = s.store := rfl
@[simp] theorem modQueue_clusters (k : Nat) (f : Queue → Queue) (s : State) : (modQueue k f s).clusters = s.clusters := rfl
@[simp] theorem modQueue_ulb (k : Nat) (f : Queue → Queue) (s : State) : (modQueue k f s).ulb = s.ulb := rfl
@[simp] theorem modQueue_fw (k : Nat) (f : Queue → Queue) (s : State) : (modQueue k f s).fw = s.fw := rfl
@[simp] theorem modQueue_disk (k : Nat) (f : Queue → Queue) (s : State) : (modQueue k f s).disk = s.disk := rfl
@[simp] theorem modQueue_flash (k : Nat) (f : Queue → Queue) (s : State) : (modQueue k f s).flash = s.flash := rfl
@[simp] theorem modQueue_out (k : Nat) (f : Queue → Queue) (s : State) : (modQueue k f s).out = s.out := rfl
@[simp] theorem modQueue_free (k : Nat) (f : Queue → Queue) (s : State) : (modQueue k f s).free = s.free := rfl
@[simp] theorem modQueue_port (k : Nat) (f : Queue → Queue) (s : State) (j : Nat) : port (modQueue k f s) j = port s j := rfl
@[simp] theorem modQueue_agent (k : Nat) (f : Queue → Queue) (s : State) (j : Nat) : agent (modQueue k f s) j = agent s j := rfl
@[simp] theorem modQueue_die (k : Nat) (f : Queue → Queue) (s : State) (j : Nat) : die (modQueue k f s) j = die s j := rfl
@[simp] theorem modQueue_cluster (k : Nat) (f : Queue → Queue) (s : State) (j : Nat) : cluster (modQueue k f s) j = cluster s j := rfl
@[simp] theorem modQueue_ethPort (k : Nat) (f : Queue → Queue) (s : State) (j : Nat) : ethPort (modQueue k f s) j = ethPort s j := rfl
@[simp] theorem modQueue_companyOf (k : Nat) (f : Queue → Queue) (s : State) (j : Nat) : companyOf (modQueue k f s) j = companyOf s j := rfl
@[simp] theorem modQueue_now (k : Nat) (f : Queue → Queue) (s : State) : now (modQueue k f s) = now s := rfl

/-! modCompany -/
@[simp] theorem modCompany_pending (k : Nat) (f : Company → Company) (s : State) : (modCompany k f s).pending = s.pending := rfl
@[simp] theorem modCompany_fuses (k : Nat) (f : Company → Company) (s : State) : (modCompany k f s).fuses = s.fuses := rfl
@[simp] theorem modCompany_dev (k : Nat) (f : Company → Company) (s : State) : (modCompany k f s).dev = s.dev := rfl
@[simp] theorem modCompany_pwr (k : Nat) (f : Company → Company) (s : State) : (modCompany k f s).pwr = s.pwr := rfl
@[simp] theorem modCompany_lock (k : Nat) (f : Company → Company) (s : State) : (modCompany k f s).lock = s.lock := rfl
@[simp] theorem modCompany_evt (k : Nat) (f : Company → Company) (s : State) : (modCompany k f s).evt = s.evt := rfl
@[simp] theorem modCompany_arb (k : Nat) (f : Company → Company) (s : State) : (modCompany k f s).arb = s.arb := rfl
@[simp] theorem modCompany_health (k : Nat) (f : Company → Company) (s : State) : (modCompany k f s).health = s.health := rfl
@[simp] theorem modCompany_loft (k : Nat) (f : Company → Company) (s : State) : (modCompany k f s).loft = s.loft := rfl
@[simp] theorem modCompany_perf (k : Nat) (f : Company → Company) (s : State) : (modCompany k f s).perf = s.perf := rfl
@[simp] theorem modCompany_perf2 (k : Nat) (f : Company → Company) (s : State) : (modCompany k f s).perf2 = s.perf2 := rfl
@[simp] theorem modCompany_ports (k : Nat) (f : Company → Company) (s : State) : (modCompany k f s).ports = s.ports := rfl
@[simp] theorem modCompany_agents (k : Nat) (f : Company → Company) (s : State) : (modCompany k f s).agents = s.agents := rfl
@[simp] theorem modCompany_snoops (k : Nat) (f : Company → Company) (s : State) : (modCompany k f s).snoops = s.snoops := rfl
@[simp] theorem modCompany_snoopWaits (k : Nat) (f : Company → Company) (s : State) : (modCompany k f s).snoopWaits = s.snoopWaits := rfl
@[simp] theorem modCompany_coherent (k : Nat) (f : Company → Company) (s : State) : (modCompany k f s).coherent = s.coherent := rfl
@[simp] theorem modCompany_atomics (k : Nat) (f : Company → Company) (s : State) : (modCompany k f s).atomics = s.atomics := rfl
@[simp] theorem modCompany_sessions (k : Nat) (f : Company → Company) (s : State) : (modCompany k f s).sessions = s.sessions := rfl
@[simp] theorem modCompany_spdm (k : Nat) (f : Company → Company) (s : State) : (modCompany k f s).spdm = s.spdm := rfl
@[simp] theorem modCompany_measures (k : Nat) (f : Company → Company) (s : State) : (modCompany k f s).measures = s.measures := rfl
@[simp] theorem modCompany_eth (k : Nat) (f : Company → Company) (s : State) : (modCompany k f s).eth = s.eth := rfl
@[simp] theorem modCompany_shSpray (k : Nat) (f : Company → Company) (s : State) : (modCompany k f s).shSpray = s.shSpray := rfl
@[simp] theorem modCompany_shSel (k : Nat) (f : Company → Company) (s : State) : (modCompany k f s).shSel = s.shSel := rfl
@[simp] theorem modCompany_conns (k : Nat) (f : Company → Company) (s : State) : (modCompany k f s).conns = s.conns := rfl
@[simp] theorem modCompany_queues (k : Nat) (f : Company → Company) (s : State) : (modCompany k f s).queues = s.queues := rfl
@[simp] theorem modCompany_taken (k : Nat) (f : Company → Company) (s : State) : (modCompany k f s).taken = s.taken := rfl
@[simp] theorem modCompany_nextSeq (k : Nat) (f : Company → Company) (s : State) : (modCompany k f s).nextSeq = s.nextSeq := rfl
@[simp] theorem modCompany_turn (k : Nat) (f : Company → Company) (s : State) : (modCompany k f s).turn = s.turn := rfl
@[simp] theorem modCompany_errLog (k : Nat) (f : Company → Company) (s : State) : (modCompany k f s).errLog = s.errLog := rfl
@[simp] theorem modCompany_work (k : Nat) (f : Company → Company) (s : State) : (modCompany k f s).work = s.work := rfl
@[simp] theorem modCompany_clusters (k : Nat) (f : Company → Company) (s : State) : (modCompany k f s).clusters = s.clusters := rfl
@[simp] theorem modCompany_ulb (k : Nat) (f : Company → Company) (s : State) : (modCompany k f s).ulb = s.ulb := rfl
@[simp] theorem modCompany_fw (k : Nat) (f : Company → Company) (s : State) : (modCompany k f s).fw = s.fw := rfl
@[simp] theorem modCompany_disk (k : Nat) (f : Company → Company) (s : State) : (modCompany k f s).disk = s.disk := rfl
@[simp] theorem modCompany_flash (k : Nat) (f : Company → Company) (s : State) : (modCompany k f s).flash = s.flash := rfl
@[simp] theorem modCompany_out (k : Nat) (f : Company → Company) (s : State) : (modCompany k f s).out = s.out := rfl
@[simp] theorem modCompany_free (k : Nat) (f : Company → Company) (s : State) : (modCompany k f s).free = s.free := rfl
@[simp] theorem modCompany_port (k : Nat) (f : Company → Company) (s : State) (j : Nat) : port (modCompany k f s) j = port s j := rfl
@[simp] theorem modCompany_agent (k : Nat) (f : Company → Company) (s : State) (j : Nat) : agent (modCompany k f s) j = agent s j := rfl
@[simp] theorem modCompany_die (k : Nat) (f : Company → Company) (s : State) (j : Nat) : die (modCompany k f s) j = die s j := rfl
@[simp] theorem modCompany_cluster (k : Nat) (f : Company → Company) (s : State) (j : Nat) : cluster (modCompany k f s) j = cluster s j := rfl
@[simp] theorem modCompany_ethPort (k : Nat) (f : Company → Company) (s : State) (j : Nat) : ethPort (modCompany k f s) j = ethPort s j := rfl
@[simp] theorem modCompany_queue (k : Nat) (f : Company → Company) (s : State) (j : Nat) : queue (modCompany k f s) j = queue s j := rfl
@[simp] theorem modCompany_now (k : Nat) (f : Company → Company) (s : State) : now (modCompany k f s) = now s := rfl

/-! modConn -/
@[simp] theorem modConn_pending (k : Nat) (f : Conn → Conn) (s : State) : (modConn k f s).pending = s.pending := rfl
@[simp] theorem modConn_fuses (k : Nat) (f : Conn → Conn) (s : State) : (modConn k f s).fuses = s.fuses := rfl
@[simp] theorem modConn_dev (k : Nat) (f : Conn → Conn) (s : State) : (modConn k f s).dev = s.dev := rfl
@[simp] theorem modConn_pwr (k : Nat) (f : Conn → Conn) (s : State) : (modConn k f s).pwr = s.pwr := rfl
@[simp] theorem modConn_lock (k : Nat) (f : Conn → Conn) (s : State) : (modConn k f s).lock = s.lock := rfl
@[simp] theorem modConn_evt (k : Nat) (f : Conn → Conn) (s : State) : (modConn k f s).evt = s.evt := rfl
@[simp] theorem modConn_arb (k : Nat) (f : Conn → Conn) (s : State) : (modConn k f s).arb = s.arb := rfl
@[simp] theorem modConn_health (k : Nat) (f : Conn → Conn) (s : State) : (modConn k f s).health = s.health := rfl
@[simp] theorem modConn_loft (k : Nat) (f : Conn → Conn) (s : State) : (modConn k f s).loft = s.loft := rfl
@[simp] theorem modConn_perf (k : Nat) (f : Conn → Conn) (s : State) : (modConn k f s).perf = s.perf := rfl
@[simp] theorem modConn_perf2 (k : Nat) (f : Conn → Conn) (s : State) : (modConn k f s).perf2 = s.perf2 := rfl
@[simp] theorem modConn_ports (k : Nat) (f : Conn → Conn) (s : State) : (modConn k f s).ports = s.ports := rfl
@[simp] theorem modConn_agents (k : Nat) (f : Conn → Conn) (s : State) : (modConn k f s).agents = s.agents := rfl
@[simp] theorem modConn_snoops (k : Nat) (f : Conn → Conn) (s : State) : (modConn k f s).snoops = s.snoops := rfl
@[simp] theorem modConn_snoopWaits (k : Nat) (f : Conn → Conn) (s : State) : (modConn k f s).snoopWaits = s.snoopWaits := rfl
@[simp] theorem modConn_coherent (k : Nat) (f : Conn → Conn) (s : State) : (modConn k f s).coherent = s.coherent := rfl
@[simp] theorem modConn_atomics (k : Nat) (f : Conn → Conn) (s : State) : (modConn k f s).atomics = s.atomics := rfl
@[simp] theorem modConn_sessions (k : Nat) (f : Conn → Conn) (s : State) : (modConn k f s).sessions = s.sessions := rfl
@[simp] theorem modConn_spdm (k : Nat) (f : Conn → Conn) (s : State) : (modConn k f s).spdm = s.spdm := rfl
@[simp] theorem modConn_measures (k : Nat) (f : Conn → Conn) (s : State) : (modConn k f s).measures = s.measures := rfl
@[simp] theorem modConn_eth (k : Nat) (f : Conn → Conn) (s : State) : (modConn k f s).eth = s.eth := rfl
@[simp] theorem modConn_shSpray (k : Nat) (f : Conn → Conn) (s : State) : (modConn k f s).shSpray = s.shSpray := rfl
@[simp] theorem modConn_shSel (k : Nat) (f : Conn → Conn) (s : State) : (modConn k f s).shSel = s.shSel := rfl
@[simp] theorem modConn_queues (k : Nat) (f : Conn → Conn) (s : State) : (modConn k f s).queues = s.queues := rfl
@[simp] theorem modConn_taken (k : Nat) (f : Conn → Conn) (s : State) : (modConn k f s).taken = s.taken := rfl
@[simp] theorem modConn_nextSeq (k : Nat) (f : Conn → Conn) (s : State) : (modConn k f s).nextSeq = s.nextSeq := rfl
@[simp] theorem modConn_turn (k : Nat) (f : Conn → Conn) (s : State) : (modConn k f s).turn = s.turn := rfl
@[simp] theorem modConn_errLog (k : Nat) (f : Conn → Conn) (s : State) : (modConn k f s).errLog = s.errLog := rfl
@[simp] theorem modConn_work (k : Nat) (f : Conn → Conn) (s : State) : (modConn k f s).work = s.work := rfl
@[simp] theorem modConn_store (k : Nat) (f : Conn → Conn) (s : State) : (modConn k f s).store = s.store := rfl
@[simp] theorem modConn_clusters (k : Nat) (f : Conn → Conn) (s : State) : (modConn k f s).clusters = s.clusters := rfl
@[simp] theorem modConn_ulb (k : Nat) (f : Conn → Conn) (s : State) : (modConn k f s).ulb = s.ulb := rfl
@[simp] theorem modConn_fw (k : Nat) (f : Conn → Conn) (s : State) : (modConn k f s).fw = s.fw := rfl
@[simp] theorem modConn_disk (k : Nat) (f : Conn → Conn) (s : State) : (modConn k f s).disk = s.disk := rfl
@[simp] theorem modConn_flash (k : Nat) (f : Conn → Conn) (s : State) : (modConn k f s).flash = s.flash := rfl
@[simp] theorem modConn_out (k : Nat) (f : Conn → Conn) (s : State) : (modConn k f s).out = s.out := rfl
@[simp] theorem modConn_free (k : Nat) (f : Conn → Conn) (s : State) : (modConn k f s).free = s.free := rfl
@[simp] theorem modConn_port (k : Nat) (f : Conn → Conn) (s : State) (j : Nat) : port (modConn k f s) j = port s j := rfl
@[simp] theorem modConn_agent (k : Nat) (f : Conn → Conn) (s : State) (j : Nat) : agent (modConn k f s) j = agent s j := rfl
@[simp] theorem modConn_die (k : Nat) (f : Conn → Conn) (s : State) (j : Nat) : die (modConn k f s) j = die s j := rfl
@[simp] theorem modConn_cluster (k : Nat) (f : Conn → Conn) (s : State) (j : Nat) : cluster (modConn k f s) j = cluster s j := rfl
@[simp] theorem modConn_ethPort (k : Nat) (f : Conn → Conn) (s : State) (j : Nat) : ethPort (modConn k f s) j = ethPort s j := rfl
@[simp] theorem modConn_companyOf (k : Nat) (f : Conn → Conn) (s : State) (j : Nat) : companyOf (modConn k f s) j = companyOf s j := rfl
@[simp] theorem modConn_queue (k : Nat) (f : Conn → Conn) (s : State) (j : Nat) : queue (modConn k f s) j = queue s j := rfl
@[simp] theorem modConn_now (k : Nat) (f : Conn → Conn) (s : State) : now (modConn k f s) = now s := rfl

/-! modStream -/
@[simp] theorem modStream_pending (k : Nat) (f : Stream → Stream) (s : State) : (modStream k f s).pending = s.pending := rfl
@[simp] theorem modStream_fuses (k : Nat) (f : Stream → Stream) (s : State) : (modStream k f s).fuses = s.fuses := rfl
@[simp] theorem modStream_dev (k : Nat) (f : Stream → Stream) (s : State) : (modStream k f s).dev = s.dev := rfl
@[simp] theorem modStream_pwr (k : Nat) (f : Stream → Stream) (s : State) : (modStream k f s).pwr = s.pwr := rfl
@[simp] theorem modStream_lock (k : Nat) (f : Stream → Stream) (s : State) : (modStream k f s).lock = s.lock := rfl
@[simp] theorem modStream_evt (k : Nat) (f : Stream → Stream) (s : State) : (modStream k f s).evt = s.evt := rfl
@[simp] theorem modStream_arb (k : Nat) (f : Stream → Stream) (s : State) : (modStream k f s).arb = s.arb := rfl
@[simp] theorem modStream_health (k : Nat) (f : Stream → Stream) (s : State) : (modStream k f s).health = s.health := rfl
@[simp] theorem modStream_loft (k : Nat) (f : Stream → Stream) (s : State) : (modStream k f s).loft = s.loft := rfl
@[simp] theorem modStream_perf (k : Nat) (f : Stream → Stream) (s : State) : (modStream k f s).perf = s.perf := rfl
@[simp] theorem modStream_perf2 (k : Nat) (f : Stream → Stream) (s : State) : (modStream k f s).perf2 = s.perf2 := rfl
@[simp] theorem modStream_ports (k : Nat) (f : Stream → Stream) (s : State) : (modStream k f s).ports = s.ports := rfl
@[simp] theorem modStream_agents (k : Nat) (f : Stream → Stream) (s : State) : (modStream k f s).agents = s.agents := rfl
@[simp] theorem modStream_snoops (k : Nat) (f : Stream → Stream) (s : State) : (modStream k f s).snoops = s.snoops := rfl
@[simp] theorem modStream_snoopWaits (k : Nat) (f : Stream → Stream) (s : State) : (modStream k f s).snoopWaits = s.snoopWaits := rfl
@[simp] theorem modStream_coherent (k : Nat) (f : Stream → Stream) (s : State) : (modStream k f s).coherent = s.coherent := rfl
@[simp] theorem modStream_atomics (k : Nat) (f : Stream → Stream) (s : State) : (modStream k f s).atomics = s.atomics := rfl
@[simp] theorem modStream_sessions (k : Nat) (f : Stream → Stream) (s : State) : (modStream k f s).sessions = s.sessions := rfl
@[simp] theorem modStream_spdm (k : Nat) (f : Stream → Stream) (s : State) : (modStream k f s).spdm = s.spdm := rfl
@[simp] theorem modStream_measures (k : Nat) (f : Stream → Stream) (s : State) : (modStream k f s).measures = s.measures := rfl
@[simp] theorem modStream_eth (k : Nat) (f : Stream → Stream) (s : State) : (modStream k f s).eth = s.eth := rfl
@[simp] theorem modStream_shSpray (k : Nat) (f : Stream → Stream) (s : State) : (modStream k f s).shSpray = s.shSpray := rfl
@[simp] theorem modStream_shSel (k : Nat) (f : Stream → Stream) (s : State) : (modStream k f s).shSel = s.shSel := rfl
@[simp] theorem modStream_conns (k : Nat) (f : Stream → Stream) (s : State) : (modStream k f s).conns = s.conns := rfl
@[simp] theorem modStream_queues (k : Nat) (f : Stream → Stream) (s : State) : (modStream k f s).queues = s.queues := rfl
@[simp] theorem modStream_taken (k : Nat) (f : Stream → Stream) (s : State) : (modStream k f s).taken = s.taken := rfl
@[simp] theorem modStream_nextSeq (k : Nat) (f : Stream → Stream) (s : State) : (modStream k f s).nextSeq = s.nextSeq := rfl
@[simp] theorem modStream_turn (k : Nat) (f : Stream → Stream) (s : State) : (modStream k f s).turn = s.turn := rfl
@[simp] theorem modStream_errLog (k : Nat) (f : Stream → Stream) (s : State) : (modStream k f s).errLog = s.errLog := rfl
@[simp] theorem modStream_work (k : Nat) (f : Stream → Stream) (s : State) : (modStream k f s).work = s.work := rfl
@[simp] theorem modStream_clusters (k : Nat) (f : Stream → Stream) (s : State) : (modStream k f s).clusters = s.clusters := rfl
@[simp] theorem modStream_ulb (k : Nat) (f : Stream → Stream) (s : State) : (modStream k f s).ulb = s.ulb := rfl
@[simp] theorem modStream_fw (k : Nat) (f : Stream → Stream) (s : State) : (modStream k f s).fw = s.fw := rfl
@[simp] theorem modStream_disk (k : Nat) (f : Stream → Stream) (s : State) : (modStream k f s).disk = s.disk := rfl
@[simp] theorem modStream_flash (k : Nat) (f : Stream → Stream) (s : State) : (modStream k f s).flash = s.flash := rfl
@[simp] theorem modStream_out (k : Nat) (f : Stream → Stream) (s : State) : (modStream k f s).out = s.out := rfl
@[simp] theorem modStream_free (k : Nat) (f : Stream → Stream) (s : State) : (modStream k f s).free = s.free := rfl
@[simp] theorem modStream_port (k : Nat) (f : Stream → Stream) (s : State) (j : Nat) : port (modStream k f s) j = port s j := rfl
@[simp] theorem modStream_agent (k : Nat) (f : Stream → Stream) (s : State) (j : Nat) : agent (modStream k f s) j = agent s j := rfl
@[simp] theorem modStream_die (k : Nat) (f : Stream → Stream) (s : State) (j : Nat) : die (modStream k f s) j = die s j := rfl
@[simp] theorem modStream_cluster (k : Nat) (f : Stream → Stream) (s : State) (j : Nat) : cluster (modStream k f s) j = cluster s j := rfl
@[simp] theorem modStream_ethPort (k : Nat) (f : Stream → Stream) (s : State) (j : Nat) : ethPort (modStream k f s) j = ethPort s j := rfl
@[simp] theorem modStream_queue (k : Nat) (f : Stream → Stream) (s : State) (j : Nat) : queue (modStream k f s) j = queue s j := rfl
@[simp] theorem modStream_now (k : Nat) (f : Stream → Stream) (s : State) : now (modStream k f s) = now s := rfl

/-! modStore -/
@[simp] theorem modStore_pending (f : Store → Store) (s : State) : (modStore f s).pending = s.pending := rfl
@[simp] theorem modStore_fuses (f : Store → Store) (s : State) : (modStore f s).fuses = s.fuses := rfl
@[simp] theorem modStore_dev (f : Store → Store) (s : State) : (modStore f s).dev = s.dev := rfl
@[simp] theorem modStore_pwr (f : Store → Store) (s : State) : (modStore f s).pwr = s.pwr := rfl
@[simp] theorem modStore_lock (f : Store → Store) (s : State) : (modStore f s).lock = s.lock := rfl
@[simp] theorem modStore_evt (f : Store → Store) (s : State) : (modStore f s).evt = s.evt := rfl
@[simp] theorem modStore_arb (f : Store → Store) (s : State) : (modStore f s).arb = s.arb := rfl
@[simp] theorem modStore_health (f : Store → Store) (s : State) : (modStore f s).health = s.health := rfl
@[simp] theorem modStore_loft (f : Store → Store) (s : State) : (modStore f s).loft = s.loft := rfl
@[simp] theorem modStore_perf (f : Store → Store) (s : State) : (modStore f s).perf = s.perf := rfl
@[simp] theorem modStore_perf2 (f : Store → Store) (s : State) : (modStore f s).perf2 = s.perf2 := rfl
@[simp] theorem modStore_ports (f : Store → Store) (s : State) : (modStore f s).ports = s.ports := rfl
@[simp] theorem modStore_agents (f : Store → Store) (s : State) : (modStore f s).agents = s.agents := rfl
@[simp] theorem modStore_snoops (f : Store → Store) (s : State) : (modStore f s).snoops = s.snoops := rfl
@[simp] theorem modStore_snoopWaits (f : Store → Store) (s : State) : (modStore f s).snoopWaits = s.snoopWaits := rfl
@[simp] theorem modStore_coherent (f : Store → Store) (s : State) : (modStore f s).coherent = s.coherent := rfl
@[simp] theorem modStore_atomics (f : Store → Store) (s : State) : (modStore f s).atomics = s.atomics := rfl
@[simp] theorem modStore_sessions (f : Store → Store) (s : State) : (modStore f s).sessions = s.sessions := rfl
@[simp] theorem modStore_spdm (f : Store → Store) (s : State) : (modStore f s).spdm = s.spdm := rfl
@[simp] theorem modStore_measures (f : Store → Store) (s : State) : (modStore f s).measures = s.measures := rfl
@[simp] theorem modStore_eth (f : Store → Store) (s : State) : (modStore f s).eth = s.eth := rfl
@[simp] theorem modStore_shSpray (f : Store → Store) (s : State) : (modStore f s).shSpray = s.shSpray := rfl
@[simp] theorem modStore_shSel (f : Store → Store) (s : State) : (modStore f s).shSel = s.shSel := rfl
@[simp] theorem modStore_conns (f : Store → Store) (s : State) : (modStore f s).conns = s.conns := rfl
@[simp] theorem modStore_queues (f : Store → Store) (s : State) : (modStore f s).queues = s.queues := rfl
@[simp] theorem modStore_taken (f : Store → Store) (s : State) : (modStore f s).taken = s.taken := rfl
@[simp] theorem modStore_nextSeq (f : Store → Store) (s : State) : (modStore f s).nextSeq = s.nextSeq := rfl
@[simp] theorem modStore_turn (f : Store → Store) (s : State) : (modStore f s).turn = s.turn := rfl
@[simp] theorem modStore_errLog (f : Store → Store) (s : State) : (modStore f s).errLog = s.errLog := rfl
@[simp] theorem modStore_work (f : Store → Store) (s : State) : (modStore f s).work = s.work := rfl
@[simp] theorem modStore_clusters (f : Store → Store) (s : State) : (modStore f s).clusters = s.clusters := rfl
@[simp] theorem modStore_ulb (f : Store → Store) (s : State) : (modStore f s).ulb = s.ulb := rfl
@[simp] theorem modStore_fw (f : Store → Store) (s : State) : (modStore f s).fw = s.fw := rfl
@[simp] theorem modStore_disk (f : Store → Store) (s : State) : (modStore f s).disk = s.disk := rfl
@[simp] theorem modStore_flash (f : Store → Store) (s : State) : (modStore f s).flash = s.flash := rfl
@[simp] theorem modStore_out (f : Store → Store) (s : State) : (modStore f s).out = s.out := rfl
@[simp] theorem modStore_free (f : Store → Store) (s : State) : (modStore f s).free = s.free := rfl
@[simp] theorem modStore_port (f : Store → Store) (s : State) (j : Nat) : port (modStore f s) j = port s j := rfl
@[simp] theorem modStore_agent (f : Store → Store) (s : State) (j : Nat) : agent (modStore f s) j = agent s j := rfl
@[simp] theorem modStore_die (f : Store → Store) (s : State) (j : Nat) : die (modStore f s) j = die s j := rfl
@[simp] theorem modStore_cluster (f : Store → Store) (s : State) (j : Nat) : cluster (modStore f s) j = cluster s j := rfl
@[simp] theorem modStore_ethPort (f : Store → Store) (s : State) (j : Nat) : ethPort (modStore f s) j = ethPort s j := rfl
@[simp] theorem modStore_queue (f : Store → Store) (s : State) (j : Nat) : queue (modStore f s) j = queue s j := rfl
@[simp] theorem modStore_now (f : Store → Store) (s : State) : now (modStore f s) = now s := rfl

/-! modLoft -/
@[simp] theorem modLoft_pending (f : LoftBlk → LoftBlk) (s : State) : (modLoft f s).pending = s.pending := rfl
@[simp] theorem modLoft_fuses (f : LoftBlk → LoftBlk) (s : State) : (modLoft f s).fuses = s.fuses := rfl
@[simp] theorem modLoft_dev (f : LoftBlk → LoftBlk) (s : State) : (modLoft f s).dev = s.dev := rfl
@[simp] theorem modLoft_pwr (f : LoftBlk → LoftBlk) (s : State) : (modLoft f s).pwr = s.pwr := rfl
@[simp] theorem modLoft_lock (f : LoftBlk → LoftBlk) (s : State) : (modLoft f s).lock = s.lock := rfl
@[simp] theorem modLoft_evt (f : LoftBlk → LoftBlk) (s : State) : (modLoft f s).evt = s.evt := rfl
@[simp] theorem modLoft_arb (f : LoftBlk → LoftBlk) (s : State) : (modLoft f s).arb = s.arb := rfl
@[simp] theorem modLoft_health (f : LoftBlk → LoftBlk) (s : State) : (modLoft f s).health = s.health := rfl
@[simp] theorem modLoft_perf (f : LoftBlk → LoftBlk) (s : State) : (modLoft f s).perf = s.perf := rfl
@[simp] theorem modLoft_perf2 (f : LoftBlk → LoftBlk) (s : State) : (modLoft f s).perf2 = s.perf2 := rfl
@[simp] theorem modLoft_ports (f : LoftBlk → LoftBlk) (s : State) : (modLoft f s).ports = s.ports := rfl
@[simp] theorem modLoft_agents (f : LoftBlk → LoftBlk) (s : State) : (modLoft f s).agents = s.agents := rfl
@[simp] theorem modLoft_snoops (f : LoftBlk → LoftBlk) (s : State) : (modLoft f s).snoops = s.snoops := rfl
@[simp] theorem modLoft_snoopWaits (f : LoftBlk → LoftBlk) (s : State) : (modLoft f s).snoopWaits = s.snoopWaits := rfl
@[simp] theorem modLoft_coherent (f : LoftBlk → LoftBlk) (s : State) : (modLoft f s).coherent = s.coherent := rfl
@[simp] theorem modLoft_atomics (f : LoftBlk → LoftBlk) (s : State) : (modLoft f s).atomics = s.atomics := rfl
@[simp] theorem modLoft_sessions (f : LoftBlk → LoftBlk) (s : State) : (modLoft f s).sessions = s.sessions := rfl
@[simp] theorem modLoft_spdm (f : LoftBlk → LoftBlk) (s : State) : (modLoft f s).spdm = s.spdm := rfl
@[simp] theorem modLoft_measures (f : LoftBlk → LoftBlk) (s : State) : (modLoft f s).measures = s.measures := rfl
@[simp] theorem modLoft_eth (f : LoftBlk → LoftBlk) (s : State) : (modLoft f s).eth = s.eth := rfl
@[simp] theorem modLoft_shSpray (f : LoftBlk → LoftBlk) (s : State) : (modLoft f s).shSpray = s.shSpray := rfl
@[simp] theorem modLoft_shSel (f : LoftBlk → LoftBlk) (s : State) : (modLoft f s).shSel = s.shSel := rfl
@[simp] theorem modLoft_conns (f : LoftBlk → LoftBlk) (s : State) : (modLoft f s).conns = s.conns := rfl
@[simp] theorem modLoft_queues (f : LoftBlk → LoftBlk) (s : State) : (modLoft f s).queues = s.queues := rfl
@[simp] theorem modLoft_taken (f : LoftBlk → LoftBlk) (s : State) : (modLoft f s).taken = s.taken := rfl
@[simp] theorem modLoft_nextSeq (f : LoftBlk → LoftBlk) (s : State) : (modLoft f s).nextSeq = s.nextSeq := rfl
@[simp] theorem modLoft_turn (f : LoftBlk → LoftBlk) (s : State) : (modLoft f s).turn = s.turn := rfl
@[simp] theorem modLoft_errLog (f : LoftBlk → LoftBlk) (s : State) : (modLoft f s).errLog = s.errLog := rfl
@[simp] theorem modLoft_work (f : LoftBlk → LoftBlk) (s : State) : (modLoft f s).work = s.work := rfl
@[simp] theorem modLoft_store (f : LoftBlk → LoftBlk) (s : State) : (modLoft f s).store = s.store := rfl
@[simp] theorem modLoft_clusters (f : LoftBlk → LoftBlk) (s : State) : (modLoft f s).clusters = s.clusters := rfl
@[simp] theorem modLoft_ulb (f : LoftBlk → LoftBlk) (s : State) : (modLoft f s).ulb = s.ulb := rfl
@[simp] theorem modLoft_fw (f : LoftBlk → LoftBlk) (s : State) : (modLoft f s).fw = s.fw := rfl
@[simp] theorem modLoft_disk (f : LoftBlk → LoftBlk) (s : State) : (modLoft f s).disk = s.disk := rfl
@[simp] theorem modLoft_flash (f : LoftBlk → LoftBlk) (s : State) : (modLoft f s).flash = s.flash := rfl
@[simp] theorem modLoft_out (f : LoftBlk → LoftBlk) (s : State) : (modLoft f s).out = s.out := rfl
@[simp] theorem modLoft_free (f : LoftBlk → LoftBlk) (s : State) : (modLoft f s).free = s.free := rfl
@[simp] theorem modLoft_port (f : LoftBlk → LoftBlk) (s : State) (j : Nat) : port (modLoft f s) j = port s j := rfl
@[simp] theorem modLoft_agent (f : LoftBlk → LoftBlk) (s : State) (j : Nat) : agent (modLoft f s) j = agent s j := rfl
@[simp] theorem modLoft_cluster (f : LoftBlk → LoftBlk) (s : State) (j : Nat) : cluster (modLoft f s) j = cluster s j := rfl
@[simp] theorem modLoft_ethPort (f : LoftBlk → LoftBlk) (s : State) (j : Nat) : ethPort (modLoft f s) j = ethPort s j := rfl
@[simp] theorem modLoft_companyOf (f : LoftBlk → LoftBlk) (s : State) (j : Nat) : companyOf (modLoft f s) j = companyOf s j := rfl
@[simp] theorem modLoft_queue (f : LoftBlk → LoftBlk) (s : State) (j : Nat) : queue (modLoft f s) j = queue s j := rfl
@[simp] theorem modLoft_now (f : LoftBlk → LoftBlk) (s : State) : now (modLoft f s) = now s := rfl

/-! modWork -/
@[simp] theorem modWork_pending (f : Work → Work) (s : State) : (modWork f s).pending = s.pending := rfl
@[simp] theorem modWork_fuses (f : Work → Work) (s : State) : (modWork f s).fuses = s.fuses := rfl
@[simp] theorem modWork_dev (f : Work → Work) (s : State) : (modWork f s).dev = s.dev := rfl
@[simp] theorem modWork_pwr (f : Work → Work) (s : State) : (modWork f s).pwr = s.pwr := rfl
@[simp] theorem modWork_lock (f : Work → Work) (s : State) : (modWork f s).lock = s.lock := rfl
@[simp] theorem modWork_evt (f : Work → Work) (s : State) : (modWork f s).evt = s.evt := rfl
@[simp] theorem modWork_arb (f : Work → Work) (s : State) : (modWork f s).arb = s.arb := rfl
@[simp] theorem modWork_health (f : Work → Work) (s : State) : (modWork f s).health = s.health := rfl
@[simp] theorem modWork_loft (f : Work → Work) (s : State) : (modWork f s).loft = s.loft := rfl
@[simp] theorem modWork_perf (f : Work → Work) (s : State) : (modWork f s).perf = s.perf := rfl
@[simp] theorem modWork_perf2 (f : Work → Work) (s : State) : (modWork f s).perf2 = s.perf2 := rfl
@[simp] theorem modWork_ports (f : Work → Work) (s : State) : (modWork f s).ports = s.ports := rfl
@[simp] theorem modWork_agents (f : Work → Work) (s : State) : (modWork f s).agents = s.agents := rfl
@[simp] theorem modWork_snoops (f : Work → Work) (s : State) : (modWork f s).snoops = s.snoops := rfl
@[simp] theorem modWork_snoopWaits (f : Work → Work) (s : State) : (modWork f s).snoopWaits = s.snoopWaits := rfl
@[simp] theorem modWork_coherent (f : Work → Work) (s : State) : (modWork f s).coherent = s.coherent := rfl
@[simp] theorem modWork_atomics (f : Work → Work) (s : State) : (modWork f s).atomics = s.atomics := rfl
@[simp] theorem modWork_sessions (f : Work → Work) (s : State) : (modWork f s).sessions = s.sessions := rfl
@[simp] theorem modWork_spdm (f : Work → Work) (s : State) : (modWork f s).spdm = s.spdm := rfl
@[simp] theorem modWork_measures (f : Work → Work) (s : State) : (modWork f s).measures = s.measures := rfl
@[simp] theorem modWork_eth (f : Work → Work) (s : State) : (modWork f s).eth = s.eth := rfl
@[simp] theorem modWork_shSpray (f : Work → Work) (s : State) : (modWork f s).shSpray = s.shSpray := rfl
@[simp] theorem modWork_shSel (f : Work → Work) (s : State) : (modWork f s).shSel = s.shSel := rfl
@[simp] theorem modWork_conns (f : Work → Work) (s : State) : (modWork f s).conns = s.conns := rfl
@[simp] theorem modWork_queues (f : Work → Work) (s : State) : (modWork f s).queues = s.queues := rfl
@[simp] theorem modWork_taken (f : Work → Work) (s : State) : (modWork f s).taken = s.taken := rfl
@[simp] theorem modWork_nextSeq (f : Work → Work) (s : State) : (modWork f s).nextSeq = s.nextSeq := rfl
@[simp] theorem modWork_turn (f : Work → Work) (s : State) : (modWork f s).turn = s.turn := rfl
@[simp] theorem modWork_errLog (f : Work → Work) (s : State) : (modWork f s).errLog = s.errLog := rfl
@[simp] theorem modWork_store (f : Work → Work) (s : State) : (modWork f s).store = s.store := rfl
@[simp] theorem modWork_clusters (f : Work → Work) (s : State) : (modWork f s).clusters = s.clusters := rfl
@[simp] theorem modWork_ulb (f : Work → Work) (s : State) : (modWork f s).ulb = s.ulb := rfl
@[simp] theorem modWork_fw (f : Work → Work) (s : State) : (modWork f s).fw = s.fw := rfl
@[simp] theorem modWork_disk (f : Work → Work) (s : State) : (modWork f s).disk = s.disk := rfl
@[simp] theorem modWork_flash (f : Work → Work) (s : State) : (modWork f s).flash = s.flash := rfl
@[simp] theorem modWork_out (f : Work → Work) (s : State) : (modWork f s).out = s.out := rfl
@[simp] theorem modWork_free (f : Work → Work) (s : State) : (modWork f s).free = s.free := rfl
@[simp] theorem modWork_port (f : Work → Work) (s : State) (j : Nat) : port (modWork f s) j = port s j := rfl
@[simp] theorem modWork_agent (f : Work → Work) (s : State) (j : Nat) : agent (modWork f s) j = agent s j := rfl
@[simp] theorem modWork_die (f : Work → Work) (s : State) (j : Nat) : die (modWork f s) j = die s j := rfl
@[simp] theorem modWork_cluster (f : Work → Work) (s : State) (j : Nat) : cluster (modWork f s) j = cluster s j := rfl
@[simp] theorem modWork_ethPort (f : Work → Work) (s : State) (j : Nat) : ethPort (modWork f s) j = ethPort s j := rfl
@[simp] theorem modWork_companyOf (f : Work → Work) (s : State) (j : Nat) : companyOf (modWork f s) j = companyOf s j := rfl
@[simp] theorem modWork_queue (f : Work → Work) (s : State) (j : Nat) : queue (modWork f s) j = queue s j := rfl
@[simp] theorem modWork_now (f : Work → Work) (s : State) : now (modWork f s) = now s := rfl

/-! modPerf -/
@[simp] theorem modPerf_pending (f : PerfBlk → PerfBlk) (s : State) : (modPerf f s).pending = s.pending := rfl
@[simp] theorem modPerf_fuses (f : PerfBlk → PerfBlk) (s : State) : (modPerf f s).fuses = s.fuses := rfl
@[simp] theorem modPerf_dev (f : PerfBlk → PerfBlk) (s : State) : (modPerf f s).dev = s.dev := rfl
@[simp] theorem modPerf_pwr (f : PerfBlk → PerfBlk) (s : State) : (modPerf f s).pwr = s.pwr := rfl
@[simp] theorem modPerf_lock (f : PerfBlk → PerfBlk) (s : State) : (modPerf f s).lock = s.lock := rfl
@[simp] theorem modPerf_evt (f : PerfBlk → PerfBlk) (s : State) : (modPerf f s).evt = s.evt := rfl
@[simp] theorem modPerf_arb (f : PerfBlk → PerfBlk) (s : State) : (modPerf f s).arb = s.arb := rfl
@[simp] theorem modPerf_health (f : PerfBlk → PerfBlk) (s : State) : (modPerf f s).health = s.health := rfl
@[simp] theorem modPerf_loft (f : PerfBlk → PerfBlk) (s : State) : (modPerf f s).loft = s.loft := rfl
@[simp] theorem modPerf_perf2 (f : PerfBlk → PerfBlk) (s : State) : (modPerf f s).perf2 = s.perf2 := rfl
@[simp] theorem modPerf_ports (f : PerfBlk → PerfBlk) (s : State) : (modPerf f s).ports = s.ports := rfl
@[simp] theorem modPerf_agents (f : PerfBlk → PerfBlk) (s : State) : (modPerf f s).agents = s.agents := rfl
@[simp] theorem modPerf_snoops (f : PerfBlk → PerfBlk) (s : State) : (modPerf f s).snoops = s.snoops := rfl
@[simp] theorem modPerf_snoopWaits (f : PerfBlk → PerfBlk) (s : State) : (modPerf f s).snoopWaits = s.snoopWaits := rfl
@[simp] theorem modPerf_coherent (f : PerfBlk → PerfBlk) (s : State) : (modPerf f s).coherent = s.coherent := rfl
@[simp] theorem modPerf_atomics (f : PerfBlk → PerfBlk) (s : State) : (modPerf f s).atomics = s.atomics := rfl
@[simp] theorem modPerf_sessions (f : PerfBlk → PerfBlk) (s : State) : (modPerf f s).sessions = s.sessions := rfl
@[simp] theorem modPerf_spdm (f : PerfBlk → PerfBlk) (s : State) : (modPerf f s).spdm = s.spdm := rfl
@[simp] theorem modPerf_measures (f : PerfBlk → PerfBlk) (s : State) : (modPerf f s).measures = s.measures := rfl
@[simp] theorem modPerf_eth (f : PerfBlk → PerfBlk) (s : State) : (modPerf f s).eth = s.eth := rfl
@[simp] theorem modPerf_shSpray (f : PerfBlk → PerfBlk) (s : State) : (modPerf f s).shSpray = s.shSpray := rfl
@[simp] theorem modPerf_shSel (f : PerfBlk → PerfBlk) (s : State) : (modPerf f s).shSel = s.shSel := rfl
@[simp] theorem modPerf_conns (f : PerfBlk → PerfBlk) (s : State) : (modPerf f s).conns = s.conns := rfl
@[simp] theorem modPerf_queues (f : PerfBlk → PerfBlk) (s : State) : (modPerf f s).queues = s.queues := rfl
@[simp] theorem modPerf_taken (f : PerfBlk → PerfBlk) (s : State) : (modPerf f s).taken = s.taken := rfl
@[simp] theorem modPerf_nextSeq (f : PerfBlk → PerfBlk) (s : State) : (modPerf f s).nextSeq = s.nextSeq := rfl
@[simp] theorem modPerf_turn (f : PerfBlk → PerfBlk) (s : State) : (modPerf f s).turn = s.turn := rfl
@[simp] theorem modPerf_errLog (f : PerfBlk → PerfBlk) (s : State) : (modPerf f s).errLog = s.errLog := rfl
@[simp] theorem modPerf_work (f : PerfBlk → PerfBlk) (s : State) : (modPerf f s).work = s.work := rfl
@[simp] theorem modPerf_store (f : PerfBlk → PerfBlk) (s : State) : (modPerf f s).store = s.store := rfl
@[simp] theorem modPerf_clusters (f : PerfBlk → PerfBlk) (s : State) : (modPerf f s).clusters = s.clusters := rfl
@[simp] theorem modPerf_ulb (f : PerfBlk → PerfBlk) (s : State) : (modPerf f s).ulb = s.ulb := rfl
@[simp] theorem modPerf_fw (f : PerfBlk → PerfBlk) (s : State) : (modPerf f s).fw = s.fw := rfl
@[simp] theorem modPerf_disk (f : PerfBlk → PerfBlk) (s : State) : (modPerf f s).disk = s.disk := rfl
@[simp] theorem modPerf_flash (f : PerfBlk → PerfBlk) (s : State) : (modPerf f s).flash = s.flash := rfl
@[simp] theorem modPerf_out (f : PerfBlk → PerfBlk) (s : State) : (modPerf f s).out = s.out := rfl
@[simp] theorem modPerf_free (f : PerfBlk → PerfBlk) (s : State) : (modPerf f s).free = s.free := rfl
@[simp] theorem modPerf_port (f : PerfBlk → PerfBlk) (s : State) (j : Nat) : port (modPerf f s) j = port s j := rfl
@[simp] theorem modPerf_agent (f : PerfBlk → PerfBlk) (s : State) (j : Nat) : agent (modPerf f s) j = agent s j := rfl
@[simp] theorem modPerf_die (f : PerfBlk → PerfBlk) (s : State) (j : Nat) : die (modPerf f s) j = die s j := rfl
@[simp] theorem modPerf_cluster (f : PerfBlk → PerfBlk) (s : State) (j : Nat) : cluster (modPerf f s) j = cluster s j := rfl
@[simp] theorem modPerf_ethPort (f : PerfBlk → PerfBlk) (s : State) (j : Nat) : ethPort (modPerf f s) j = ethPort s j := rfl
@[simp] theorem modPerf_companyOf (f : PerfBlk → PerfBlk) (s : State) (j : Nat) : companyOf (modPerf f s) j = companyOf s j := rfl
@[simp] theorem modPerf_queue (f : PerfBlk → PerfBlk) (s : State) (j : Nat) : queue (modPerf f s) j = queue s j := rfl
@[simp] theorem modPerf_now (f : PerfBlk → PerfBlk) (s : State) : now (modPerf f s) = now s := rfl

/-! modPerf2 -/
@[simp] theorem modPerf2_pending (f : PerfBlk2 → PerfBlk2) (s : State) : (modPerf2 f s).pending = s.pending := rfl
@[simp] theorem modPerf2_fuses (f : PerfBlk2 → PerfBlk2) (s : State) : (modPerf2 f s).fuses = s.fuses := rfl
@[simp] theorem modPerf2_dev (f : PerfBlk2 → PerfBlk2) (s : State) : (modPerf2 f s).dev = s.dev := rfl
@[simp] theorem modPerf2_pwr (f : PerfBlk2 → PerfBlk2) (s : State) : (modPerf2 f s).pwr = s.pwr := rfl
@[simp] theorem modPerf2_lock (f : PerfBlk2 → PerfBlk2) (s : State) : (modPerf2 f s).lock = s.lock := rfl
@[simp] theorem modPerf2_evt (f : PerfBlk2 → PerfBlk2) (s : State) : (modPerf2 f s).evt = s.evt := rfl
@[simp] theorem modPerf2_arb (f : PerfBlk2 → PerfBlk2) (s : State) : (modPerf2 f s).arb = s.arb := rfl
@[simp] theorem modPerf2_health (f : PerfBlk2 → PerfBlk2) (s : State) : (modPerf2 f s).health = s.health := rfl
@[simp] theorem modPerf2_loft (f : PerfBlk2 → PerfBlk2) (s : State) : (modPerf2 f s).loft = s.loft := rfl
@[simp] theorem modPerf2_perf (f : PerfBlk2 → PerfBlk2) (s : State) : (modPerf2 f s).perf = s.perf := rfl
@[simp] theorem modPerf2_ports (f : PerfBlk2 → PerfBlk2) (s : State) : (modPerf2 f s).ports = s.ports := rfl
@[simp] theorem modPerf2_agents (f : PerfBlk2 → PerfBlk2) (s : State) : (modPerf2 f s).agents = s.agents := rfl
@[simp] theorem modPerf2_snoops (f : PerfBlk2 → PerfBlk2) (s : State) : (modPerf2 f s).snoops = s.snoops := rfl
@[simp] theorem modPerf2_snoopWaits (f : PerfBlk2 → PerfBlk2) (s : State) : (modPerf2 f s).snoopWaits = s.snoopWaits := rfl
@[simp] theorem modPerf2_coherent (f : PerfBlk2 → PerfBlk2) (s : State) : (modPerf2 f s).coherent = s.coherent := rfl
@[simp] theorem modPerf2_atomics (f : PerfBlk2 → PerfBlk2) (s : State) : (modPerf2 f s).atomics = s.atomics := rfl
@[simp] theorem modPerf2_sessions (f : PerfBlk2 → PerfBlk2) (s : State) : (modPerf2 f s).sessions = s.sessions := rfl
@[simp] theorem modPerf2_spdm (f : PerfBlk2 → PerfBlk2) (s : State) : (modPerf2 f s).spdm = s.spdm := rfl
@[simp] theorem modPerf2_measures (f : PerfBlk2 → PerfBlk2) (s : State) : (modPerf2 f s).measures = s.measures := rfl
@[simp] theorem modPerf2_eth (f : PerfBlk2 → PerfBlk2) (s : State) : (modPerf2 f s).eth = s.eth := rfl
@[simp] theorem modPerf2_shSpray (f : PerfBlk2 → PerfBlk2) (s : State) : (modPerf2 f s).shSpray = s.shSpray := rfl
@[simp] theorem modPerf2_shSel (f : PerfBlk2 → PerfBlk2) (s : State) : (modPerf2 f s).shSel = s.shSel := rfl
@[simp] theorem modPerf2_conns (f : PerfBlk2 → PerfBlk2) (s : State) : (modPerf2 f s).conns = s.conns := rfl
@[simp] theorem modPerf2_queues (f : PerfBlk2 → PerfBlk2) (s : State) : (modPerf2 f s).queues = s.queues := rfl
@[simp] theorem modPerf2_taken (f : PerfBlk2 → PerfBlk2) (s : State) : (modPerf2 f s).taken = s.taken := rfl
@[simp] theorem modPerf2_nextSeq (f : PerfBlk2 → PerfBlk2) (s : State) : (modPerf2 f s).nextSeq = s.nextSeq := rfl
@[simp] theorem modPerf2_turn (f : PerfBlk2 → PerfBlk2) (s : State) : (modPerf2 f s).turn = s.turn := rfl
@[simp] theorem modPerf2_errLog (f : PerfBlk2 → PerfBlk2) (s : State) : (modPerf2 f s).errLog = s.errLog := rfl
@[simp] theorem modPerf2_work (f : PerfBlk2 → PerfBlk2) (s : State) : (modPerf2 f s).work = s.work := rfl
@[simp] theorem modPerf2_store (f : PerfBlk2 → PerfBlk2) (s : State) : (modPerf2 f s).store = s.store := rfl
@[simp] theorem modPerf2_clusters (f : PerfBlk2 → PerfBlk2) (s : State) : (modPerf2 f s).clusters = s.clusters := rfl
@[simp] theorem modPerf2_ulb (f : PerfBlk2 → PerfBlk2) (s : State) : (modPerf2 f s).ulb = s.ulb := rfl
@[simp] theorem modPerf2_fw (f : PerfBlk2 → PerfBlk2) (s : State) : (modPerf2 f s).fw = s.fw := rfl
@[simp] theorem modPerf2_disk (f : PerfBlk2 → PerfBlk2) (s : State) : (modPerf2 f s).disk = s.disk := rfl
@[simp] theorem modPerf2_flash (f : PerfBlk2 → PerfBlk2) (s : State) : (modPerf2 f s).flash = s.flash := rfl
@[simp] theorem modPerf2_out (f : PerfBlk2 → PerfBlk2) (s : State) : (modPerf2 f s).out = s.out := rfl
@[simp] theorem modPerf2_free (f : PerfBlk2 → PerfBlk2) (s : State) : (modPerf2 f s).free = s.free := rfl
@[simp] theorem modPerf2_port (f : PerfBlk2 → PerfBlk2) (s : State) (j : Nat) : port (modPerf2 f s) j = port s j := rfl
@[simp] theorem modPerf2_agent (f : PerfBlk2 → PerfBlk2) (s : State) (j : Nat) : agent (modPerf2 f s) j = agent s j := rfl
@[simp] theorem modPerf2_die (f : PerfBlk2 → PerfBlk2) (s : State) (j : Nat) : die (modPerf2 f s) j = die s j := rfl
@[simp] theorem modPerf2_cluster (f : PerfBlk2 → PerfBlk2) (s : State) (j : Nat) : cluster (modPerf2 f s) j = cluster s j := rfl
@[simp] theorem modPerf2_ethPort (f : PerfBlk2 → PerfBlk2) (s : State) (j : Nat) : ethPort (modPerf2 f s) j = ethPort s j := rfl
@[simp] theorem modPerf2_companyOf (f : PerfBlk2 → PerfBlk2) (s : State) (j : Nat) : companyOf (modPerf2 f s) j = companyOf s j := rfl
@[simp] theorem modPerf2_queue (f : PerfBlk2 → PerfBlk2) (s : State) (j : Nat) : queue (modPerf2 f s) j = queue s j := rfl
@[simp] theorem modPerf2_now (f : PerfBlk2 → PerfBlk2) (s : State) : now (modPerf2 f s) = now s := rfl

/-! modHealth -/
@[simp] theorem modHealth_pending (f : HealthBlk → HealthBlk) (s : State) : (modHealth f s).pending = s.pending := rfl
@[simp] theorem modHealth_fuses (f : HealthBlk → HealthBlk) (s : State) : (modHealth f s).fuses = s.fuses := rfl
@[simp] theorem modHealth_dev (f : HealthBlk → HealthBlk) (s : State) : (modHealth f s).dev = s.dev := rfl
@[simp] theorem modHealth_pwr (f : HealthBlk → HealthBlk) (s : State) : (modHealth f s).pwr = s.pwr := rfl
@[simp] theorem modHealth_lock (f : HealthBlk → HealthBlk) (s : State) : (modHealth f s).lock = s.lock := rfl
@[simp] theorem modHealth_evt (f : HealthBlk → HealthBlk) (s : State) : (modHealth f s).evt = s.evt := rfl
@[simp] theorem modHealth_arb (f : HealthBlk → HealthBlk) (s : State) : (modHealth f s).arb = s.arb := rfl
@[simp] theorem modHealth_loft (f : HealthBlk → HealthBlk) (s : State) : (modHealth f s).loft = s.loft := rfl
@[simp] theorem modHealth_perf (f : HealthBlk → HealthBlk) (s : State) : (modHealth f s).perf = s.perf := rfl
@[simp] theorem modHealth_perf2 (f : HealthBlk → HealthBlk) (s : State) : (modHealth f s).perf2 = s.perf2 := rfl
@[simp] theorem modHealth_ports (f : HealthBlk → HealthBlk) (s : State) : (modHealth f s).ports = s.ports := rfl
@[simp] theorem modHealth_agents (f : HealthBlk → HealthBlk) (s : State) : (modHealth f s).agents = s.agents := rfl
@[simp] theorem modHealth_snoops (f : HealthBlk → HealthBlk) (s : State) : (modHealth f s).snoops = s.snoops := rfl
@[simp] theorem modHealth_snoopWaits (f : HealthBlk → HealthBlk) (s : State) : (modHealth f s).snoopWaits = s.snoopWaits := rfl
@[simp] theorem modHealth_coherent (f : HealthBlk → HealthBlk) (s : State) : (modHealth f s).coherent = s.coherent := rfl
@[simp] theorem modHealth_atomics (f : HealthBlk → HealthBlk) (s : State) : (modHealth f s).atomics = s.atomics := rfl
@[simp] theorem modHealth_sessions (f : HealthBlk → HealthBlk) (s : State) : (modHealth f s).sessions = s.sessions := rfl
@[simp] theorem modHealth_spdm (f : HealthBlk → HealthBlk) (s : State) : (modHealth f s).spdm = s.spdm := rfl
@[simp] theorem modHealth_measures (f : HealthBlk → HealthBlk) (s : State) : (modHealth f s).measures = s.measures := rfl
@[simp] theorem modHealth_eth (f : HealthBlk → HealthBlk) (s : State) : (modHealth f s).eth = s.eth := rfl
@[simp] theorem modHealth_shSpray (f : HealthBlk → HealthBlk) (s : State) : (modHealth f s).shSpray = s.shSpray := rfl
@[simp] theorem modHealth_shSel (f : HealthBlk → HealthBlk) (s : State) : (modHealth f s).shSel = s.shSel := rfl
@[simp] theorem modHealth_conns (f : HealthBlk → HealthBlk) (s : State) : (modHealth f s).conns = s.conns := rfl
@[simp] theorem modHealth_queues (f : HealthBlk → HealthBlk) (s : State) : (modHealth f s).queues = s.queues := rfl
@[simp] theorem modHealth_taken (f : HealthBlk → HealthBlk) (s : State) : (modHealth f s).taken = s.taken := rfl
@[simp] theorem modHealth_nextSeq (f : HealthBlk → HealthBlk) (s : State) : (modHealth f s).nextSeq = s.nextSeq := rfl
@[simp] theorem modHealth_turn (f : HealthBlk → HealthBlk) (s : State) : (modHealth f s).turn = s.turn := rfl
@[simp] theorem modHealth_errLog (f : HealthBlk → HealthBlk) (s : State) : (modHealth f s).errLog = s.errLog := rfl
@[simp] theorem modHealth_work (f : HealthBlk → HealthBlk) (s : State) : (modHealth f s).work = s.work := rfl
@[simp] theorem modHealth_store (f : HealthBlk → HealthBlk) (s : State) : (modHealth f s).store = s.store := rfl
@[simp] theorem modHealth_clusters (f : HealthBlk → HealthBlk) (s : State) : (modHealth f s).clusters = s.clusters := rfl
@[simp] theorem modHealth_ulb (f : HealthBlk → HealthBlk) (s : State) : (modHealth f s).ulb = s.ulb := rfl
@[simp] theorem modHealth_fw (f : HealthBlk → HealthBlk) (s : State) : (modHealth f s).fw = s.fw := rfl
@[simp] theorem modHealth_disk (f : HealthBlk → HealthBlk) (s : State) : (modHealth f s).disk = s.disk := rfl
@[simp] theorem modHealth_flash (f : HealthBlk → HealthBlk) (s : State) : (modHealth f s).flash = s.flash := rfl
@[simp] theorem modHealth_out (f : HealthBlk → HealthBlk) (s : State) : (modHealth f s).out = s.out := rfl
@[simp] theorem modHealth_free (f : HealthBlk → HealthBlk) (s : State) : (modHealth f s).free = s.free := rfl
@[simp] theorem modHealth_port (f : HealthBlk → HealthBlk) (s : State) (j : Nat) : port (modHealth f s) j = port s j := rfl
@[simp] theorem modHealth_agent (f : HealthBlk → HealthBlk) (s : State) (j : Nat) : agent (modHealth f s) j = agent s j := rfl
@[simp] theorem modHealth_die (f : HealthBlk → HealthBlk) (s : State) (j : Nat) : die (modHealth f s) j = die s j := rfl
@[simp] theorem modHealth_cluster (f : HealthBlk → HealthBlk) (s : State) (j : Nat) : cluster (modHealth f s) j = cluster s j := rfl
@[simp] theorem modHealth_ethPort (f : HealthBlk → HealthBlk) (s : State) (j : Nat) : ethPort (modHealth f s) j = ethPort s j := rfl
@[simp] theorem modHealth_companyOf (f : HealthBlk → HealthBlk) (s : State) (j : Nat) : companyOf (modHealth f s) j = companyOf s j := rfl
@[simp] theorem modHealth_queue (f : HealthBlk → HealthBlk) (s : State) (j : Nat) : queue (modHealth f s) j = queue s j := rfl
@[simp] theorem modHealth_now (f : HealthBlk → HealthBlk) (s : State) : now (modHealth f s) = now s := rfl

/-! modPwr -/
@[simp] theorem modPwr_pending (f : PwrBlk → PwrBlk) (s : State) : (modPwr f s).pending = s.pending := rfl
@[simp] theorem modPwr_fuses (f : PwrBlk → PwrBlk) (s : State) : (modPwr f s).fuses = s.fuses := rfl
@[simp] theorem modPwr_dev (f : PwrBlk → PwrBlk) (s : State) : (modPwr f s).dev = s.dev := rfl
@[simp] theorem modPwr_lock (f : PwrBlk → PwrBlk) (s : State) : (modPwr f s).lock = s.lock := rfl
@[simp] theorem modPwr_evt (f : PwrBlk → PwrBlk) (s : State) : (modPwr f s).evt = s.evt := rfl
@[simp] theorem modPwr_arb (f : PwrBlk → PwrBlk) (s : State) : (modPwr f s).arb = s.arb := rfl
@[simp] theorem modPwr_health (f : PwrBlk → PwrBlk) (s : State) : (modPwr f s).health = s.health := rfl
@[simp] theorem modPwr_loft (f : PwrBlk → PwrBlk) (s : State) : (modPwr f s).loft = s.loft := rfl
@[simp] theorem modPwr_perf (f : PwrBlk → PwrBlk) (s : State) : (modPwr f s).perf = s.perf := rfl
@[simp] theorem modPwr_perf2 (f : PwrBlk → PwrBlk) (s : State) : (modPwr f s).perf2 = s.perf2 := rfl
@[simp] theorem modPwr_ports (f : PwrBlk → PwrBlk) (s : State) : (modPwr f s).ports = s.ports := rfl
@[simp] theorem modPwr_agents (f : PwrBlk → PwrBlk) (s : State) : (modPwr f s).agents = s.agents := rfl
@[simp] theorem modPwr_snoops (f : PwrBlk → PwrBlk) (s : State) : (modPwr f s).snoops = s.snoops := rfl
@[simp] theorem modPwr_snoopWaits (f : PwrBlk → PwrBlk) (s : State) : (modPwr f s).snoopWaits = s.snoopWaits := rfl
@[simp] theorem modPwr_coherent (f : PwrBlk → PwrBlk) (s : State) : (modPwr f s).coherent = s.coherent := rfl
@[simp] theorem modPwr_atomics (f : PwrBlk → PwrBlk) (s : State) : (modPwr f s).atomics = s.atomics := rfl
@[simp] theorem modPwr_sessions (f : PwrBlk → PwrBlk) (s : State) : (modPwr f s).sessions = s.sessions := rfl
@[simp] theorem modPwr_spdm (f : PwrBlk → PwrBlk) (s : State) : (modPwr f s).spdm = s.spdm := rfl
@[simp] theorem modPwr_measures (f : PwrBlk → PwrBlk) (s : State) : (modPwr f s).measures = s.measures := rfl
@[simp] theorem modPwr_eth (f : PwrBlk → PwrBlk) (s : State) : (modPwr f s).eth = s.eth := rfl
@[simp] theorem modPwr_shSpray (f : PwrBlk → PwrBlk) (s : State) : (modPwr f s).shSpray = s.shSpray := rfl
@[simp] theorem modPwr_shSel (f : PwrBlk → PwrBlk) (s : State) : (modPwr f s).shSel = s.shSel := rfl
@[simp] theorem modPwr_conns (f : PwrBlk → PwrBlk) (s : State) : (modPwr f s).conns = s.conns := rfl
@[simp] theorem modPwr_queues (f : PwrBlk → PwrBlk) (s : State) : (modPwr f s).queues = s.queues := rfl
@[simp] theorem modPwr_taken (f : PwrBlk → PwrBlk) (s : State) : (modPwr f s).taken = s.taken := rfl
@[simp] theorem modPwr_nextSeq (f : PwrBlk → PwrBlk) (s : State) : (modPwr f s).nextSeq = s.nextSeq := rfl
@[simp] theorem modPwr_turn (f : PwrBlk → PwrBlk) (s : State) : (modPwr f s).turn = s.turn := rfl
@[simp] theorem modPwr_errLog (f : PwrBlk → PwrBlk) (s : State) : (modPwr f s).errLog = s.errLog := rfl
@[simp] theorem modPwr_work (f : PwrBlk → PwrBlk) (s : State) : (modPwr f s).work = s.work := rfl
@[simp] theorem modPwr_store (f : PwrBlk → PwrBlk) (s : State) : (modPwr f s).store = s.store := rfl
@[simp] theorem modPwr_clusters (f : PwrBlk → PwrBlk) (s : State) : (modPwr f s).clusters = s.clusters := rfl
@[simp] theorem modPwr_ulb (f : PwrBlk → PwrBlk) (s : State) : (modPwr f s).ulb = s.ulb := rfl
@[simp] theorem modPwr_fw (f : PwrBlk → PwrBlk) (s : State) : (modPwr f s).fw = s.fw := rfl
@[simp] theorem modPwr_disk (f : PwrBlk → PwrBlk) (s : State) : (modPwr f s).disk = s.disk := rfl
@[simp] theorem modPwr_flash (f : PwrBlk → PwrBlk) (s : State) : (modPwr f s).flash = s.flash := rfl
@[simp] theorem modPwr_out (f : PwrBlk → PwrBlk) (s : State) : (modPwr f s).out = s.out := rfl
@[simp] theorem modPwr_free (f : PwrBlk → PwrBlk) (s : State) : (modPwr f s).free = s.free := rfl
@[simp] theorem modPwr_port (f : PwrBlk → PwrBlk) (s : State) (j : Nat) : port (modPwr f s) j = port s j := rfl
@[simp] theorem modPwr_agent (f : PwrBlk → PwrBlk) (s : State) (j : Nat) : agent (modPwr f s) j = agent s j := rfl
@[simp] theorem modPwr_die (f : PwrBlk → PwrBlk) (s : State) (j : Nat) : die (modPwr f s) j = die s j := rfl
@[simp] theorem modPwr_cluster (f : PwrBlk → PwrBlk) (s : State) (j : Nat) : cluster (modPwr f s) j = cluster s j := rfl
@[simp] theorem modPwr_ethPort (f : PwrBlk → PwrBlk) (s : State) (j : Nat) : ethPort (modPwr f s) j = ethPort s j := rfl
@[simp] theorem modPwr_companyOf (f : PwrBlk → PwrBlk) (s : State) (j : Nat) : companyOf (modPwr f s) j = companyOf s j := rfl
@[simp] theorem modPwr_queue (f : PwrBlk → PwrBlk) (s : State) (j : Nat) : queue (modPwr f s) j = queue s j := rfl
@[simp] theorem modPwr_now (f : PwrBlk → PwrBlk) (s : State) : now (modPwr f s) = now s := rfl

/-! modDev -/
@[simp] theorem modDev_pending (f : DevBlk → DevBlk) (s : State) : (modDev f s).pending = s.pending := rfl
@[simp] theorem modDev_fuses (f : DevBlk → DevBlk) (s : State) : (modDev f s).fuses = s.fuses := rfl
@[simp] theorem modDev_pwr (f : DevBlk → DevBlk) (s : State) : (modDev f s).pwr = s.pwr := rfl
@[simp] theorem modDev_lock (f : DevBlk → DevBlk) (s : State) : (modDev f s).lock = s.lock := rfl
@[simp] theorem modDev_evt (f : DevBlk → DevBlk) (s : State) : (modDev f s).evt = s.evt := rfl
@[simp] theorem modDev_arb (f : DevBlk → DevBlk) (s : State) : (modDev f s).arb = s.arb := rfl
@[simp] theorem modDev_health (f : DevBlk → DevBlk) (s : State) : (modDev f s).health = s.health := rfl
@[simp] theorem modDev_loft (f : DevBlk → DevBlk) (s : State) : (modDev f s).loft = s.loft := rfl
@[simp] theorem modDev_perf (f : DevBlk → DevBlk) (s : State) : (modDev f s).perf = s.perf := rfl
@[simp] theorem modDev_perf2 (f : DevBlk → DevBlk) (s : State) : (modDev f s).perf2 = s.perf2 := rfl
@[simp] theorem modDev_ports (f : DevBlk → DevBlk) (s : State) : (modDev f s).ports = s.ports := rfl
@[simp] theorem modDev_agents (f : DevBlk → DevBlk) (s : State) : (modDev f s).agents = s.agents := rfl
@[simp] theorem modDev_snoops (f : DevBlk → DevBlk) (s : State) : (modDev f s).snoops = s.snoops := rfl
@[simp] theorem modDev_snoopWaits (f : DevBlk → DevBlk) (s : State) : (modDev f s).snoopWaits = s.snoopWaits := rfl
@[simp] theorem modDev_coherent (f : DevBlk → DevBlk) (s : State) : (modDev f s).coherent = s.coherent := rfl
@[simp] theorem modDev_atomics (f : DevBlk → DevBlk) (s : State) : (modDev f s).atomics = s.atomics := rfl
@[simp] theorem modDev_sessions (f : DevBlk → DevBlk) (s : State) : (modDev f s).sessions = s.sessions := rfl
@[simp] theorem modDev_spdm (f : DevBlk → DevBlk) (s : State) : (modDev f s).spdm = s.spdm := rfl
@[simp] theorem modDev_measures (f : DevBlk → DevBlk) (s : State) : (modDev f s).measures = s.measures := rfl
@[simp] theorem modDev_eth (f : DevBlk → DevBlk) (s : State) : (modDev f s).eth = s.eth := rfl
@[simp] theorem modDev_shSpray (f : DevBlk → DevBlk) (s : State) : (modDev f s).shSpray = s.shSpray := rfl
@[simp] theorem modDev_shSel (f : DevBlk → DevBlk) (s : State) : (modDev f s).shSel = s.shSel := rfl
@[simp] theorem modDev_conns (f : DevBlk → DevBlk) (s : State) : (modDev f s).conns = s.conns := rfl
@[simp] theorem modDev_queues (f : DevBlk → DevBlk) (s : State) : (modDev f s).queues = s.queues := rfl
@[simp] theorem modDev_taken (f : DevBlk → DevBlk) (s : State) : (modDev f s).taken = s.taken := rfl
@[simp] theorem modDev_nextSeq (f : DevBlk → DevBlk) (s : State) : (modDev f s).nextSeq = s.nextSeq := rfl
@[simp] theorem modDev_turn (f : DevBlk → DevBlk) (s : State) : (modDev f s).turn = s.turn := rfl
@[simp] theorem modDev_errLog (f : DevBlk → DevBlk) (s : State) : (modDev f s).errLog = s.errLog := rfl
@[simp] theorem modDev_work (f : DevBlk → DevBlk) (s : State) : (modDev f s).work = s.work := rfl
@[simp] theorem modDev_store (f : DevBlk → DevBlk) (s : State) : (modDev f s).store = s.store := rfl
@[simp] theorem modDev_clusters (f : DevBlk → DevBlk) (s : State) : (modDev f s).clusters = s.clusters := rfl
@[simp] theorem modDev_ulb (f : DevBlk → DevBlk) (s : State) : (modDev f s).ulb = s.ulb := rfl
@[simp] theorem modDev_fw (f : DevBlk → DevBlk) (s : State) : (modDev f s).fw = s.fw := rfl
@[simp] theorem modDev_disk (f : DevBlk → DevBlk) (s : State) : (modDev f s).disk = s.disk := rfl
@[simp] theorem modDev_flash (f : DevBlk → DevBlk) (s : State) : (modDev f s).flash = s.flash := rfl
@[simp] theorem modDev_out (f : DevBlk → DevBlk) (s : State) : (modDev f s).out = s.out := rfl
@[simp] theorem modDev_free (f : DevBlk → DevBlk) (s : State) : (modDev f s).free = s.free := rfl
@[simp] theorem modDev_port (f : DevBlk → DevBlk) (s : State) (j : Nat) : port (modDev f s) j = port s j := rfl
@[simp] theorem modDev_agent (f : DevBlk → DevBlk) (s : State) (j : Nat) : agent (modDev f s) j = agent s j := rfl
@[simp] theorem modDev_die (f : DevBlk → DevBlk) (s : State) (j : Nat) : die (modDev f s) j = die s j := rfl
@[simp] theorem modDev_cluster (f : DevBlk → DevBlk) (s : State) (j : Nat) : cluster (modDev f s) j = cluster s j := rfl
@[simp] theorem modDev_ethPort (f : DevBlk → DevBlk) (s : State) (j : Nat) : ethPort (modDev f s) j = ethPort s j := rfl
@[simp] theorem modDev_companyOf (f : DevBlk → DevBlk) (s : State) (j : Nat) : companyOf (modDev f s) j = companyOf s j := rfl
@[simp] theorem modDev_queue (f : DevBlk → DevBlk) (s : State) (j : Nat) : queue (modDev f s) j = queue s j := rfl

/-! postEvent -/
@[simp] theorem postEvent_pending (e c : Nat) (x y : Word64) (s : State) : (postEvent e c x y s).pending = s.pending := rfl
@[simp] theorem postEvent_fuses (e c : Nat) (x y : Word64) (s : State) : (postEvent e c x y s).fuses = s.fuses := rfl
@[simp] theorem postEvent_dev (e c : Nat) (x y : Word64) (s : State) : (postEvent e c x y s).dev = s.dev := rfl
@[simp] theorem postEvent_pwr (e c : Nat) (x y : Word64) (s : State) : (postEvent e c x y s).pwr = s.pwr := rfl
@[simp] theorem postEvent_lock (e c : Nat) (x y : Word64) (s : State) : (postEvent e c x y s).lock = s.lock := rfl
@[simp] theorem postEvent_arb (e c : Nat) (x y : Word64) (s : State) : (postEvent e c x y s).arb = s.arb := rfl
@[simp] theorem postEvent_health (e c : Nat) (x y : Word64) (s : State) : (postEvent e c x y s).health = s.health := rfl
@[simp] theorem postEvent_loft (e c : Nat) (x y : Word64) (s : State) : (postEvent e c x y s).loft = s.loft := rfl
@[simp] theorem postEvent_perf (e c : Nat) (x y : Word64) (s : State) : (postEvent e c x y s).perf = s.perf := rfl
@[simp] theorem postEvent_perf2 (e c : Nat) (x y : Word64) (s : State) : (postEvent e c x y s).perf2 = s.perf2 := rfl
@[simp] theorem postEvent_ports (e c : Nat) (x y : Word64) (s : State) : (postEvent e c x y s).ports = s.ports := rfl
@[simp] theorem postEvent_agents (e c : Nat) (x y : Word64) (s : State) : (postEvent e c x y s).agents = s.agents := rfl
@[simp] theorem postEvent_snoops (e c : Nat) (x y : Word64) (s : State) : (postEvent e c x y s).snoops = s.snoops := rfl
@[simp] theorem postEvent_snoopWaits (e c : Nat) (x y : Word64) (s : State) : (postEvent e c x y s).snoopWaits = s.snoopWaits := rfl
@[simp] theorem postEvent_coherent (e c : Nat) (x y : Word64) (s : State) : (postEvent e c x y s).coherent = s.coherent := rfl
@[simp] theorem postEvent_atomics (e c : Nat) (x y : Word64) (s : State) : (postEvent e c x y s).atomics = s.atomics := rfl
@[simp] theorem postEvent_sessions (e c : Nat) (x y : Word64) (s : State) : (postEvent e c x y s).sessions = s.sessions := rfl
@[simp] theorem postEvent_spdm (e c : Nat) (x y : Word64) (s : State) : (postEvent e c x y s).spdm = s.spdm := rfl
@[simp] theorem postEvent_measures (e c : Nat) (x y : Word64) (s : State) : (postEvent e c x y s).measures = s.measures := rfl
@[simp] theorem postEvent_eth (e c : Nat) (x y : Word64) (s : State) : (postEvent e c x y s).eth = s.eth := rfl
@[simp] theorem postEvent_shSpray (e c : Nat) (x y : Word64) (s : State) : (postEvent e c x y s).shSpray = s.shSpray := rfl
@[simp] theorem postEvent_shSel (e c : Nat) (x y : Word64) (s : State) : (postEvent e c x y s).shSel = s.shSel := rfl
@[simp] theorem postEvent_conns (e c : Nat) (x y : Word64) (s : State) : (postEvent e c x y s).conns = s.conns := rfl
@[simp] theorem postEvent_queues (e c : Nat) (x y : Word64) (s : State) : (postEvent e c x y s).queues = s.queues := rfl
@[simp] theorem postEvent_taken (e c : Nat) (x y : Word64) (s : State) : (postEvent e c x y s).taken = s.taken := rfl
@[simp] theorem postEvent_nextSeq (e c : Nat) (x y : Word64) (s : State) : (postEvent e c x y s).nextSeq = s.nextSeq := rfl
@[simp] theorem postEvent_turn (e c : Nat) (x y : Word64) (s : State) : (postEvent e c x y s).turn = s.turn := rfl
@[simp] theorem postEvent_errLog (e c : Nat) (x y : Word64) (s : State) : (postEvent e c x y s).errLog = s.errLog := rfl
@[simp] theorem postEvent_work (e c : Nat) (x y : Word64) (s : State) : (postEvent e c x y s).work = s.work := rfl
@[simp] theorem postEvent_store (e c : Nat) (x y : Word64) (s : State) : (postEvent e c x y s).store = s.store := rfl
@[simp] theorem postEvent_clusters (e c : Nat) (x y : Word64) (s : State) : (postEvent e c x y s).clusters = s.clusters := rfl
@[simp] theorem postEvent_ulb (e c : Nat) (x y : Word64) (s : State) : (postEvent e c x y s).ulb = s.ulb := rfl
@[simp] theorem postEvent_fw (e c : Nat) (x y : Word64) (s : State) : (postEvent e c x y s).fw = s.fw := rfl
@[simp] theorem postEvent_disk (e c : Nat) (x y : Word64) (s : State) : (postEvent e c x y s).disk = s.disk := rfl
@[simp] theorem postEvent_flash (e c : Nat) (x y : Word64) (s : State) : (postEvent e c x y s).flash = s.flash := rfl
@[simp] theorem postEvent_out (e c : Nat) (x y : Word64) (s : State) : (postEvent e c x y s).out = s.out := rfl
@[simp] theorem postEvent_free (e c : Nat) (x y : Word64) (s : State) : (postEvent e c x y s).free = s.free := rfl
@[simp] theorem postEvent_port (e c : Nat) (x y : Word64) (s : State) (j : Nat) : port (postEvent e c x y s) j = port s j := rfl
@[simp] theorem postEvent_agent (e c : Nat) (x y : Word64) (s : State) (j : Nat) : agent (postEvent e c x y s) j = agent s j := rfl
@[simp] theorem postEvent_die (e c : Nat) (x y : Word64) (s : State) (j : Nat) : die (postEvent e c x y s) j = die s j := rfl
@[simp] theorem postEvent_cluster (e c : Nat) (x y : Word64) (s : State) (j : Nat) : cluster (postEvent e c x y s) j = cluster s j := rfl
@[simp] theorem postEvent_ethPort (e c : Nat) (x y : Word64) (s : State) (j : Nat) : ethPort (postEvent e c x y s) j = ethPort s j := rfl
@[simp] theorem postEvent_companyOf (e c : Nat) (x y : Word64) (s : State) (j : Nat) : companyOf (postEvent e c x y s) j = companyOf s j := rfl
@[simp] theorem postEvent_queue (e c : Nat) (x y : Word64) (s : State) (j : Nat) : queue (postEvent e c x y s) j = queue s j := rfl
@[simp] theorem postEvent_now (e c : Nat) (x y : Word64) (s : State) : now (postEvent e c x y s) = now s := rfl

/-! dropTaken -/
@[simp] theorem dropTaken_pending (n : Nat) (s : State) : (dropTaken n s).pending = s.pending := rfl
@[simp] theorem dropTaken_fuses (n : Nat) (s : State) : (dropTaken n s).fuses = s.fuses := rfl
@[simp] theorem dropTaken_dev (n : Nat) (s : State) : (dropTaken n s).dev = s.dev := rfl
@[simp] theorem dropTaken_pwr (n : Nat) (s : State) : (dropTaken n s).pwr = s.pwr := rfl
@[simp] theorem dropTaken_lock (n : Nat) (s : State) : (dropTaken n s).lock = s.lock := rfl
@[simp] theorem dropTaken_evt (n : Nat) (s : State) : (dropTaken n s).evt = s.evt := rfl
@[simp] theorem dropTaken_health (n : Nat) (s : State) : (dropTaken n s).health = s.health := rfl
@[simp] theorem dropTaken_perf (n : Nat) (s : State) : (dropTaken n s).perf = s.perf := rfl
@[simp] theorem dropTaken_perf2 (n : Nat) (s : State) : (dropTaken n s).perf2 = s.perf2 := rfl
@[simp] theorem dropTaken_ports (n : Nat) (s : State) : (dropTaken n s).ports = s.ports := rfl
@[simp] theorem dropTaken_agents (n : Nat) (s : State) : (dropTaken n s).agents = s.agents := rfl
@[simp] theorem dropTaken_snoops (n : Nat) (s : State) : (dropTaken n s).snoops = s.snoops := rfl
@[simp] theorem dropTaken_snoopWaits (n : Nat) (s : State) : (dropTaken n s).snoopWaits = s.snoopWaits := rfl
@[simp] theorem dropTaken_coherent (n : Nat) (s : State) : (dropTaken n s).coherent = s.coherent := rfl
@[simp] theorem dropTaken_atomics (n : Nat) (s : State) : (dropTaken n s).atomics = s.atomics := rfl
@[simp] theorem dropTaken_sessions (n : Nat) (s : State) : (dropTaken n s).sessions = s.sessions := rfl
@[simp] theorem dropTaken_spdm (n : Nat) (s : State) : (dropTaken n s).spdm = s.spdm := rfl
@[simp] theorem dropTaken_measures (n : Nat) (s : State) : (dropTaken n s).measures = s.measures := rfl
@[simp] theorem dropTaken_eth (n : Nat) (s : State) : (dropTaken n s).eth = s.eth := rfl
@[simp] theorem dropTaken_shSpray (n : Nat) (s : State) : (dropTaken n s).shSpray = s.shSpray := rfl
@[simp] theorem dropTaken_shSel (n : Nat) (s : State) : (dropTaken n s).shSel = s.shSel := rfl
@[simp] theorem dropTaken_conns (n : Nat) (s : State) : (dropTaken n s).conns = s.conns := rfl
@[simp] theorem dropTaken_queues (n : Nat) (s : State) : (dropTaken n s).queues = s.queues := rfl
@[simp] theorem dropTaken_nextSeq (n : Nat) (s : State) : (dropTaken n s).nextSeq = s.nextSeq := rfl
@[simp] theorem dropTaken_turn (n : Nat) (s : State) : (dropTaken n s).turn = s.turn := rfl
@[simp] theorem dropTaken_errLog (n : Nat) (s : State) : (dropTaken n s).errLog = s.errLog := rfl
@[simp] theorem dropTaken_clusters (n : Nat) (s : State) : (dropTaken n s).clusters = s.clusters := rfl
@[simp] theorem dropTaken_ulb (n : Nat) (s : State) : (dropTaken n s).ulb = s.ulb := rfl
@[simp] theorem dropTaken_fw (n : Nat) (s : State) : (dropTaken n s).fw = s.fw := rfl
@[simp] theorem dropTaken_disk (n : Nat) (s : State) : (dropTaken n s).disk = s.disk := rfl
@[simp] theorem dropTaken_flash (n : Nat) (s : State) : (dropTaken n s).flash = s.flash := rfl
@[simp] theorem dropTaken_out (n : Nat) (s : State) : (dropTaken n s).out = s.out := rfl
@[simp] theorem dropTaken_free (n : Nat) (s : State) : (dropTaken n s).free = s.free := rfl
@[simp] theorem dropTaken_port (n : Nat) (s : State) (j : Nat) : port (dropTaken n s) j = port s j := rfl
@[simp] theorem dropTaken_agent (n : Nat) (s : State) (j : Nat) : agent (dropTaken n s) j = agent s j := rfl
@[simp] theorem dropTaken_cluster (n : Nat) (s : State) (j : Nat) : cluster (dropTaken n s) j = cluster s j := rfl
@[simp] theorem dropTaken_ethPort (n : Nat) (s : State) (j : Nat) : ethPort (dropTaken n s) j = ethPort s j := rfl
@[simp] theorem dropTaken_companyOf (n : Nat) (s : State) (j : Nat) : companyOf (dropTaken n s) j = companyOf s j := rfl
@[simp] theorem dropTaken_queue (n : Nat) (s : State) (j : Nat) : queue (dropTaken n s) j = queue s j := rfl
@[simp] theorem dropTaken_now (n : Nat) (s : State) : now (dropTaken n s) = now s := rfl
@[simp] theorem dropTaken_store_companies (n : Nat) (s : State) : (dropTaken n s).store.companies = s.store.companies := rfl
@[simp] theorem dropTaken_store_models (n : Nat) (s : State) : (dropTaken n s).store.models = s.store.models := rfl
@[simp] theorem dropTaken_store_streams (n : Nat) (s : State) : (dropTaken n s).store.streams = s.store.streams := rfl
@[simp] theorem dropTaken_store_scenes (n : Nat) (s : State) : (dropTaken n s).store.scenes = s.store.scenes := rfl
@[simp] theorem dropTaken_store_scratch (n : Nat) (s : State) : (dropTaken n s).store.scratch = s.store.scratch := rfl
@[simp] theorem dropTaken_store_maps (n : Nat) (s : State) : (dropTaken n s).store.maps = s.store.maps := rfl
@[simp] theorem dropTaken_store_tables (n : Nat) (s : State) : (dropTaken n s).store.tables = s.store.tables := rfl
@[simp] theorem dropTaken_store_handles (n : Nat) (s : State) : (dropTaken n s).store.handles = s.store.handles := rfl
@[simp] theorem dropTaken_store_seals (n : Nat) (s : State) : (dropTaken n s).store.seals = s.store.seals := rfl
@[simp] theorem dropTaken_store_issued (n : Nat) (s : State) : (dropTaken n s).store.issued = s.store.issued := rfl
@[simp] theorem dropTaken_store_tenancy (n : Nat) (s : State) : (dropTaken n s).store.tenancy = s.store.tenancy := rfl
@[simp] theorem dropTaken_store_bandwidth (n : Nat) (s : State) : (dropTaken n s).store.bandwidth = s.store.bandwidth := rfl
@[simp] theorem dropTaken_store_fetchBuf (n : Nat) (s : State) : (dropTaken n s).store.fetchBuf = s.store.fetchBuf := rfl
@[simp] theorem dropTaken_loft_roCause (n : Nat) (s : State) : (dropTaken n s).loft.roCause = s.loft.roCause := rfl
@[simp] theorem dropTaken_loft_rebuildPct (n : Nat) (s : State) : (dropTaken n s).loft.rebuildPct = s.loft.rebuildPct := rfl
@[simp] theorem dropTaken_loft_rebuildActive (n : Nat) (s : State) : (dropTaken n s).loft.rebuildActive = s.loft.rebuildActive := rfl
@[simp] theorem dropTaken_loft_failedDies (n : Nat) (s : State) : (dropTaken n s).loft.failedDies = s.loft.failedDies := rfl
@[simp] theorem dropTaken_loft_spareLeft (n : Nat) (s : State) : (dropTaken n s).loft.spareLeft = s.loft.spareLeft := rfl
@[simp] theorem dropTaken_loft_pctUsed (n : Nat) (s : State) : (dropTaken n s).loft.pctUsed = s.loft.pctUsed := rfl
@[simp] theorem dropTaken_loft_peMax (n : Nat) (s : State) : (dropTaken n s).loft.peMax = s.loft.peMax := rfl
@[simp] theorem dropTaken_loft_peAvg (n : Nat) (s : State) : (dropTaken n s).loft.peAvg = s.loft.peAvg := rfl
@[simp] theorem dropTaken_loft_gbWritten (n : Nat) (s : State) : (dropTaken n s).loft.gbWritten = s.loft.gbWritten := rfl
@[simp] theorem dropTaken_loft_remainder (n : Nat) (s : State) : (dropTaken n s).loft.remainder = s.loft.remainder := rfl
@[simp] theorem dropTaken_loft_dieSel (n : Nat) (s : State) : (dropTaken n s).loft.dieSel = s.loft.dieSel := rfl
@[simp] theorem dropTaken_loft_scrubDays (n : Nat) (s : State) : (dropTaken n s).loft.scrubDays = s.loft.scrubDays := rfl
@[simp] theorem dropTaken_loft_calibMin (n : Nat) (s : State) : (dropTaken n s).loft.calibMin = s.loft.calibMin := rfl
@[simp] theorem dropTaken_loft_rebuildShare (n : Nat) (s : State) : (dropTaken n s).loft.rebuildShare = s.loft.rebuildShare := rfl
@[simp] theorem dropTaken_loft_dies (n : Nat) (s : State) : (dropTaken n s).loft.dies = s.loft.dies := rfl
@[simp] theorem dropTaken_loft_journal (n : Nat) (s : State) : (dropTaken n s).loft.journal = s.loft.journal := rfl
@[simp] theorem dropTaken_loft_jprog (n : Nat) (s : State) : (dropTaken n s).loft.jprog = s.loft.jprog := rfl
@[simp] theorem dropTaken_loft_written (n : Nat) (s : State) : (dropTaken n s).loft.written = s.loft.written := rfl
@[simp] theorem dropTaken_loft_ckptAt (n : Nat) (s : State) : (dropTaken n s).loft.ckptAt = s.loft.ckptAt := rfl
@[simp] theorem dropTaken_loft_jcount (n : Nat) (s : State) : (dropTaken n s).loft.jcount = s.loft.jcount := rfl
@[simp] theorem dropTaken_loft_jchans (n : Nat) (s : State) : (dropTaken n s).loft.jchans = s.loft.jchans := rfl
@[simp] theorem dropTaken_loft_lossMarker (n : Nat) (s : State) : (dropTaken n s).loft.lossMarker = s.loft.lossMarker := rfl
@[simp] theorem dropTaken_loft_openStripe (n : Nat) (s : State) : (dropTaken n s).loft.openStripe = s.loft.openStripe := rfl
@[simp] theorem dropTaken_loft_nextStripe (n : Nat) (s : State) : (dropTaken n s).loft.nextStripe = s.loft.nextStripe := rfl
@[simp] theorem dropTaken_loft_groupCount (n : Nat) (s : State) : (dropTaken n s).loft.groupCount = s.loft.groupCount := rfl
@[simp] theorem dropTaken_loft_wbQueue (n : Nat) (s : State) : (dropTaken n s).loft.wbQueue = s.loft.wbQueue := rfl
@[simp] theorem dropTaken_loft_d0 (n : Nat) (s : State) : (dropTaken n s).loft.d0 = s.loft.d0 := rfl
@[simp] theorem dropTaken_loft_nextItem (n : Nat) (s : State) : (dropTaken n s).loft.nextItem = s.loft.nextItem := rfl
@[simp] theorem dropTaken_loft_rebuilding (n : Nat) (s : State) : (dropTaken n s).loft.rebuilding = s.loft.rebuilding := rfl
@[simp] theorem dropTaken_loft_rebuilds (n : Nat) (s : State) : (dropTaken n s).loft.rebuilds = s.loft.rebuilds := rfl
@[simp] theorem dropTaken_loft_rebuildTotal (n : Nat) (s : State) : (dropTaken n s).loft.rebuildTotal = s.loft.rebuildTotal := rfl
@[simp] theorem dropTaken_loft_scrubPass (n : Nat) (s : State) : (dropTaken n s).loft.scrubPass = s.loft.scrubPass := rfl
@[simp] theorem dropTaken_loft_roItem (n : Nat) (s : State) : (dropTaken n s).loft.roItem = s.loft.roItem := rfl
@[simp] theorem dropTaken_work_cues (n : Nat) (s : State) : (dropTaken n s).work.cues = s.work.cues := rfl
@[simp] theorem dropTaken_work_atts (n : Nat) (s : State) : (dropTaken n s).work.atts = s.work.atts := rfl
@[simp] theorem dropTaken_work_sketches (n : Nat) (s : State) : (dropTaken n s).work.sketches = s.work.sketches := rfl
@[simp] theorem dropTaken_work_wstreams (n : Nat) (s : State) : (dropTaken n s).work.wstreams = s.work.wstreams := rfl
@[simp] theorem dropTaken_work_runs (n : Nat) (s : State) : (dropTaken n s).work.runs = s.work.runs := rfl
@[simp] theorem dropTaken_work_nets (n : Nat) (s : State) : (dropTaken n s).work.nets = s.work.nets := rfl
@[simp] theorem dropTaken_work_rules (n : Nat) (s : State) : (dropTaken n s).work.rules = s.work.rules := rfl
@[simp] theorem dropTaken_work_loads (n : Nat) (s : State) : (dropTaken n s).work.loads = s.work.loads := rfl
@[simp] theorem dropTaken_work_mesh (n : Nat) (s : State) : (dropTaken n s).work.mesh = s.work.mesh := rfl
@[simp] theorem dropTaken_work_staging (n : Nat) (s : State) : (dropTaken n s).work.staging = s.work.staging := rfl
@[simp] theorem dropTaken_work_transient (n : Nat) (s : State) : (dropTaken n s).work.transient = s.work.transient := rfl
@[simp] theorem dropTaken_work_working (n : Nat) (s : State) : (dropTaken n s).work.working = s.work.working := rfl
@[simp] theorem dropTaken_work_records (n : Nat) (s : State) : (dropTaken n s).work.records = s.work.records := rfl
@[simp] theorem dropTaken_work_drains (n : Nat) (s : State) : (dropTaken n s).work.drains = s.work.drains := rfl
@[simp] theorem dropTaken_arb_ctrl (n : Nat) (s : State) : (dropTaken n s).arb.ctrl = s.arb.ctrl := rfl
@[simp] theorem dropTaken_arb_starve (n : Nat) (s : State) : (dropTaken n s).arb.starve = s.arb.starve := rfl
@[simp] theorem dropTaken_arb_src (n : Nat) (s : State) : (dropTaken n s).arb.src = s.arb.src := rfl
@[simp] theorem dropTaken_die (n : Nat) (s : State) (j : Nat) : die (dropTaken n s) j = die s j := rfl
theorem dropTaken_taken (n : Nat) (s : State) : (dropTaken n s).taken = s.taken.filter fun t => t.seq != n := rfl

/-! countRefusal -/
@[simp] theorem countRefusal_pending (c : Nat) (s : State) : (countRefusal c s).pending = s.pending := rfl
@[simp] theorem countRefusal_fuses (c : Nat) (s : State) : (countRefusal c s).fuses = s.fuses := rfl
@[simp] theorem countRefusal_dev (c : Nat) (s : State) : (countRefusal c s).dev = s.dev := rfl
@[simp] theorem countRefusal_pwr (c : Nat) (s : State) : (countRefusal c s).pwr = s.pwr := rfl
@[simp] theorem countRefusal_evt (c : Nat) (s : State) : (countRefusal c s).evt = s.evt := rfl
@[simp] theorem countRefusal_arb (c : Nat) (s : State) : (countRefusal c s).arb = s.arb := rfl
@[simp] theorem countRefusal_health (c : Nat) (s : State) : (countRefusal c s).health = s.health := rfl
@[simp] theorem countRefusal_loft (c : Nat) (s : State) : (countRefusal c s).loft = s.loft := rfl
@[simp] theorem countRefusal_perf (c : Nat) (s : State) : (countRefusal c s).perf = s.perf := rfl
@[simp] theorem countRefusal_perf2 (c : Nat) (s : State) : (countRefusal c s).perf2 = s.perf2 := rfl
@[simp] theorem countRefusal_ports (c : Nat) (s : State) : (countRefusal c s).ports = s.ports := rfl
@[simp] theorem countRefusal_agents (c : Nat) (s : State) : (countRefusal c s).agents = s.agents := rfl
@[simp] theorem countRefusal_snoops (c : Nat) (s : State) : (countRefusal c s).snoops = s.snoops := rfl
@[simp] theorem countRefusal_snoopWaits (c : Nat) (s : State) : (countRefusal c s).snoopWaits = s.snoopWaits := rfl
@[simp] theorem countRefusal_coherent (c : Nat) (s : State) : (countRefusal c s).coherent = s.coherent := rfl
@[simp] theorem countRefusal_atomics (c : Nat) (s : State) : (countRefusal c s).atomics = s.atomics := rfl
@[simp] theorem countRefusal_sessions (c : Nat) (s : State) : (countRefusal c s).sessions = s.sessions := rfl
@[simp] theorem countRefusal_spdm (c : Nat) (s : State) : (countRefusal c s).spdm = s.spdm := rfl
@[simp] theorem countRefusal_measures (c : Nat) (s : State) : (countRefusal c s).measures = s.measures := rfl
@[simp] theorem countRefusal_eth (c : Nat) (s : State) : (countRefusal c s).eth = s.eth := rfl
@[simp] theorem countRefusal_shSpray (c : Nat) (s : State) : (countRefusal c s).shSpray = s.shSpray := rfl
@[simp] theorem countRefusal_shSel (c : Nat) (s : State) : (countRefusal c s).shSel = s.shSel := rfl
@[simp] theorem countRefusal_conns (c : Nat) (s : State) : (countRefusal c s).conns = s.conns := rfl
@[simp] theorem countRefusal_queues (c : Nat) (s : State) : (countRefusal c s).queues = s.queues := rfl
@[simp] theorem countRefusal_taken (c : Nat) (s : State) : (countRefusal c s).taken = s.taken := rfl
@[simp] theorem countRefusal_nextSeq (c : Nat) (s : State) : (countRefusal c s).nextSeq = s.nextSeq := rfl
@[simp] theorem countRefusal_turn (c : Nat) (s : State) : (countRefusal c s).turn = s.turn := rfl
@[simp] theorem countRefusal_errLog (c : Nat) (s : State) : (countRefusal c s).errLog = s.errLog := rfl
@[simp] theorem countRefusal_work (c : Nat) (s : State) : (countRefusal c s).work = s.work := rfl
@[simp] theorem countRefusal_store (c : Nat) (s : State) : (countRefusal c s).store = s.store := rfl
@[simp] theorem countRefusal_clusters (c : Nat) (s : State) : (countRefusal c s).clusters = s.clusters := rfl
@[simp] theorem countRefusal_ulb (c : Nat) (s : State) : (countRefusal c s).ulb = s.ulb := rfl
@[simp] theorem countRefusal_fw (c : Nat) (s : State) : (countRefusal c s).fw = s.fw := rfl
@[simp] theorem countRefusal_disk (c : Nat) (s : State) : (countRefusal c s).disk = s.disk := rfl
@[simp] theorem countRefusal_flash (c : Nat) (s : State) : (countRefusal c s).flash = s.flash := rfl
@[simp] theorem countRefusal_out (c : Nat) (s : State) : (countRefusal c s).out = s.out := rfl
@[simp] theorem countRefusal_free (c : Nat) (s : State) : (countRefusal c s).free = s.free := rfl
@[simp] theorem countRefusal_port (c : Nat) (s : State) (j : Nat) : port (countRefusal c s) j = port s j := rfl
@[simp] theorem countRefusal_agent (c : Nat) (s : State) (j : Nat) : agent (countRefusal c s) j = agent s j := rfl
@[simp] theorem countRefusal_die (c : Nat) (s : State) (j : Nat) : die (countRefusal c s) j = die s j := rfl
@[simp] theorem countRefusal_cluster (c : Nat) (s : State) (j : Nat) : cluster (countRefusal c s) j = cluster s j := rfl
@[simp] theorem countRefusal_ethPort (c : Nat) (s : State) (j : Nat) : ethPort (countRefusal c s) j = ethPort s j := rfl
@[simp] theorem countRefusal_companyOf (c : Nat) (s : State) (j : Nat) : companyOf (countRefusal c s) j = companyOf s j := rfl
@[simp] theorem countRefusal_queue (c : Nat) (s : State) (j : Nat) : queue (countRefusal c s) j = queue s j := rfl
@[simp] theorem countRefusal_now (c : Nat) (s : State) : now (countRefusal c s) = now s := rfl

/-! countPortRefusal -/
@[simp] theorem countPortRefusal_pending (c : Nat) (s : State) : (countPortRefusal c s).pending = s.pending := rfl
@[simp] theorem countPortRefusal_fuses (c : Nat) (s : State) : (countPortRefusal c s).fuses = s.fuses := rfl
@[simp] theorem countPortRefusal_dev (c : Nat) (s : State) : (countPortRefusal c s).dev = s.dev := rfl
@[simp] theorem countPortRefusal_pwr (c : Nat) (s : State) : (countPortRefusal c s).pwr = s.pwr := rfl
@[simp] theorem countPortRefusal_evt (c : Nat) (s : State) : (countPortRefusal c s).evt = s.evt := rfl
@[simp] theorem countPortRefusal_arb (c : Nat) (s : State) : (countPortRefusal c s).arb = s.arb := rfl
@[simp] theorem countPortRefusal_health (c : Nat) (s : State) : (countPortRefusal c s).health = s.health := rfl
@[simp] theorem countPortRefusal_loft (c : Nat) (s : State) : (countPortRefusal c s).loft = s.loft := rfl
@[simp] theorem countPortRefusal_perf (c : Nat) (s : State) : (countPortRefusal c s).perf = s.perf := rfl
@[simp] theorem countPortRefusal_perf2 (c : Nat) (s : State) : (countPortRefusal c s).perf2 = s.perf2 := rfl
@[simp] theorem countPortRefusal_ports (c : Nat) (s : State) : (countPortRefusal c s).ports = s.ports := rfl
@[simp] theorem countPortRefusal_agents (c : Nat) (s : State) : (countPortRefusal c s).agents = s.agents := rfl
@[simp] theorem countPortRefusal_snoops (c : Nat) (s : State) : (countPortRefusal c s).snoops = s.snoops := rfl
@[simp] theorem countPortRefusal_snoopWaits (c : Nat) (s : State) : (countPortRefusal c s).snoopWaits = s.snoopWaits := rfl
@[simp] theorem countPortRefusal_coherent (c : Nat) (s : State) : (countPortRefusal c s).coherent = s.coherent := rfl
@[simp] theorem countPortRefusal_atomics (c : Nat) (s : State) : (countPortRefusal c s).atomics = s.atomics := rfl
@[simp] theorem countPortRefusal_sessions (c : Nat) (s : State) : (countPortRefusal c s).sessions = s.sessions := rfl
@[simp] theorem countPortRefusal_spdm (c : Nat) (s : State) : (countPortRefusal c s).spdm = s.spdm := rfl
@[simp] theorem countPortRefusal_measures (c : Nat) (s : State) : (countPortRefusal c s).measures = s.measures := rfl
@[simp] theorem countPortRefusal_eth (c : Nat) (s : State) : (countPortRefusal c s).eth = s.eth := rfl
@[simp] theorem countPortRefusal_shSpray (c : Nat) (s : State) : (countPortRefusal c s).shSpray = s.shSpray := rfl
@[simp] theorem countPortRefusal_shSel (c : Nat) (s : State) : (countPortRefusal c s).shSel = s.shSel := rfl
@[simp] theorem countPortRefusal_conns (c : Nat) (s : State) : (countPortRefusal c s).conns = s.conns := rfl
@[simp] theorem countPortRefusal_queues (c : Nat) (s : State) : (countPortRefusal c s).queues = s.queues := rfl
@[simp] theorem countPortRefusal_taken (c : Nat) (s : State) : (countPortRefusal c s).taken = s.taken := rfl
@[simp] theorem countPortRefusal_nextSeq (c : Nat) (s : State) : (countPortRefusal c s).nextSeq = s.nextSeq := rfl
@[simp] theorem countPortRefusal_turn (c : Nat) (s : State) : (countPortRefusal c s).turn = s.turn := rfl
@[simp] theorem countPortRefusal_errLog (c : Nat) (s : State) : (countPortRefusal c s).errLog = s.errLog := rfl
@[simp] theorem countPortRefusal_work (c : Nat) (s : State) : (countPortRefusal c s).work = s.work := rfl
@[simp] theorem countPortRefusal_store (c : Nat) (s : State) : (countPortRefusal c s).store = s.store := rfl
@[simp] theorem countPortRefusal_clusters (c : Nat) (s : State) : (countPortRefusal c s).clusters = s.clusters := rfl
@[simp] theorem countPortRefusal_ulb (c : Nat) (s : State) : (countPortRefusal c s).ulb = s.ulb := rfl
@[simp] theorem countPortRefusal_fw (c : Nat) (s : State) : (countPortRefusal c s).fw = s.fw := rfl
@[simp] theorem countPortRefusal_disk (c : Nat) (s : State) : (countPortRefusal c s).disk = s.disk := rfl
@[simp] theorem countPortRefusal_flash (c : Nat) (s : State) : (countPortRefusal c s).flash = s.flash := rfl
@[simp] theorem countPortRefusal_out (c : Nat) (s : State) : (countPortRefusal c s).out = s.out := rfl
@[simp] theorem countPortRefusal_free (c : Nat) (s : State) : (countPortRefusal c s).free = s.free := rfl
@[simp] theorem countPortRefusal_port (c : Nat) (s : State) (j : Nat) : port (countPortRefusal c s) j = port s j := rfl
@[simp] theorem countPortRefusal_agent (c : Nat) (s : State) (j : Nat) : agent (countPortRefusal c s) j = agent s j := rfl
@[simp] theorem countPortRefusal_die (c : Nat) (s : State) (j : Nat) : die (countPortRefusal c s) j = die s j := rfl
@[simp] theorem countPortRefusal_cluster (c : Nat) (s : State) (j : Nat) : cluster (countPortRefusal c s) j = cluster s j := rfl
@[simp] theorem countPortRefusal_ethPort (c : Nat) (s : State) (j : Nat) : ethPort (countPortRefusal c s) j = ethPort s j := rfl
@[simp] theorem countPortRefusal_companyOf (c : Nat) (s : State) (j : Nat) : companyOf (countPortRefusal c s) j = companyOf s j := rfl
@[simp] theorem countPortRefusal_queue (c : Nat) (s : State) (j : Nat) : queue (countPortRefusal c s) j = queue s j := rfl
@[simp] theorem countPortRefusal_now (c : Nat) (s : State) : now (countPortRefusal c s) = now s := rfl

/-! setRunning -/
@[simp] theorem setRunning_pending (n : Nat) (s : State) : (setRunning n s).pending = s.pending := rfl
@[simp] theorem setRunning_fuses (n : Nat) (s : State) : (setRunning n s).fuses = s.fuses := rfl
@[simp] theorem setRunning_dev (n : Nat) (s : State) : (setRunning n s).dev = s.dev := rfl
@[simp] theorem setRunning_pwr (n : Nat) (s : State) : (setRunning n s).pwr = s.pwr := rfl
@[simp] theorem setRunning_lock (n : Nat) (s : State) : (setRunning n s).lock = s.lock := rfl
@[simp] theorem setRunning_evt (n : Nat) (s : State) : (setRunning n s).evt = s.evt := rfl
@[simp] theorem setRunning_arb (n : Nat) (s : State) : (setRunning n s).arb = s.arb := rfl
@[simp] theorem setRunning_health (n : Nat) (s : State) : (setRunning n s).health = s.health := rfl
@[simp] theorem setRunning_loft (n : Nat) (s : State) : (setRunning n s).loft = s.loft := rfl
@[simp] theorem setRunning_perf (n : Nat) (s : State) : (setRunning n s).perf = s.perf := rfl
@[simp] theorem setRunning_perf2 (n : Nat) (s : State) : (setRunning n s).perf2 = s.perf2 := rfl
@[simp] theorem setRunning_ports (n : Nat) (s : State) : (setRunning n s).ports = s.ports := rfl
@[simp] theorem setRunning_agents (n : Nat) (s : State) : (setRunning n s).agents = s.agents := rfl
@[simp] theorem setRunning_snoops (n : Nat) (s : State) : (setRunning n s).snoops = s.snoops := rfl
@[simp] theorem setRunning_snoopWaits (n : Nat) (s : State) : (setRunning n s).snoopWaits = s.snoopWaits := rfl
@[simp] theorem setRunning_coherent (n : Nat) (s : State) : (setRunning n s).coherent = s.coherent := rfl
@[simp] theorem setRunning_atomics (n : Nat) (s : State) : (setRunning n s).atomics = s.atomics := rfl
@[simp] theorem setRunning_sessions (n : Nat) (s : State) : (setRunning n s).sessions = s.sessions := rfl
@[simp] theorem setRunning_spdm (n : Nat) (s : State) : (setRunning n s).spdm = s.spdm := rfl
@[simp] theorem setRunning_measures (n : Nat) (s : State) : (setRunning n s).measures = s.measures := rfl
@[simp] theorem setRunning_eth (n : Nat) (s : State) : (setRunning n s).eth = s.eth := rfl
@[simp] theorem setRunning_shSpray (n : Nat) (s : State) : (setRunning n s).shSpray = s.shSpray := rfl
@[simp] theorem setRunning_shSel (n : Nat) (s : State) : (setRunning n s).shSel = s.shSel := rfl
@[simp] theorem setRunning_conns (n : Nat) (s : State) : (setRunning n s).conns = s.conns := rfl
@[simp] theorem setRunning_queues (n : Nat) (s : State) : (setRunning n s).queues = s.queues := rfl
@[simp] theorem setRunning_nextSeq (n : Nat) (s : State) : (setRunning n s).nextSeq = s.nextSeq := rfl
@[simp] theorem setRunning_turn (n : Nat) (s : State) : (setRunning n s).turn = s.turn := rfl
@[simp] theorem setRunning_errLog (n : Nat) (s : State) : (setRunning n s).errLog = s.errLog := rfl
@[simp] theorem setRunning_work (n : Nat) (s : State) : (setRunning n s).work = s.work := rfl
@[simp] theorem setRunning_store (n : Nat) (s : State) : (setRunning n s).store = s.store := rfl
@[simp] theorem setRunning_clusters (n : Nat) (s : State) : (setRunning n s).clusters = s.clusters := rfl
@[simp] theorem setRunning_ulb (n : Nat) (s : State) : (setRunning n s).ulb = s.ulb := rfl
@[simp] theorem setRunning_fw (n : Nat) (s : State) : (setRunning n s).fw = s.fw := rfl
@[simp] theorem setRunning_disk (n : Nat) (s : State) : (setRunning n s).disk = s.disk := rfl
@[simp] theorem setRunning_flash (n : Nat) (s : State) : (setRunning n s).flash = s.flash := rfl
@[simp] theorem setRunning_out (n : Nat) (s : State) : (setRunning n s).out = s.out := rfl
@[simp] theorem setRunning_free (n : Nat) (s : State) : (setRunning n s).free = s.free := rfl
@[simp] theorem setRunning_port (n : Nat) (s : State) (j : Nat) : port (setRunning n s) j = port s j := rfl
@[simp] theorem setRunning_agent (n : Nat) (s : State) (j : Nat) : agent (setRunning n s) j = agent s j := rfl
@[simp] theorem setRunning_die (n : Nat) (s : State) (j : Nat) : die (setRunning n s) j = die s j := rfl
@[simp] theorem setRunning_cluster (n : Nat) (s : State) (j : Nat) : cluster (setRunning n s) j = cluster s j := rfl
@[simp] theorem setRunning_ethPort (n : Nat) (s : State) (j : Nat) : ethPort (setRunning n s) j = ethPort s j := rfl
@[simp] theorem setRunning_companyOf (n : Nat) (s : State) (j : Nat) : companyOf (setRunning n s) j = companyOf s j := rfl
@[simp] theorem setRunning_queue (n : Nat) (s : State) (j : Nat) : queue (setRunning n s) j = queue s j := rfl
@[simp] theorem setRunning_now (n : Nat) (s : State) : now (setRunning n s) = now s := rfl

/-! formRecord -/
@[simp] theorem formRecord_pending (k : JKind) (c : Option (Nat × Completion)) (s : State) : (formRecord k c s).pending = s.pending := rfl
@[simp] theorem formRecord_fuses (k : JKind) (c : Option (Nat × Completion)) (s : State) : (formRecord k c s).fuses = s.fuses := rfl
@[simp] theorem formRecord_dev (k : JKind) (c : Option (Nat × Completion)) (s : State) : (formRecord k c s).dev = s.dev := rfl
@[simp] theorem formRecord_pwr (k : JKind) (c : Option (Nat × Completion)) (s : State) : (formRecord k c s).pwr = s.pwr := rfl
@[simp] theorem formRecord_lock (k : JKind) (c : Option (Nat × Completion)) (s : State) : (formRecord k c s).lock = s.lock := rfl
@[simp] theorem formRecord_evt (k : JKind) (c : Option (Nat × Completion)) (s : State) : (formRecord k c s).evt = s.evt := rfl
@[simp] theorem formRecord_arb (k : JKind) (c : Option (Nat × Completion)) (s : State) : (formRecord k c s).arb = s.arb := rfl
@[simp] theorem formRecord_health (k : JKind) (c : Option (Nat × Completion)) (s : State) : (formRecord k c s).health = s.health := rfl
@[simp] theorem formRecord_perf (k : JKind) (c : Option (Nat × Completion)) (s : State) : (formRecord k c s).perf = s.perf := rfl
@[simp] theorem formRecord_perf2 (k : JKind) (c : Option (Nat × Completion)) (s : State) : (formRecord k c s).perf2 = s.perf2 := rfl
@[simp] theorem formRecord_ports (k : JKind) (c : Option (Nat × Completion)) (s : State) : (formRecord k c s).ports = s.ports := rfl
@[simp] theorem formRecord_agents (k : JKind) (c : Option (Nat × Completion)) (s : State) : (formRecord k c s).agents = s.agents := rfl
@[simp] theorem formRecord_snoops (k : JKind) (c : Option (Nat × Completion)) (s : State) : (formRecord k c s).snoops = s.snoops := rfl
@[simp] theorem formRecord_snoopWaits (k : JKind) (c : Option (Nat × Completion)) (s : State) : (formRecord k c s).snoopWaits = s.snoopWaits := rfl
@[simp] theorem formRecord_coherent (k : JKind) (c : Option (Nat × Completion)) (s : State) : (formRecord k c s).coherent = s.coherent := rfl
@[simp] theorem formRecord_atomics (k : JKind) (c : Option (Nat × Completion)) (s : State) : (formRecord k c s).atomics = s.atomics := rfl
@[simp] theorem formRecord_sessions (k : JKind) (c : Option (Nat × Completion)) (s : State) : (formRecord k c s).sessions = s.sessions := rfl
@[simp] theorem formRecord_spdm (k : JKind) (c : Option (Nat × Completion)) (s : State) : (formRecord k c s).spdm = s.spdm := rfl
@[simp] theorem formRecord_measures (k : JKind) (c : Option (Nat × Completion)) (s : State) : (formRecord k c s).measures = s.measures := rfl
@[simp] theorem formRecord_eth (k : JKind) (c : Option (Nat × Completion)) (s : State) : (formRecord k c s).eth = s.eth := rfl
@[simp] theorem formRecord_shSpray (k : JKind) (c : Option (Nat × Completion)) (s : State) : (formRecord k c s).shSpray = s.shSpray := rfl
@[simp] theorem formRecord_shSel (k : JKind) (c : Option (Nat × Completion)) (s : State) : (formRecord k c s).shSel = s.shSel := rfl
@[simp] theorem formRecord_conns (k : JKind) (c : Option (Nat × Completion)) (s : State) : (formRecord k c s).conns = s.conns := rfl
@[simp] theorem formRecord_queues (k : JKind) (c : Option (Nat × Completion)) (s : State) : (formRecord k c s).queues = s.queues := rfl
@[simp] theorem formRecord_taken (k : JKind) (c : Option (Nat × Completion)) (s : State) : (formRecord k c s).taken = s.taken := rfl
@[simp] theorem formRecord_nextSeq (k : JKind) (c : Option (Nat × Completion)) (s : State) : (formRecord k c s).nextSeq = s.nextSeq := rfl
@[simp] theorem formRecord_turn (k : JKind) (c : Option (Nat × Completion)) (s : State) : (formRecord k c s).turn = s.turn := rfl
@[simp] theorem formRecord_errLog (k : JKind) (c : Option (Nat × Completion)) (s : State) : (formRecord k c s).errLog = s.errLog := rfl
@[simp] theorem formRecord_work (k : JKind) (c : Option (Nat × Completion)) (s : State) : (formRecord k c s).work = s.work := rfl
@[simp] theorem formRecord_store (k : JKind) (c : Option (Nat × Completion)) (s : State) : (formRecord k c s).store = s.store := rfl
@[simp] theorem formRecord_clusters (k : JKind) (c : Option (Nat × Completion)) (s : State) : (formRecord k c s).clusters = s.clusters := rfl
@[simp] theorem formRecord_ulb (k : JKind) (c : Option (Nat × Completion)) (s : State) : (formRecord k c s).ulb = s.ulb := rfl
@[simp] theorem formRecord_fw (k : JKind) (c : Option (Nat × Completion)) (s : State) : (formRecord k c s).fw = s.fw := rfl
@[simp] theorem formRecord_disk (k : JKind) (c : Option (Nat × Completion)) (s : State) : (formRecord k c s).disk = s.disk := rfl
@[simp] theorem formRecord_flash (k : JKind) (c : Option (Nat × Completion)) (s : State) : (formRecord k c s).flash = s.flash := rfl
@[simp] theorem formRecord_out (k : JKind) (c : Option (Nat × Completion)) (s : State) : (formRecord k c s).out = s.out := rfl
@[simp] theorem formRecord_free (k : JKind) (c : Option (Nat × Completion)) (s : State) : (formRecord k c s).free = s.free := rfl
@[simp] theorem formRecord_port (k : JKind) (c : Option (Nat × Completion)) (s : State) (j : Nat) : port (formRecord k c s) j = port s j := rfl
@[simp] theorem formRecord_agent (k : JKind) (c : Option (Nat × Completion)) (s : State) (j : Nat) : agent (formRecord k c s) j = agent s j := rfl
@[simp] theorem formRecord_cluster (k : JKind) (c : Option (Nat × Completion)) (s : State) (j : Nat) : cluster (formRecord k c s) j = cluster s j := rfl
@[simp] theorem formRecord_ethPort (k : JKind) (c : Option (Nat × Completion)) (s : State) (j : Nat) : ethPort (formRecord k c s) j = ethPort s j := rfl
@[simp] theorem formRecord_companyOf (k : JKind) (c : Option (Nat × Completion)) (s : State) (j : Nat) : companyOf (formRecord k c s) j = companyOf s j := rfl
@[simp] theorem formRecord_queue (k : JKind) (c : Option (Nat × Completion)) (s : State) (j : Nat) : queue (formRecord k c s) j = queue s j := rfl
@[simp] theorem formRecord_now (k : JKind) (c : Option (Nat × Completion)) (s : State) : now (formRecord k c s) = now s := rfl

/-! What the updates change. -/

@[simp] theorem emit_out (o : Out) (s : State) : (emit o s).out = o :: s.out := rfl
@[simp] theorem modStore_store (f : Store → Store) (s : State) : (modStore f s).store = f s.store := rfl
@[simp] theorem modLoft_loft (f : LoftBlk → LoftBlk) (s : State) : (modLoft f s).loft = f s.loft := rfl
@[simp] theorem modWork_work (f : Work → Work) (s : State) : (modWork f s).work = f s.work := rfl
@[simp] theorem modPerf_perf (f : PerfBlk → PerfBlk) (s : State) : (modPerf f s).perf = f s.perf := rfl
@[simp] theorem modPerf2_perf2 (f : PerfBlk2 → PerfBlk2) (s : State) : (modPerf2 f s).perf2 = f s.perf2 := rfl
@[simp] theorem modHealth_health (f : HealthBlk → HealthBlk) (s : State) : (modHealth f s).health = f s.health := rfl
@[simp] theorem modPwr_pwr (f : PwrBlk → PwrBlk) (s : State) : (modPwr f s).pwr = f s.pwr := rfl
@[simp] theorem modDev_dev (f : DevBlk → DevBlk) (s : State) : (modDev f s).dev = f s.dev := rfl

/-- A numbered thing after its update: the one named is changed, every other is as before. -/
theorem port_modPort (k j : Nat) (f : Port → Port) (s : State) :
    port (modPort k f s) j = if j = k then f (port s k) else port s j := kgetD_kmodD _ _ _ _ _ _
theorem cluster_modCluster (k j : Nat) (f : Cluster → Cluster) (s : State) :
    cluster (modCluster k f s) j = if j = k then f (cluster s k) else cluster s j := kgetD_kmodD _ _ _ _ _ _
theorem die_modDie (k j : Nat) (f : Die → Die) (s : State) :
    die (modDie k f s) j = if j = k then f (die s k) else die s j := kgetD_kmodD _ _ _ _ _ _
theorem ethPort_modEth (k j : Nat) (f : EthPort → EthPort) (s : State) :
    ethPort (modEth k f s) j = if j = k then f (ethPort s k) else ethPort s j := kgetD_kmodD _ _ _ _ _ _
theorem queue_modQueue (k j : Nat) (f : Queue → Queue) (s : State) :
    queue (modQueue k f s) j = if j = k then (queue s k).map f else queue s j := kget_kmod _ _ _ _
theorem companyOf_modCompany (k j : Nat) (f : Company → Company) (s : State) :
    companyOf (modCompany k f s) j = if j = k then (companyOf s k).map f else companyOf s j := kget_kmod _ _ _ _
theorem agent_modAgent (k j : Nat) (f : Agent → Agent) (s : State) :
    agent (modAgent k f s) j = if j = k then f (agent s k) else agent s j := by
  unfold agent modAgent
  by_cases h : j = k
  · subst h; simp
  · simp [h, kgetD_kmodD_other]

@[simp] theorem port_modPort_same (k : Nat) (f : Port → Port) (s : State) : port (modPort k f s) k = f (port s k) := by
  simp [port_modPort]
@[simp] theorem cluster_modCluster_same (k : Nat) (f : Cluster → Cluster) (s : State) :
    cluster (modCluster k f s) k = f (cluster s k) := by simp [cluster_modCluster]
@[simp] theorem die_modDie_same (k : Nat) (f : Die → Die) (s : State) : die (modDie k f s) k = f (die s k) := by
  simp [die_modDie]
@[simp] theorem queue_modQueue_same (k : Nat) (f : Queue → Queue) (s : State) :
    queue (modQueue k f s) k = (queue s k).map f := by simp [queue_modQueue]
@[simp] theorem agent_modAgent_same (k : Nat) (f : Agent → Agent) (s : State) :
    agent (modAgent k f s) k = f (agent s k) := by simp [agent_modAgent]

end Sys2Proof.Machine
end

