-- ==== Sys2Proof/Laws/Shared.lean ====
section
/-!
SUPPORT. What the shared operations can do, said once: completions and ends of commands, causes of HEALTH, failing clusters,
room-making and sealing, the forms of rows, and packets sent. `Only b s u` says that state u differs from s in no
field but those that b puts back, and `Only.field` reads a field off it.
-/
namespace Sys2Proof.Machine
open Sys2Proof

/-- u and s agree once b has put back, from s, the fields it names. -/
def Only (b : State → State → State) (s u : State) : Prop := b u s = s

/-- b puts fields back: from u itself nothing changes, and the last source counts. -/
structure PutsBack (b : State → State → State) : Prop where
  same : ∀ s, b s s = s
  last : ∀ u t s, b (b u t) s = b u s

theorem Only.refl {b : State → State → State} (hb : PutsBack b) (s : State) : Only b s s := hb.same s

theorem Only.trans {b : State → State → State} (hb : PutsBack b) {s t u : State} (h : Only b s t) (k : Only b t u) :
    Only b s u := by
  unfold Only at *
  rw [← hb.last u t s, k, h]

/-- The same with the later change first, so that its start is known when the earlier one is looked at. -/
theorem Only.after {b : State → State → State} (hb : PutsBack b) {s t u : State} (k : Only b t u) (h : Only b s t) :
    Only b s u := Only.trans hb h k

/-- A field that b does not put back is the same in both. -/
theorem Only.field {b : State → State → State} {s u : State} {α : Type} (h : Only b s u) (f : State → α)
    (hf : f (b u s) = f u) : f u = f s := hf.symm.trans (congrArg f h)

theorem Only.foldl {α : Type} {b : State → State → State} (hb : PutsBack b) (f : State → α → State)
    (h : ∀ s x, Only b s (f s x)) (l : List α) (s : State) : Only b s (l.foldl f s) := by
  induction l generalizing s with
  | nil => exact Only.refl hb s
  | cons x r ih => exact Only.trans hb (h s x) (ih (f s x))

/-! Completions. -/

/-- The fields that posting a completion may change. -/
def postFields (u s : State) : State := { u with queues := s.queues, perf2 := s.perf2, out := s.out }

theorem postFields_putsBack : PutsBack postFields := ⟨fun _ => rfl, fun _ _ _ => rfl⟩

theorem writeEntry_only (qn : Nat) (c : Completion) (s : State) : Only postFields s (writeEntry qn c s) := by
  unfold Only writeEntry; split <;> rfl

theorem drainSpill_only (qn n : Nat) (s : State) : Only postFields s (drainSpill qn n s) := by
  induction n generalizing s with
  | zero => rfl
  | succ n ih =>
    unfold drainSpill
    split
    · rfl
    · split
      · rfl
      · split
        · rfl
        · exact Only.after postFields_putsBack (ih _) (Only.after postFields_putsBack (writeEntry_only ..) rfl)

theorem postCompletion_only (qn : Nat) (c : Completion) (s : State) : Only postFields s (postCompletion qn c s) := by
  unfold postCompletion
  split
  · rfl
  · split
    · rfl
    · exact Only.after postFields_putsBack (writeEntry_only ..) rfl

/-- The fields that the end of a command may change: the queues and what they post, the commands in flight, the error log,
events, refusals counted, PERF counters, the work that the command had in hand, its requests at arbiters, and weight sets and references
that waited only for it. -/
def endFields (u s : State) : State :=
  { u with queues := s.queues, perf2 := s.perf2, out := s.out, taken := s.taken, errLog := s.errLog, evt := s.evt,
           lock := s.lock, work := s.work, clusters := s.clusters, arb := { u.arb with arb := s.arb.arb },
           store := { u.store with weights := s.store.weights, lingering := s.store.lingering },
           loft := { u.loft with feet := s.loft.feet, stripes := s.loft.stripes } }

theorem endFields_putsBack : PutsBack endFields := ⟨fun _ => rfl, fun _ _ _ => rfl⟩

theorem Only.ofPost {s u : State} (h : Only postFields s u) : Only endFields s u :=
  (show endFields u s = endFields (postFields u s) s from rfl).trans ((congrArg (fun x => endFields x s) h).trans rfl)

theorem logError_only (t : Taken) (c : Completion) (s : State) : Only endFields s (logError t c s) := by
  unfold Only logError; split <;> rfl

theorem reportMiss_only (t : Taken) (c : Completion) (s : State) : Only endFields s (reportMiss t c s) := by
  unfold reportMiss
  simp only
  split
  · rfl
  · split
    · refine Only.after endFields_putsBack (t := if missDetail t.opcode c == 0 then s else _) rfl ?_
      split <;> rfl
    · rfl

theorem finishCore_only (t : Taken) (c : Completion) (s : State) : Only endFields s (finishCore t c s) := by
  unfold finishCore
  simp only
  refine Only.trans endFields_putsBack (t := logError t { c with tag := t.tag, urgent := t.urgent } (dropTaken t.seq s)) ?_ ?_
  · exact Only.after endFields_putsBack (logError_only ..) rfl
  · refine Only.after endFields_putsBack (Only.ofPost (postCompletion_only ..)) ?_
    refine Only.after endFields_putsBack (reportMiss_only ..) ?_
    split <;> rfl

theorem writeBitmap_only (t : Taken) (a n : Nat) (l : List Nat) (s : State) : Only endFields s (writeBitmap t a n l s) := by
  unfold Only writeBitmap; split <;> rfl

theorem endCue_only (t : Taken) (op : CueOp) (st : Nat) (s : State) : Only endFields s (endCue t op st s) := by
  unfold endCue
  simp only
  split
  · exact Only.after endFields_putsBack (finishCore_only ..) (Only.after endFields_putsBack (writeBitmap_only ..) rfl)
  · exact Only.after endFields_putsBack (finishCore_only ..) rfl

theorem endWeights_only (t : Taken) (op : WsOp) (st : Nat) (s : State) : Only endFields s (endWeights t op st s) := by
  unfold endWeights
  simp only
  refine Only.after endFields_putsBack (finishCore_only ..) ?_
  split
  · exact Only.after endFields_putsBack (writeBitmap_only ..) rfl
  · rfl

theorem abortUnrun_only (st : Nat) (t : Taken) (s : State) : Only endFields s (abortUnrun st t s) := by
  unfold abortUnrun
  split
  · exact finishCore_only ..
  · split
    · exact finishCore_only ..
    · split <;> exact Only.after endFields_putsBack (finishCore_only ..) (writeBitmap_only ..)

theorem abortOne_only (st : Nat) (t : Taken) (s : State) : Only endFields s (abortOne st t s) := by
  unfold abortOne
  split
  · exact abortUnrun_only ..
  · split
    case h_1 | h_2 => split; exact endCue_only ..; rfl
    case h_3 => split; exact endWeights_only ..; rfl
    case h_4 | h_5 =>
      split
      · exact Only.after endFields_putsBack (finishCore_only ..) rfl
      · rfl
    case h_7 =>
      split
      · split
        · exact Only.after endFields_putsBack (finishCore_only ..) rfl
        · rfl
      · rfl
    case h_8 | h_9 => exact finishCore_only ..
    case h_6 | h_10 | h_11 => exact Only.after endFields_putsBack (finishCore_only ..) rfl
    · rfl

theorem abortAll_only (st : Nat) (p : Taken → Bool) (s : State) : Only endFields s (abortAll st p s).1 := by
  unfold abortAll
  exact Only.foldl endFields_putsBack _ (fun s t => abortOne_only st t s) _ s

theorem flushQueue_only (y st keep : Nat) (s : State) : Only endFields s (flushQueue y st keep s).1 := by
  unfold flushQueue
  split
  · rfl
  · exact Only.after endFields_putsBack (abortAll_only ..) rfl

theorem completeWait_only (t : Taken) (abort : Bool) (c : Completion) (s : State) :
    Only endFields s (completeWait t abort c s) := by
  unfold completeWait
  split
  · exact Only.after endFields_putsBack (finishCore_only ..) (flushQueue_only ..)
  · exact finishCore_only ..

theorem endWait_only (n : Nat) (w : QWait) (c : Completion) (s : State) : Only endFields s (endWait n w c s) := by
  unfold endWait
  simp only
  split
  · split
    · exact Only.after endFields_putsBack (flushQueue_only ..) rfl
    · rfl
  · exact Only.after endFields_putsBack (completeWait_only ..) rfl

theorem settleN_only (n : Nat) (s : State) : Only endFields s (settleN n s) := by
  induction n generalizing s with
  | zero => rfl
  | succ n ih =>
    unfold settleN
    split
    · exact Only.after endFields_putsBack (ih _) (endWait_only ..)
    · exact Only.after endFields_putsBack (ih _) (endWait_only ..)
    · split
      · refine Only.after endFields_putsBack (ih _) (Only.after endFields_putsBack (finishCore_only ..) ?_)
        split <;> rfl
      · rfl

theorem settle_only (s : State) : Only endFields s (settle s) := settleN_only ..

/-- Completing a command changes nothing of the device but `endFields`. -/
theorem finish_only (t : Taken) (c : Completion) (s : State) : Only endFields s (finish t c s) := by
  unfold finish
  split
  · exact Only.after endFields_putsBack (settle_only _) (finishCore_only ..)
  · rfl

/-! Health. -/

/-- The fields that a FAILED cause's end of the service may change: those of ended commands, and the journal. -/
def failFields (u s : State) : State :=
  { u with queues := s.queues, perf2 := s.perf2, out := s.out, taken := s.taken, errLog := s.errLog, evt := s.evt,
           lock := s.lock, work := s.work, clusters := s.clusters, arb := s.arb, loft := s.loft,
           store := { u.store with weights := s.store.weights, lingering := s.store.lingering } }

theorem failFields_putsBack : PutsBack failFields := ⟨fun _ => rfl, fun _ _ _ => rfl⟩

theorem Only.ofEnd {s u : State} (h : Only endFields s u) : Only failFields s u :=
  (show failFields u s = failFields (endFields u s) s from rfl).trans ((congrArg (fun x => failFields x s) h).trans rfl)

theorem failService_only (s : State) : Only failFields s (failService s) := by
  unfold failService
  split
  · refine Only.after failFields_putsBack (Only.ofEnd (settle_only _)) (Only.after failFields_putsBack
      (Only.foldl failFields_putsBack _ ?_ _ _) (Only.ofEnd (Only.after endFields_putsBack (settle_only _) (abortAll_only ..))))
    exact fun s t => Only.after failFields_putsBack (Only.ofEnd (finishCore_only ..)) rfl
  · rfl

/-- Reporting a change of health: an event, the health log and PLDM events, one free value. -/
def reportFields (u s : State) : State :=
  { u with evt := s.evt, out := s.out, free := s.free,
           health := { u.health with log := s.health.log, lastState := s.health.lastState, stateAt := s.health.stateAt,
                                     waiting := s.health.waiting } }

theorem reportHealth_only (c : BitVec 32) (s : State) : Only reportFields s (reportHealth c s) := by
  unfold Only reportHealth pldmEvent
  simp only
  split
  · rfl
  · split
    · rfl
    · simp only [takeFree]
      split <;> rfl

/-- The fields that a change of HEALTH.cause may change. -/
def causeFields (u s : State) : State :=
  { u with queues := s.queues, perf2 := s.perf2, out := s.out, taken := s.taken, errLog := s.errLog, evt := s.evt,
           lock := s.lock, work := s.work, clusters := s.clusters, arb := s.arb, loft := s.loft, free := s.free,
           store := { u.store with weights := s.store.weights, lingering := s.store.lingering },
           health := { u.health with cause := s.health.cause, log := s.health.log, lastState := s.health.lastState,
                                     stateAt := s.health.stateAt, waiting := s.health.waiting } }

theorem causeFields_putsBack : PutsBack causeFields := ⟨fun _ => rfl, fun _ _ _ => rfl⟩

theorem Only.ofFail {s u : State} (h : Only failFields s u) : Only causeFields s u :=
  (show causeFields u s = causeFields (failFields u s) s from rfl).trans
    ((congrArg (fun x => causeFields x s) h).trans rfl)

theorem Only.ofReport {s u : State} (h : Only reportFields s u) : Only causeFields s u :=
  (show causeFields u s = causeFields (reportFields u s) s from rfl).trans
    ((congrArg (fun x => causeFields x s) h).trans rfl)

theorem raiseCause_only (bits : Nat) (s : State) : Only causeFields s (raiseCause bits s) := by
  unfold raiseCause
  simp only
  split
  · exact Only.after causeFields_putsBack (Only.ofReport (reportHealth_only ..)) rfl
  · exact Only.after causeFields_putsBack (Only.ofFail (failService_only _))
      (Only.after causeFields_putsBack (Only.ofReport (reportHealth_only ..)) rfl)

theorem syncHealth_only (s : State) : Only causeFields s (syncHealth s) := by
  unfold syncHealth
  simp only
  split
  · exact Only.after causeFields_putsBack (Only.ofReport (reportHealth_only ..)) rfl
  · exact Only.after causeFields_putsBack (Only.ofFail (failService_only _))
      (Only.after causeFields_putsBack (Only.ofReport (reportHealth_only ..)) rfl)

theorem failService_health (s : State) : (failService s).health = s.health :=
  (failService_only s).field State.health rfl

theorem reportHealth_cause (c : BitVec 32) (s : State) : (reportHealth c s).health.cause = s.health.cause :=
  (reportHealth_only c s).field (fun u => u.health.cause) rfl

/-- Raising causes sets their bits, with those whose threshold is reached, and clears none. -/
theorem raiseCause_cause (bits : Nat) (s : State) :
    (raiseCause bits s).health.cause = s.health.cause ||| BitVec.ofNat 32 bits ||| BitVec.ofNat 32 (thresholds s) := by
  unfold raiseCause
  simp only
  split
  · exact reportHealth_cause ..
  · rw [failService_health]; exact reportHealth_cause ..

/-- HEALTH.cause brought up to date: bits 5 and 7 follow their source, the thresholds are added, nothing else changes. -/
theorem syncHealth_cause (s : State) : (syncHealth s).health.cause =
    (s.health.cause &&& BitVec.ofNat 32 0xFFFFFF5F) ||| BitVec.ofNat 32 (thresholds s) ||| BitVec.ofNat 32 (followers s) := by
  unfold syncHealth
  simp only
  split
  · exact reportHealth_cause ..
  · rw [failService_health]; exact reportHealth_cause ..


/-! Failing clusters. -/

/-- The fields that the failure of a cluster may change where nothing it held is lost: those of a change of HEALTH.cause, the
repair map and the count of repaired Stage rows, and the marks of scratch objects. -/
def rowFields (u s : State) : State :=
  { u with queues := s.queues, perf2 := s.perf2, out := s.out, taken := s.taken, errLog := s.errLog, evt := s.evt,
           lock := s.lock, work := s.work, clusters := s.clusters, arb := s.arb, loft := s.loft, free := s.free, store := s.store,
           health := { u.health with cause := s.health.cause, log := s.health.log, lastState := s.health.lastState,
                                     stateAt := s.health.stateAt, waiting := s.health.waiting,
                                     repairMap := s.health.repairMap, stageRows := s.health.stageRows } }

theorem rowFields_putsBack : PutsBack rowFields := ⟨fun _ => rfl, fun _ _ _ => rfl⟩

theorem Only.ofCause {s u : State} (h : Only causeFields s u) : Only rowFields s u :=
  (show rowFields u s = rowFields (causeFields u s) s from rfl).trans ((congrArg (fun x => rowFields x s) h).trans rfl)

theorem modCluster_row (p : Nat) (f : Cluster → Cluster) (s : State) : Only rowFields s (modCluster p f s) := rfl
theorem modWork_row (f : Work → Work) (s : State) : Only rowFields s (modWork f s) := rfl
theorem modRun_row (q : Nat) (f : RunOp → RunOp) (s : State) : Only rowFields s (modRun q f s) := rfl
theorem modStore_row (f : Store → Store) (s : State) : Only rowFields s (modStore f s) := rfl
theorem haltRun_row (q : Nat) (s : State) : Only rowFields s (haltRun q s) := rfl
theorem spend_row (n : Nat) (s : State) : Only rowFields s { s with free := n } := rfl
theorem healthRecord_row (a b c d : Nat) (s : State) : Only rowFields s (healthRecord a b c d s) := rfl
theorem recountRows_row (s : State) : Only rowFields s (recountRows s) := rfl

theorem returnAllots_only (c : Nat) (s : State) : Only endFields s (returnAllots c s) := by
  unfold returnAllots
  refine Only.foldl endFields_putsBack _ (fun s o => ?_) _ s
  simp only
  split <;> rfl

theorem failRun_only (p c : Nat) (row : Bool) (s : State) : Only rowFields s (failRun p c row s) := by
  unfold failRun
  split
  · rfl
  · simp only [takeFree]
    exact Only.after rowFields_putsBack (haltRun_row ..) (Only.after rowFields_putsBack (modRun_row ..)
      (Only.after rowFields_putsBack (modCluster_row ..) (spend_row ..)))

theorem addDefect_only (p : Nat) (s : State) : Only rowFields s (addDefect p s) := by
  have h : addDefect p s = s ∨
      addDefect p s = { s with health := { s.health with repairMap := s.health.repairMap ++ [p] } } := by
    unfold addDefect modHealth
    by_cases h : s.health.repairMap.contains p = true
    · exact .inl (by simp only [h, if_true])
    · exact .inr (by simp only [h]; rfl)
  rcases h with h | h <;> rw [h] <;> rfl

theorem dropReaching_only (p c : Nat) (s : State) : Only rowFields s (dropReaching p c s) := by
  unfold dropReaching
  split <;> rfl

theorem dropSliceCopies_only (s : State) : Only rowFields s (dropSliceCopies s) := by
  unfold dropSliceCopies
  split
  · rfl
  · simp only [takeFree]
    exact Only.after rowFields_putsBack (modWork_row ..) (spend_row ..)

/-- A cluster that is retired takes its allotments, its transfers and its working copies with it. -/
theorem retireParts_only (p c : Nat) (s : State) :
    Only rowFields s (dropReaching p c (returnAllots c (dropSliceCopies s))) :=
  Only.after rowFields_putsBack (dropReaching_only ..) (Only.after rowFields_putsBack
    (Only.ofCause (Only.ofFail (Only.ofEnd (returnAllots_only ..)))) (dropSliceCopies_only s))

theorem retireCluster_only (p c : Nat) (row : Bool) (s : State) : Only rowFields s (retireCluster p c row s) := by
  unfold retireCluster
  exact Only.after rowFields_putsBack (addDefect_only ..) (Only.after rowFields_putsBack (modCluster_row ..)
    (Only.after rowFields_putsBack (modWork_row ..) (Only.after rowFields_putsBack (failRun_only ..)
      (retireParts_only ..))))

theorem installUnderstudy_only (p c u : Nat) (s : State) : Only rowFields s (installUnderstudy p c u s) := by
  unfold installUnderstudy
  exact Only.after rowFields_putsBack (healthRecord_row ..) (modCluster_row ..)

theorem reportRepair_only (s : State) : Only causeFields s (reportRepair s) := by
  unfold reportRepair
  simp only
  split
  · exact Only.after causeFields_putsBack (t := syncHealth s) rfl (syncHealth_only s)
  · exact syncHealth_only s

theorem loseRow_none_row (stage : Bool) (s : State) : Only rowFields s (loseRow stage noLoss s) :=
  show Only rowFields s (poisonUnits stage [] s) from modStore_row ..

theorem loseRow_none_cause (stage : Bool) (s : State) : (loseRow stage noLoss s).health.cause = s.health.cause := rfl

theorem takeOver_only (p : Nat) (row : Bool) (s : State) : Only rowFields s (takeOver p row noLoss s) := by
  unfold takeOver
  simp only
  have base : Only rowFields s (loseRow true noLoss (retireCluster p (cluster s p).logical.toNat row s)) :=
    Only.after rowFields_putsBack (loseRow_none_row ..) (retireCluster_only ..)
  split
  · exact Only.after rowFields_putsBack (Only.ofCause (reportRepair_only _))
      (Only.after rowFields_putsBack (recountRows_row _) (Only.after rowFields_putsBack (installUnderstudy_only ..) base))
  · exact Only.after rowFields_putsBack (Only.ofCause (raiseCause_only ..))
      (Only.after rowFields_putsBack (healthRecord_row ..) (Only.after rowFields_putsBack (recountRows_row _) base))

/-- The failure of a cluster that loses nothing. -/
theorem failCluster_only (p : Nat) (row : Bool) (s : State) : Only rowFields s (failCluster p row noLoss s) := by
  unfold failCluster
  split
  · exact takeOver_only ..
  · split
    · exact Only.after rowFields_putsBack (Only.ofCause (syncHealth_only _))
        (Only.after rowFields_putsBack (addDefect_only ..) (modCluster_row ..))
    · rfl

theorem dropUnderstudy_only (p : Nat) (s : State) : Only rowFields s (dropUnderstudy p s) := by
  unfold dropUnderstudy
  exact Only.after rowFields_putsBack (addDefect_only ..) (modCluster_row ..)

theorem dropFree_only (k : Nat) (s : State) : Only rowFields s (dropFree k s) := by
  unfold dropFree
  split
  · exact Only.foldl rowFields_putsBack _ (fun s p => dropUnderstudy_only p s) _ _
  · rfl

theorem failRegion_only (k : Nat) (s : State) : Only rowFields s (failRegion k s) := by
  unfold failRegion
  simp only
  refine Only.after rowFields_putsBack (Only.foldl rowFields_putsBack _ (fun s p => addDefect_only p s) _ _) ?_
  split
  · exact Only.foldl rowFields_putsBack _ (fun s p => failCluster_only p false s) _ _
  · rfl

/-- Bits of HEALTH.cause but 5 and 7, which follow their source, stay set. -/
theorem syncHealth_keeps (i : Nat) (h5 : i ≠ 5) (h7 : i ≠ 7) (s : State) (h : bit s.health.cause i = true) :
    bit (syncHealth s).health.cause i = true := by
  have hi : i < 32 := by
    rcases Nat.lt_or_ge i 32 with h' | h'
    · exact h'
    · simp [bit, BitVec.getLsbD_of_ge _ _ h'] at h
  have hm : (BitVec.ofNat 32 0xFFFFFF5F).getLsbD i = true := by
    have key : ∀ j : Fin 32, j.val ≠ 5 → j.val ≠ 7 → (BitVec.ofNat 32 0xFFFFFF5F).getLsbD j.val = true := by decide
    exact key ⟨i, hi⟩ h5 h7
  unfold bit at *
  rw [syncHealth_cause, BitVec.getLsbD_or, BitVec.getLsbD_or, BitVec.getLsbD_and, h, hm]
  rfl

theorem reportRepair_keeps (i : Nat) (h5 : i ≠ 5) (h7 : i ≠ 7) (s : State) (h : bit s.health.cause i = true) :
    bit (reportRepair s).health.cause i = true := by
  unfold reportRepair
  simp only
  split <;> exact syncHealth_keeps i h5 h7 s h

theorem retireCluster_cause (p c : Nat) (row : Bool) (s : State) :
    (retireCluster p c row s).health.cause = s.health.cause := by
  have h1 : ∀ u, (addDefect p u).health.cause = u.health.cause := by
    intro u; unfold addDefect modHealth
    by_cases h : u.health.repairMap.contains p = true <;> simp only [h] <;> rfl
  have h2 : ∀ u, (failRun p c row u).health.cause = u.health.cause := by
    intro u; unfold failRun; split <;> rfl
  unfold retireCluster
  simp only
  rw [h1]
  refine (h2 _).trans ?_
  have h3 : (dropReaching p c (returnAllots c (dropSliceCopies s))).health.cause = (returnAllots c (dropSliceCopies s)).health.cause := by
    unfold dropReaching; split <;> rfl
  have h4 : (dropSliceCopies s).health.cause = s.health.cause := by
    unfold dropSliceCopies; split <;> rfl
  exact h3.trans (((returnAllots_only c _).field (fun u => u.health.cause) rfl).trans h4)

theorem failCluster_keeps (i : Nat) (h5 : i ≠ 5) (h7 : i ≠ 7) (p : Nat) (row : Bool) (s : State)
    (h : bit s.health.cause i = true) : bit (failCluster p row noLoss s).health.cause i = true := by
  unfold failCluster
  split
  · unfold takeOver
    simp only
    have base : bit (loseRow true noLoss (retireCluster p (cluster s p).logical.toNat row s)).health.cause i = true := by
      have e : (loseRow true noLoss (retireCluster p (cluster s p).logical.toNat row s)).health.cause
          = (retireCluster p (cluster s p).logical.toNat row s).health.cause := loseRow_none_cause ..
      rw [e, retireCluster_cause]; exact h
    split
    · generalize loseRow true noLoss (retireCluster p (cluster s p).logical.toNat row s) = u at base ⊢
      exact reportRepair_keeps i h5 h7 _ base
    · rw [raiseCause_cause]
      generalize loseRow true noLoss (retireCluster p (cluster s p).logical.toNat row s) = u at base ⊢
      have e : (healthRecord 0 1 p (Config.recordRepl 0 p none) (recountRows u)).health.cause = u.health.cause := rfl
      unfold bit at *
      rw [BitVec.getLsbD_or, BitVec.getLsbD_or, e, base]
      rfl
  · split
    · refine syncHealth_keeps i h5 h7 _ ?_
      have : (dropUnderstudy p s).health.cause = s.health.cause := by
        unfold dropUnderstudy addDefect modHealth
        by_cases h : (modCluster p (fun x => { x with mapState := 2 }) s).health.repairMap.contains p = true <;>
          simp only [h] <;> rfl
      rw [this]; exact h
    · exact h

theorem failRegion_monitorBad (k : Nat) (s : State) : (failRegion k s).health.monitorBad = s.health.monitorBad :=
  have key : ∀ u, (rowFields u s).health.monitorBad = u.health.monitorBad := fun _ => rfl
  (failRegion_only k s).field (fun u => u.health.monitorBad) (key _)

theorem dropFree_monitorBad (k : Nat) (s : State) : (dropFree k s).health.monitorBad = s.health.monitorBad :=
  have key : ∀ u, (rowFields u s).health.monitorBad = u.health.monitorBad := fun _ => rfl
  (dropFree_only k s).field (fun u => u.health.monitorBad) (key _)

theorem failRegion_keeps (i : Nat) (h5 : i ≠ 5) (h7 : i ≠ 7) (k : Nat) (s : State) (h : bit s.health.cause i = true) :
    bit (failRegion k s).health.cause i = true := by
  have each : ∀ (f : State → Nat → State),
      (∀ s p, bit s.health.cause i = true → bit (f s p).health.cause i = true) →
      ∀ (l : List Nat) s, bit s.health.cause i = true → bit (l.foldl f s).health.cause i = true := by
    intro f hf l
    induction l with
    | nil => exact fun s h => h
    | cons p r ih => exact fun s h => ih _ (hf s p h)
  have hd : ∀ (s : State) (p : Nat), bit s.health.cause i = true → bit (addDefect p s).health.cause i = true := by
    intro s p h
    have : (addDefect p s).health.cause = s.health.cause := by
      unfold addDefect modHealth
      by_cases h : s.health.repairMap.contains p = true <;> simp only [h] <;> rfl
    rw [this]; exact h
  unfold failRegion
  simp only
  refine each _ hd _ _ ?_
  split
  · exact each _ (fun s p => failCluster_keeps i h5 h7 p false s) _ _ h
  · exact h

/-- Every cluster of the row is in the repair map. -/
theorem failRegion_row (k i : Nat) (hi : i < 11) (s : State) : 11 * k + i ∈ (failRegion k s).health.repairMap := by
  have stays : ∀ (p q : Nat) (s : State), p ∈ s.health.repairMap → p ∈ (addDefect q s).health.repairMap := by
    intro p q s h
    unfold addDefect modHealth
    by_cases hq : s.health.repairMap.contains q = true
    · simp only [hq]; exact h
    · simp only [hq]; exact List.mem_append_left _ h
  have gains : ∀ (p : Nat) (s : State), p ∈ (addDefect p s).health.repairMap := by
    intro p s
    unfold addDefect modHealth
    by_cases hq : s.health.repairMap.contains p = true
    · simp only [hq]; exact List.contains_iff_mem.mp hq
    · simp only [hq]; exact List.mem_append_right _ (List.mem_singleton.mpr rfl)
  have fold : ∀ (p : Nat) (l : List Nat) (s : State), p ∈ s.health.repairMap ∨ p ∈ l →
      p ∈ (l.foldl (fun s p => addDefect p s) s).health.repairMap := by
    intro p l
    induction l with
    | nil => intro s h; rcases h with h | h; exact h; cases h
    | cons q r ih =>
      intro s h
      refine ih _ ?_
      rcases h with h | h
      · exact .inl (stays p q s h)
      · rcases List.mem_cons.mp h with h | h
        · exact .inl (h ▸ gains p s)
        · exact .inr h
  unfold failRegion
  refine fold _ _ _ (.inr ?_)
  unfold rowClusters
  exact List.mem_map.mpr ⟨i, List.mem_range.mpr hi, rfl⟩

/-! Stored objects. -/

/-- The fields that removing and moving scenes may change. -/
def storeFields (u s : State) : State :=
  { u with store := s.store, loft := s.loft, ulb := s.ulb, perf2 := s.perf2,
           work := { u.work with records := s.work.records, working := s.work.working } }

theorem storeFields_putsBack : PutsBack storeFields := ⟨fun _ => rfl, fun _ _ _ => rfl⟩

theorem modStore_stored (f : Store → Store) (s : State) : Only storeFields s (modStore f s) := rfl
theorem modLoft_stored (f : LoftBlk → LoftBlk) (s : State) : Only storeFields s (modLoft f s) := rfl
theorem invalidate_stored (c : Nat) (id : SceneId) (s : State) : Only storeFields s (invalidate c id s) := rfl
theorem formRecord_stored (k : JKind) (o : Option (Nat × Completion)) (s : State) : Only storeFields s (formRecord k o s) := rfl

theorem dropWorking_stored (c : Nat) (id : SceneId) (s : State) : Only storeFields s (dropWorking c id s) := rfl
theorem dropData_stored (g : LoftObj → Nat → Bool) (s : State) : Only storeFields s (dropData g s) := rfl
theorem modDie_stored (k : Nat) (f : Die → Die) (s : State) : Only storeFields s (modDie k f s) := rfl

theorem dropStale_stored (s : State) : Only storeFields s (dropStale s) := by
  unfold dropStale
  refine Only.after storeFields_putsBack (Only.foldl storeFields_putsBack _ (fun s p => ?_) _ _) (modLoft_stored ..)
  exact Only.foldl storeFields_putsBack _ (fun s q => modDie_stored ..) _ s

theorem removeScene_only (c : Nat) (id : SceneId) (s : State) : Only storeFields s (removeScene c id s) := by
  unfold removeScene
  split
  · rfl
  · simp only
    have base := fun (s : State) => Only.after storeFields_putsBack (invalidate_stored c id _)
      (Only.after storeFields_putsBack (dropStale_stored _) (Only.after storeFields_putsBack
        (dropData_stored (fun o _ => pageOfScene c id o) _) (dropWorking_stored c id s)))
    split
    · exact Only.after storeFields_putsBack (formRecord_stored ..) (Only.after storeFields_putsBack (base _)
        (Only.after storeFields_putsBack (modLoft_stored ..) (modStore_stored ..)))
    · exact Only.after storeFields_putsBack (base _)
        (Only.after storeFields_putsBack (modLoft_stored ..) (modStore_stored ..))

theorem nextDrop_only (t : Tier) (c : Nat) (keep : List SceneId) (s u : State) (h : nextDrop s t c keep = some u) :
    Only storeFields s u := by
  unfold nextDrop at h
  split at h
  · injection h with h; subst h; rfl
  · split at h
    · injection h with h; subst h; rfl
    · cases h

theorem dropN_only (t : Tier) (c : Nat) (keep : List SceneId) (enough : State → Bool) (k : Nat) (s : State) :
    Only storeFields s (dropN t c keep enough k s) := by
  induction k generalizing s with
  | zero => rfl
  | succ k ih =>
    unfold dropN
    split
    · rfl
    · split
      · rename_i v hv
        exact Only.after storeFields_putsBack (ih v) (nextDrop_only t c keep s v hv)
      · rfl

theorem removeEach_only (c : Nat) (l : List SceneId) (s : State) :
    Only storeFields s (l.foldl (fun s i => removeScene c i s) s) := by
  induction l generalizing s with
  | nil => rfl
  | cons i r ih => exact Only.after storeFields_putsBack (ih _) (removeScene_only ..)

/-- Making room moves and removes stored objects and changes nothing else. -/
theorem makeRoomBy_only (t : Tier) (c : Nat) (keep : List SceneId) (r : Bool) (enough : State → Bool) (s u : State)
    (h : makeRoomBy t c keep r enough s = some u) : Only storeFields s u := by
  unfold makeRoomBy at h
  simp only at h
  split at h
  · injection h with h; subst h; exact dropN_only ..
  · split at h
    · cases h
    · split at h
      · cases h
      · split at h
        · injection h with h; subst h
          exact Only.after storeFields_putsBack (removeEach_only ..) (dropN_only ..)
        · cases h

theorem makeRoom_only (t : Tier) (c n : Nat) (s u : State) (h : makeRoom t c n s = some u) : Only storeFields s u :=
  makeRoomBy_only t c [] true (fun s => decide (n ≤ room s t c)) s u h

theorem roomForCopy_only (o : Option Nat) (t : Tier) (c n : Nat) (s u : State) (h : roomForCopy o t c n s = some u) :
    Only storeFields s u := by
  unfold roomForCopy at h
  exact makeRoomBy_only t c _ false _ s u h

/-- When room is made, there is enough. -/
theorem makeRoomBy_enough (t : Tier) (c : Nat) (keep : List SceneId) (r : Bool) (enough : State → Bool) (s u : State)
    (h : makeRoomBy t c keep r enough s = some u) : enough u = true := by
  unfold makeRoomBy at h
  simp only at h
  split at h
  · injection h with h; subst h; assumption
  · split at h
    · cases h
    · split at h
      · cases h
      · split at h
        · injection h with h; subst h; assumption
        · cases h

theorem makeRoom_room (t : Tier) (c n : Nat) (s u : State) (h : makeRoom t c n s = some u) : n ≤ room u t c :=
  of_decide_eq_true (makeRoomBy_enough t c [] true (fun s => decide (n ≤ room s t c)) s u h)

/-- A command goes on in the room made, or waits unchanged for the reads of earlier commands. -/
theorem inRoomMade_some (t : Taken) (s u : State) (go : State → State) :
    inRoomMade t s (some u) go = onceRoom t s u (go u) := rfl

theorem indexRoom_only (s u : State) (h : indexRoom s = some u) : Only storeFields s u := by
  unfold indexRoom at h
  split at h
  · injection h with h; subst h; rfl
  · split at h
    · injection h with h; subst h; exact removeScene_only ..
    · cases h

theorem queueWriteBack_only (c : Nat) (id : SceneId) (s : State) : Only storeFields s (queueWriteBack c id s) := by
  unfold Only queueWriteBack; split <;> rfl

theorem modScene_stored (c : Nat) (id : SceneId) (f : Scene → Scene) (s : State) : Only storeFields s (modScene c id f s) := rfl
theorem modStream_stored (h : Nat) (f : Stream → Stream) (s : State) : Only storeFields s (modStream h f s) := rfl

/-- Sealing a tail changes the stored objects alone. -/
theorem sealTailOf_only (h : Nat) (s u : State) (id : SceneId) (hs : sealTailOf h s = some (id, u)) :
    Only storeFields s u := by
  unfold sealTailOf at hs
  split at hs
  · cases hs
  · simp only at hs
    split at hs
    · cases hs
    split at hs
    · rw [← (Prod.mk.inj (Option.some.inj hs)).2]
      refine Only.after storeFields_putsBack (modStream_stored ..) ?_
      split
      · exact Only.after storeFields_putsBack (modStore_stored ..) (Only.after storeFields_putsBack (queueWriteBack_only ..)
          (Only.after storeFields_putsBack (dropWorking_stored ..) (Only.after storeFields_putsBack (dropStale_stored _)
            (Only.after storeFields_putsBack (dropData_stored ..) (modScene_stored ..)))))
      · exact modScene_stored ..
    · split at hs
      · cases hs
      · rename_i v hv
        rw [← (Prod.mk.inj (Option.some.inj hs)).2]
        exact Only.after storeFields_putsBack (modStream_stored ..) (Only.after storeFields_putsBack (queueWriteBack_only ..)
          (Only.after storeFields_putsBack (modStore_stored ..) (indexRoom_only s v hv)))

/-! Forms of rows. -/

theorem runRow_found (op : Nat) (r : CmdRef) (s : State) (t : Taken) (body : Taken → State → State)
    (h : findRun op r s = some t) : runRow op r s body = .next (body t s) := by
  unfold runRow; rw [h]

theorem runRow_absent (op : Nat) (r : CmdRef) (s : State) (body : Taken → State → State)
    (h : findRun op r s = none) : runRow op r s body = .next s := by
  unfold runRow; rw [h]

theorem checked_passes (t : Taken) (l : List Chk) (s : State) (go : State → State) (h : firstOf l = none) :
    checked t l s go = go s := by
  unfold checked; rw [h]

theorem checked_fails (t : Taken) (l : List Chk) (s : State) (go : State → State) (c : Completion)
    (h : firstOf l = some c) : checked t l s go = finish t c s := by
  unfold checked; rw [h]

/-- A core row whose instruction issues takes the effect of its body. -/
theorem coreRow_done (op c : Nat) (legal : Word32 → Bool) (regs : Word32 → List Nat)
    (body : CoreCtx → State → CoreRes) (s u : State) (x : CoreCtx) (h : Issues op c legal regs s x)
    (hb : body x s = .done u) : coreRow op c legal regs body s = .next u := by
  unfold coreRow
  rw [if_neg (Nat.not_le.mpr h.inRange), h.runs]
  simp only [h.inImage, h.opcode, h.noFault, h.isLegal, h.guarded, h.settled, hb]
  simp

/-- A core row never refuses, and faults only for a cluster that does not exist. -/
theorem coreRow_next (op c : Nat) (legal : Word32 → Bool) (regs : Word32 → List Nat)
    (body : CoreCtx → State → CoreRes) (s : State) (h : c < 160) : ∃ u, coreRow op c legal regs body s = .next u := by
  unfold coreRow
  rw [if_neg (Nat.not_le.mpr h)]
  repeat' split
  all_goals exact ⟨_, rfl⟩
/-! Packets. -/

theorem sendControl_frame (k op : Nat) (b : List Byte) (s : State) :
    { sendControl k op b s with out := s.out, free := s.free } = s := by
  unfold sendControl; split
  · rfl
  · simp only [takeFree]; split <;> rfl

theorem sendAck_frame (k : Nat) (s : State) : { sendAck k s with out := s.out, free := s.free, conns := s.conns } = s := by
  unfold sendAck; split
  · rfl
  · simp only [takeFree]
    exact congrArg (fun u : State => { u with out := s.out, free := s.free, conns := s.conns }) (sendControl_frame ..)

theorem received_frame (k : Nat) (psn : Word32) (force : Bool) (s : State) :
    { received k psn force s with out := s.out, free := s.free, conns := s.conns } = s := by
  unfold received
  simp only
  split
  · exact congrArg (fun u : State => { u with out := s.out, free := s.free, conns := s.conns }) (sendAck_frame ..)
  · rfl

end Sys2Proof.Machine
end

