-- ==== Sys2Proof/Laws/Medium.lean ====
section
/-!
SUPPORT. What the operations on the Loft's array can change, said once: the Loft itself, PERF counters, and Usher's units where a
copy moves. Nothing of the store, the queues, the clusters or the work in hand is touched by placing footprints, by what a die does
next, by programs that land, or by a relocation.
-/
namespace Sys2Proof.Machine
open Sys2Proof

/-- The fields that an operation on the array may change. -/
def mediumFields (u s : State) : State := { u with loft := s.loft, perf := s.perf, perf2 := s.perf2, ulb := s.ulb }

theorem mediumFields_putsBack : PutsBack mediumFields := ⟨fun _ => rfl, fun _ _ _ => rfl⟩

theorem modLoft_medium (f : LoftBlk → LoftBlk) (s : State) : Only mediumFields s (modLoft f s) := rfl
theorem modDie_medium (d : Nat) (f : Die → Die) (s : State) : Only mediumFields s (modDie d f s) := rfl
theorem modPerf_medium (f : PerfBlk → PerfBlk) (s : State) : Only mediumFields s (modPerf f s) := rfl
theorem modBlk_medium (d b : Nat) (f : Blk → Blk) (s : State) : Only mediumFields s (modBlk d b f s) := rfl
theorem modUnit_medium (k m : Nat) (f : LUnit → LUnit) (s : State) : Only mediumFields s (modUnit k m f s) := rfl
theorem invalidate_medium (c : Nat) (id : SceneId) (s : State) : Only mediumFields s (invalidate c id s) := rfl

/-! Footprints and stripes. -/

theorem putPiece_only (k m n : Nat) (f : Foot) (s : State) : Only mediumFields s (putPiece k m n f s) := rfl
theorem closeStripe_only (k : Nat) (s : State) : Only mediumFields s (closeStripe k s) := rfl

theorem closeIfFull_only (k : Nat) (s : State) : Only mediumFields s (closeIfFull k s) := by
  unfold closeIfFull; split
  · split <;> rfl
  · rfl

theorem placeFoot_only (s u : State) (f : Foot) (h : placeFoot s f = some u) : Only mediumFields s u := by
  unfold placeFoot at h
  simp only at h
  split at h
  · cases h
  · split at h
    · cases h
    · split at h
      · cases h
      · rw [← Option.some.inj h]
        exact Only.after mediumFields_putsBack (closeIfFull_only ..) (putPiece_only ..)

theorem openStripeFor_only (s u : State) (n : Nat) (h : openStripeFor s n = some u) : Only mediumFields s u := by
  unfold openStripeFor at h
  split at h
  · cases h
  · split at h
    · cases h
    · simp only at h
      split at h
      · cases h
      · split at h
        · cases h
        · rw [← Option.some.inj h]; rfl

theorem handOver_only (s : State) : Only mediumFields s (handOver s) := by
  unfold handOver
  split
  · rfl
  · refine Only.foldl mediumFields_putsBack _ (fun s q => ?_) _ s
    split <;> rfl

theorem findSome_only {α : Type} (l : List α) (f : α → Option State) (s u : State)
    (hf : ∀ x v, f x = some v → Only mediumFields s v) (h : l.findSome? f = some u) : Only mediumFields s u := by
  obtain ⟨x, -, hx⟩ := List.exists_of_findSome?_eq_some h
  exact hf x u hx

theorem placeFeet_only (n : Nat) (s : State) : Only mediumFields s (placeFeet n s) := by
  induction n generalizing s with
  | zero => rfl
  | succ n ih =>
    unfold placeFeet
    split
    · next t h =>
      exact Only.after mediumFields_putsBack (ih _) (Only.after mediumFields_putsBack (handOver_only t)
        (findSome_only _ _ s t (fun f v hv => placeFoot_only s v f hv) h))
    · split
      · next t h =>
        exact Only.after mediumFields_putsBack (ih _) (findSome_only _ _ s t (fun k v hv => openStripeFor_only s v k hv) h)
      · rfl

/-! What a die does next. -/

theorem kick_only (d : Nat) (s : State) : Only mediumFields s (kick d s) := by
  have start : ∀ (p : Option State) (s : State), (∀ t, p = some t → Only mediumFields s t) → ∀ e : State, Only mediumFields s e →
      Only mediumFields s (match p with | some t => t | none => e) := by
    intro p s h e he
    cases p with
    | some t => exact h t rfl
    | none => exact he
  unfold kick
  simp only
  split
  · rfl
  · refine start _ s ?_ _ ?_
    · intro t ht
      split at ht
      · cases ht
      · split at ht
        · split at ht
          · cases ht
          · rw [← Option.some.inj ht]; rfl
        · split at ht
          · split at ht
            · cases ht
            · rw [← Option.some.inj ht]; rfl
          · cases ht
    · split
      · split <;> rfl
      · rfl

theorem feedRebuild_only (s : State) : Only mediumFields s (feedRebuild s) := by
  unfold feedRebuild
  split
  · rfl
  · refine Only.foldl mediumFields_putsBack _ (fun s r => ?_) _ s
    split
    · rfl
    · split <;> rfl

/-- Bringing the buffer and the dies up to date touches the Loft alone. -/
theorem pump_only (s : State) : Only mediumFields s (pump s) := by
  unfold pump
  exact Only.after mediumFields_putsBack (Only.foldl mediumFields_putsBack _ (fun s d => kick_only d s) _ _)
    (Only.after mediumFields_putsBack (feedRebuild_only _) (Only.after mediumFields_putsBack (handOver_only _)
      (Only.after mediumFields_putsBack (placeFeet_only ..) (handOver_only s))))

theorem reachDie_only (d : Nat) (s : State) : Only mediumFields s (reachDie d s) := by
  unfold reachDie
  simp only
  split <;> rfl

theorem leaveDie_only (d : Nat) (s : State) : Only mediumFields s (leaveDie d s) :=
  Only.after mediumFields_putsBack (kick_only ..) (modDie_medium ..)

theorem countReads_only (o : LoftObj) (s : State) : Only mediumFields s (countReads o s) := by
  unfold countReads
  refine Only.foldl mediumFields_putsBack _ (fun s q => ?_) _ s
  exact Only.foldl mediumFields_putsBack _ (fun s b => modBlk_medium ..) _ s

/-! D0 items, programs and relocation. -/

/-- A D0 item is queued, and changes the Loft alone. -/
theorem startItem_only (kind : ItemKind) (c : Nat) (id : Option SceneId) (n k : Nat) (l : List (LoftObj × Nat × List Byte)) (s : State) :
    Only mediumFields s (startItem kind c id n k l s) :=
  Only.after mediumFields_putsBack (pump_only _) (modLoft_medium ..)

theorem dropData_only (g : LoftObj → Nat → Bool) (s : State) : Only mediumFields s (dropData g s) := rfl
theorem switchHome_only (n : Nat) (s : State) : Only mediumFields s (switchHome n s) := rfl
theorem dropItems_only (p : D0Item → Bool) (s : State) : Only mediumFields s (dropItems p s) := rfl

theorem dropStale_only (s : State) : Only mediumFields s (dropStale s) := by
  unfold dropStale
  refine Only.after mediumFields_putsBack (Only.foldl mediumFields_putsBack _ (fun s p => ?_) _ _) (modLoft_medium ..)
  exact Only.foldl mediumFields_putsBack _ (fun s q => modDie_medium ..) _ s

theorem moveData_only (d b : Nat) (s : State) : Only mediumFields s (moveData d b s) := by
  unfold moveData
  exact Only.foldl mediumFields_putsBack _ (fun s w => startItem_only ..) _ s

/-- A relocation queues D0 items and marks the block, and changes the Loft alone. -/
theorem relocate_only (d b : Nat) (s : State) : Only mediumFields s (relocate d b s) := by
  unfold relocate
  split
  · rfl
  · exact Only.after mediumFields_putsBack (dropStale_only _) (Only.after mediumFields_putsBack (moveData_only ..) (modDie_medium ..))

theorem badBlock_only (d b : Nat) (s : State) : Only mediumFields s (badBlock d b s) := by
  unfold badBlock
  extract_lets was u
  have h : Only mediumFields s u := modDie_medium ..
  clear_value u
  split
  · exact h
  · exact Only.after mediumFields_putsBack (relocate_only ..) h

theorem updateWear_only (s : State) : Only mediumFields s (updateWear s) := rfl

theorem countWritten_only (n : Nat) (s : State) : Only mediumFields s (countWritten n s) := by
  unfold countWritten
  split <;> rfl

theorem takeLine_only (d : Nat) (r : Bool) (s : State) : Only mediumFields s (takeLine d r s).2.2 := rfl

/-- A program that lands changes the Loft alone. -/
theorem landUnit_only (d k m : Nat) (r : Bool) (s : State) : Only mediumFields s (landUnit d k m r s) := by
  unfold landUnit
  exact Only.after mediumFields_putsBack (countWritten_only ..) (Only.after mediumFields_putsBack (modUnit_medium ..) (takeLine_only d r s))

theorem announce_only (l : List (Nat × PageRef)) (s : State) : Only mediumFields s (announce l s) := by
  unfold announce
  exact Only.foldl mediumFields_putsBack _ (fun s p => invalidate_medium ..) _ s

theorem landRebuilt_only (d k m : Nat) (r : Bool) (s : State) : Only mediumFields s (landRebuilt d k m r s) := by
  unfold landRebuilt
  exact Only.after mediumFields_putsBack (announce_only ..) (Only.after mediumFields_putsBack (modLoft_medium ..)
    (Only.after mediumFields_putsBack (modUnit_medium ..) (takeLine_only d r s)))

theorem endOp_only (d : Nat) (s : State) : Only mediumFields s (endOp d s) := rfl
theorem eraseEnds_only (d b : Nat) (s : State) : Only mediumFields s (eraseEnds d b s) := rfl
theorem blockErased_only (d b : Nat) (s : State) : Only mediumFields s (blockErased d b s) := rfl
theorem againLater_only (d k m : Nat) (s : State) : Only mediumFields s (againLater d k m s) := rfl

theorem shiftBlock_only (d a b : Nat) (s : State) : Only mediumFields s (shiftBlock d a b s) := by
  unfold shiftBlock
  exact Only.after mediumFields_putsBack (announce_only ..) (Only.after mediumFields_putsBack (modBlk_medium ..)
    (Only.after mediumFields_putsBack (modBlk_medium ..) (Only.foldl mediumFields_putsBack _ (fun s q => modUnit_medium ..) _ s)))

end Sys2Proof.Machine
end

