-- ==== Sys2Proof/Tests/Slice0.lean ====
section
/-!
SUPPORT. Tests of the model: terms that the well-formedness checks refuse, decisive single steps with results from the spec, and for
every statement a state and operands that meet its hypotheses, clause by clause.
-/
namespace Sys2Proof.Tests
set_option Elab.async false
open Sys2Proof Sys2Proof.Machine

/-! Ill-formed terms, one for each check. -/

def since0 : ArbSince := { transfers := 0, dropped := false }
theorem test_wf_ref : (Instr.nop { queue := 4097, tag := 0 }).wf = false ∧ (Instr.nop { queue := 0, tag := 65536 }).wf = false := by
  decide
theorem test_wf_queue : (Instr.completionInterrupt 4096).wf = false := by decide
theorem test_wf_packet : (Instr.packetIntake 0 (List.replicate 8 0x100)).wf = false := by decide
theorem test_wf_cluster : (Instr.alu 160).wf = false := by decide
theorem test_wf_physical : (Instr.mailboxFlush 0 176 0).wf = false := by decide
theorem test_wf_mailbox : (Instr.mailboxArrival 0 0 4).wf = false := by decide
theorem test_wf_agent : (Instr.sanitize 32 0).wf = false := by decide
theorem test_wf_company : (Instr.rulesGraceExpiry 64).wf = false := by decide
theorem test_wf_offset : (Instr.lockWrite 0 0x100000 0).wf = false := by decide
theorem test_wf_register : (Instr.registerWrite 0 0x110000 4 0).wf = false := by decide
theorem test_wf_arb_class : (Instr.arbCtrlWrite 0 6 .full 0).wf = false := by decide
theorem test_wf_arbiter : (Instr.quotaWindowEnd 5 1 since0).wf = false := by decide
theorem test_wf_requester : (Instr.backoffExpiry 0 0 65536 { cls := 0, cmd := none } since0).wf = false := by decide
theorem test_wf_readings : (Instr.railReading []).wf = false := by decide
theorem test_wf_region : (Instr.monitorFailure 18).wf = false := by decide
theorem test_wf_port : (Instr.cxlPortReset 8).wf = false := by decide
theorem test_wf_ld : (Instr.cdatRead 0 4 0).wf = false := by decide
theorem test_wf_config : (Instr.configRequest 0 0 2 none).wf = false := by decide
theorem test_wf_endpoint : (Instr.getDigests (.doe 0 5)).wf = false := by decide
theorem test_wf_unsupported : (Instr.spdmUnsupportedRequest .mctp 0x84).wf = false := by decide
theorem test_wf_line_address : (Instr.cxlMemRead 0 32 .shared).wf = false := by decide
theorem test_wf_line_data : (Instr.cxlMemWrite 0 0 [0] false).wf = false := by decide
theorem test_wf_window_line : (Instr.biSnoopTimeout 0 1048576).wf = false := by decide
theorem test_wf_atomic_size : (Instr.fetchAdd 0 0 16 0).wf = false := by decide
theorem test_wf_cas_size : (Instr.cas 0 0 2 0 0).wf = false := by decide
theorem test_wf_die : (Instr.suspendExpiry 1024).wf = false := by decide
theorem test_wf_block : (Instr.reclamation 0 4096).wf = false := by decide
theorem test_wf_half : (Instr.stripeCloseTimer 2).wf = false := by decide
theorem test_wf_class : (Instr.starvationFlag 0 0 5 { cls := 6, cmd := none }).wf = false := by decide
theorem test_wf_stack : (Instr.hbmRefresh 8 0).wf = false := by decide
theorem test_wf_pseudo_channel : (Instr.hbmRefresh 0 32).wf = false := by decide
theorem test_wf_event : (Instr.eventInterrupt 9).wf = false := by decide
theorem test_wf_stage_row : (Instr.stageRowRepair 0 3200 { units := [], tails := [], data := { pages := [] } }).wf = false := by decide
theorem test_wf_link : (Instr.linkDeath 10 1 19).wf = false := by decide
theorem test_wf_eth_port : (Instr.droppedFrame 4).wf = false := by decide
/-- Every check lets something pass. -/
theorem test_wf_good : ([.nop { queue := 4096, tag := 65535 }, .completionInterrupt 4095, .packetIntake 0 (List.replicate 8 0x01),
    .alu 159, .mailboxFlush 31 175 0, .mailboxArrival 0 159 3, .rulesGraceExpiry 63, .lockWrite 0 0xFFFFF 0,
    .registerWrite 0 0x10FFFF 4 0, .arbCtrlWrite 0 5 .full 0, .quotaWindowEnd 5 0 since0,
    .backoffExpiry 2 1404 65535 { cls := 5, cmd := none } since0,
    .railReading (List.replicate 18 0), .monitorFailure 17, .cdatRead 7 3 0, .configRequest 7 3 4092 none, .getDigests (.doe 7 4),
    .spdmUnsupportedRequest .mctp 0x85, .cxlMemWrite 0 64 (List.replicate 64 0) false, .biSnoopTimeout 0 1048575,
    .fetchAdd 0 0 8 0, .cas 0 0 16 0 0, .reclamation 1023 4095, .stripeCloseTimer 1, .hbmRefresh 7 31, .eventInterrupt 8,
    .loftProgramComplete { die := 1023, block := 4095, failed := false }, .linkDeath 9 1 34, .droppedFrame 3] :
    List Instr).all Instr.wf = true := by decide +kernel

/-! States in service. -/

/-- Company 1's table here: every command and window. -/
def openTable : RuleTable :=
  { RuleTable.shipped with windows :=
      [ { kind := 0, space := 0, rights := 7, scope := 0xFFFFFFFF, base := 0, limit := 0xFFFFFFFFFFFFFFFF },
        { kind := 1, space := 0, rights := 7, scope := 9, base := 0, limit := 0xFFFFFFFFFFFFFFFF },
        { kind := 2, space := 0, rights := 7, scope := 0xFFFFFFFF, base := 0, limit := 0xFFFFFFFFFFFFFFFF },
        { kind := 2, space := 1, rights := 7, scope := 0xFFFFFFFF, base := 0, limit := 0xFFFFFFFFFFFFFFFF } ] }

/-- Curtain up at 1 ms: company 1 with agent 6, queue 1 and reservations; agent 0 is the owner's; model 3 of company 1. -/
def up : State :=
  { State.reset with
    fuses := { State.reset.fuses with loaded := true }
    dev := { DevBlk.reset with curUp := true, dawnPhase := 7, time := 1000000, checkpoint := true }
    pwr := { PwrBlk.reset with on := 0x7F, holdupUs := 12000, supplyMv := 12000, railMv := 770 }
    ports := [(0, { Port.fresh with linkUp := true, busMaster := 15, memActive := true, memInfo := true }),
              (6, { Port.fresh with linkUp := true, busMaster := 15, memActive := true, memInfo := true })]
    agents := [(6, { Agent.shipped 6 with company := 1 })]
    queues := [(0, { Queue.fresh with enabled := true }),
               (1, { Queue.fresh with agent := 6, company := 1, enabled := true })]
    store := { Store.reset with
      companies := [(0, Company.zero), (1, { Company.fresh with
        table := openTable, key := some 1, stageRes := 2097152, wingsRes := 1073741824, loftRes := 1073741824, unified := 2097152
        streamRes := 10, programs := [(2, List.replicate 8 0)] })]
      models := [(3, { fingerprint := 9, layers := 1, heads := 1, dim := 32, kvType := 2, company := 1, retiring := false })] } }

def R1 : CmdRef := { queue := 1, tag := 5 }
def R0 : CmdRef := { queue := 0, tag := 5 }

/-- The command of queue q and company c with opcode op, header bits 63..48 f, the words after the header, and host arrays read. -/
def cmdOf (q c op f : Nat) (words : List (BitVec 64)) (arrays : List (List Byte)) : Taken :=
  { queue := q, tag := 5, company := c, opcode := op
    words := BitVec.ofNat 64 (op + 1024 * c + 65536 * 5 + 2 ^ 48 * f) :: words ++ List.replicate (7 - words.length) 0
    fence := false, urgent := false, seq := 0, time := 1000000, dispatched := true, fetched := true, arrays := arrays, want := []
    readAt := 0, refused := none, running := false, reads := [], sets := [], chains := [(7, [0x100]), (8, [])], budget := 2097152
    image := none, table := none, cancelled := false, items := none, ptm := none }
def own (op f : Nat) (words : List (BitVec 64)) : Taken := cmdOf 0 0 op f words []
def ours (op : Nat) (words : List (BitVec 64)) (arrays : List (List Byte)) : Taken := cmdOf 1 1 op 0 words arrays
/-- s with the command in flight. -/
def flying (t : Taken) (s : State) : State := { s with taken := [t], nextSeq := 1 }

def passes (op : Nat) (r : CmdRef) (s : State) (t : Taken) (checks : Taken → State → List Chk) : Bool :=
  decide (findRun op r (flying t s) = some t) && (firstOf (checks t (flying t s))).isNone

theorem passes_ok {op : Nat} {r : CmdRef} {s : State} {t : Taken} {checks : Taken → State → List Chk}
    (h : passes op r s t checks = true) : Passes op r (flying t s) t checks := by
  simp only [passes, Bool.and_eq_true, decide_eq_true_eq, Option.isNone_iff_eq_none] at h
  exact ⟨h.1, h.2⟩

/-! AdminCommandsComplete. -/

theorem test_admin_nop : Passes 0x01 R1 (flying (ours 0x01 [] []) up) (ours 0x01 [] []) nopChecks := passes_ok (by decide +kernel)
theorem test_admin_identify : let t := cmdOf 1 1 0x02 1 [0x1000] []
    Passes 0x02 R1 (flying t up) t identifyChecks := passes_ok (by decide +kernel)
theorem test_admin_get_log : let t := cmdOf 1 1 0x03 2 [0x1000, 64, 0] []
    Passes 0x03 R1 (flying t up) t getLogChecks := passes_ok (by decide +kernel)
theorem test_admin_set_feature : let t := own 0x04 2 [1]
    Passes 0x04 R0 (flying t up) t setFeatureChecks := passes_ok (by decide +kernel)
theorem test_admin_get_feature : let t := cmdOf 1 1 0x05 1 [] []
    Passes 0x05 R1 (flying t up) t getFeatureChecks := passes_ok (by decide +kernel)
theorem test_admin_health : let t := ours 0x7F [] []
    Passes 0x7F R1 (flying t up) t healthChecks := passes_ok (by decide +kernel)
theorem test_admin_quiesce : let t := own 0x7E 0 [1]
    Passes 0x7E R0 (flying t up) t quiesceChecks := passes_ok (by decide +kernel)
def scene0 : Scene :=
  { company := 1, id := 0x100, parent := 0, model := 3, depth := 1, pages := [List.replicate 64 5], sketches := [List.replicate 32 0]
    pins := 0, lastUse := 0, stage := [false], wings := [true], loft := [true], placed := none, retired := false
    putAt := 0, sealSeq := 0, recorded := true, slot := 0 }
def stream0 : Stream :=
  { company := 1, model := 3, translate := 1, tailStage := false, chain := [], tailCount := 0, tailFps := [], tailPages := [], tailPoison := []
    tailSketches := [], placed := none, placedOn := [] }
/-- `up` with a sealed scene, an empty stream 8, stream 7 of that scene, scratch object 4 and weight set 5. -/
def stocked : State :=
  { up with store := { up.store with
      scenes := [scene0], streams := [(7, { stream0 with chain := [0x100] }), (8, stream0)]
      scratch := [(4, { company := 1, size := 128, stage := false, placed := false, mem := [], poison := [] })]
      weights := [{ company := 1, name := 5, layers := [List.replicate 64 1], wings := [true], stage := [false], loft := [true]
                    placed := none, retired := false, setNum := 0, madeBy := 0, pending := false, old := false }] } }

/-! CompanyCommandsComplete. -/

theorem test_company_create : let t := cmdOf 0 2 0x08 0 [2, 0] []
    Passes 0x08 R0 (flying t { up with store := { up.store with tenancy := true } }) t companyCreateChecks :=
  passes_ok (by decide +kernel)
theorem test_company_destroy : let t := cmdOf 0 1 0x09 0 [] []
    Passes 0x09 R0 (flying t { up with queues := [(0, { Queue.fresh with enabled := true })] }) t companyDestroyChecks :=
  passes_ok (by decide +kernel)
/-- A rule table of one window and no connection, as bytes (R765). -/
def tableBytes : List Byte :=
  let head := leBytes 4 0x4B524C54 ++ leBytes 2 1 ++ leBytes 2 1 ++ leBytes 2 0 ++ [0, 0] ++ leBytes 4 100 ++ List.replicate 32 0xFF
    ++ List.replicate 12 0
  let window := leBytes 8 0 ++ leBytes 8 0xFFFFFFFFFFFFFFFF ++ leBytes 4 0xFFFFFFFF ++ [0, 7, 0] ++ List.replicate 9 0
  head ++ leBytes 4 (crc32 (head ++ window)).toNat ++ window
set_option maxRecDepth 100000 in
theorem test_company_rules : let t := cmdOf 0 1 0x0A 0 [0x1000, BitVec.ofNat 64 tableBytes.length] [tableBytes]
    Passes 0x0A R0 (flying t up) t companyRulesChecks := passes_ok (by decide +kernel)
theorem test_admit : let t := cmdOf 0 1 0x10 0 [0, 1073741824, 2097152, 0, 1, 0] []
    Passes 0x10 R0 (flying t up) t admitChecks := passes_ok (by decide +kernel)
theorem test_release : let t := cmdOf 0 1 0x11 0 [] []
    let s := flying t { up with queues := [(0, { Queue.fresh with enabled := true })], store := { up.store with scenes := [scene0] } }
    Passes 0x11 R0 s t releaseChecks ∧ ((ofCompany s 1).any fun x => inFlight s 1 x.id) = false :=
  ⟨passes_ok (by decide +kernel), by decide +kernel⟩
theorem test_model_register : let t := cmdOf 0 1 0x18 0 [7, 0x0200400101] []
    Passes 0x18 R0 (flying t up) t modelRegisterChecks := passes_ok (by decide +kernel)
theorem test_model_retire : let t := cmdOf 0 1 0x19 3 [] []
    Passes 0x19 R0 (flying t up) t modelRetireChecks := passes_ok (by decide +kernel)

/-! StreamCommandsComplete. -/

theorem test_stream_open : let t := ours 0x20 [3] []
    Passes 0x20 R1 (flying t stocked) t streamOpenChecks := passes_ok (by decide +kernel)
theorem test_stream_close : let t := ours 0x21 [7] []
    Passes 0x21 R1 (flying t stocked) t streamCloseChecks := passes_ok (by decide +kernel)
theorem test_stream_fork_stream : let t := ours 0x22 [0x100000008, 7] []
    Passes 0x22 R1 (flying t stocked) t streamForkChecks ∧ bit (word t 1) 32 = true := ⟨passes_ok (by decide +kernel), by decide⟩
theorem test_stream_fork_scene : let t := ours 0x22 [8, 0x100, 0] []
    Passes 0x22 R1 (flying t stocked) t streamForkChecks ∧ bit (word t 1) 32 = false := ⟨passes_ok (by decide +kernel), by decide⟩
set_option maxRecDepth 100000 in
theorem test_find_prefix : let t := ours 0x28 [3, 0x1000, 16] [List.replicate 128 1]
    Passes 0x28 R1 (flying t stocked) t findPrefixChecks := passes_ok (by decide +kernel)
theorem test_append_scenes : let t := ours 0x29 [8, 1, 0x1000, 0x4000, 0] []
    Passes 0x29 R1 (flying t stocked) t appendScenesChecks := passes_ok (by decide +kernel)
theorem test_seal : let t := ours 0x2A [8] []
    let s := { stocked with store := { stocked.store with streams := [(8, { stream0 with tailCount := 16 })] } }
    Passes 0x2A R1 (flying t s) t sealChecks := passes_ok (by decide +kernel)
theorem test_trim : let t := ours 0x2B [7] []
    Passes 0x2B R1 (flying t stocked) t trimChecks := passes_ok (by decide +kernel)

/-! PlacementCommandsComplete. -/

theorem test_pin : let t := ours 0x30 [0, 0x100, 0] []
    Passes 0x30 R1 (flying t stocked) t pinChecks := passes_ok (by decide +kernel)
theorem test_unpin : let t := ours 0x31 [0, 0x100, 0] []
    let s := { stocked with store := { stocked.store with scenes := [{ scene0 with pins := 1 }] } }
    Passes 0x31 R1 (flying t s) t unpinChecks := passes_ok (by decide +kernel)
theorem test_place_create : let t := ours 0x32 [0x3200000000000000, 65536] []
    Passes 0x32 R1 (flying t stocked) t placeChecks ∧ (match placeObj t (flying t stocked) with | .create => true | _ => false) = true :=
  ⟨passes_ok (by decide +kernel), by decide +kernel⟩
theorem test_place_free : let t := ours 0x32 [0x3002000000000004] []
    Passes 0x32 R1 (flying t stocked) t placeChecks ∧ (match placeObj t (flying t stocked) with | .create => true | _ => false) = false ∧ bit (word t 1) 49 = true :=
  ⟨passes_ok (by decide +kernel), by decide +kernel, by decide⟩
theorem test_place_move : let t := ours 0x32 [0x0200000000000000, 0x100, 0] []
    Passes 0x32 R1 (flying t stocked) t placeChecks ∧ (match placeObj t (flying t stocked) with | .create => true | _ => false) = false ∧ bit (word t 1) 49 = false :=
  ⟨passes_ok (by decide +kernel), by decide +kernel, by decide⟩
/-- R286: a move that would read a page of a retired scene. -/
theorem test_move_lost : let s := { stocked with store := { stocked.store with scenes := [{ scene0 with wings := [false], retired := true }] } }
    let p := ours 0x32 [0x0200000000000000, 0x100, 0] []
    let m := ours 0x33 [0x0200000000000000, 0x100, 0] []
    (Passes 0x32 R1 (flying p s) p placeChecks ∧ bit (word p 1) 49 = false ∧
      moveLost p (placeObj p (flying p s)) 2 (flying p s) = some (.scene 0x100 0)) ∧
    (Passes 0x33 R1 (flying m s) m migrateChecks ∧ moveLost m (placeObj m (flying m s)) 2 (flying m s) = some (.scene 0x100 0)) :=
  ⟨⟨passes_ok (by decide +kernel), by decide, by decide +kernel⟩, passes_ok (by decide +kernel), by decide +kernel⟩
theorem test_migrate : let t := ours 0x33 [0x0200000000000000, 0x100, 0] []
    Passes 0x33 R1 (flying t stocked) t migrateChecks := passes_ok (by decide +kernel)
theorem test_weights_remove : let t := ours 0x48 [5, 0, 0, 0] [[], []]
    Passes 0x48 R1 (flying t stocked) t weightsLoadChecks ∧ fld (word t 2) 10 0 = 0 := ⟨passes_ok (by decide +kernel), by decide⟩
theorem test_weights_load : let t := ours 0x48 [6, 1, 0x1000, 0x2000] [leBytes 8 64, List.replicate 64 7]
    Passes 0x48 R1 (flying t stocked) t weightsLoadChecks ∧ fld (word t 2) 10 0 ≠ 0 := ⟨passes_ok (by decide +kernel), by decide⟩
theorem test_cluster_load : let t := ours 0x60 [0x400000002, 0x1000] [[1, 2, 3, 4]]
    Passes 0x60 R1 (flying t up) t clusterLoadChecks := passes_ok (by decide +kernel)

/-! QueueCommandsComplete. -/

theorem test_queue_create : let t := own 0x50 0 [2, 0x10000, 0x20000]
    Passes 0x50 R0 (flying t up) t queueCreateChecks := passes_ok (by decide +kernel)
theorem test_queue_delete : let t := own 0x51 0 [1]
    Passes 0x51 R0 (flying t up) t queueDeleteChecks := passes_ok (by decide +kernel)
theorem test_queue_flush : let t := own 0x52 0 [1]
    Passes 0x52 R0 (flying t up) t queueFlushChecks := passes_ok (by decide +kernel)
theorem test_queue_wait : let t := ours 0x53 [2, 1, 0] []
    let s := { up with queues := up.queues ++ [(2, { Queue.fresh with agent := 6, company := 1, enabled := true })] }
    Passes 0x53 R1 (flying t s) t queueWaitChecks := passes_ok (by decide +kernel)

/-! MaintenanceCommandsComplete. -/

theorem test_scrub_now : let t := own 0x78 0 [0]
    Passes 0x78 R0 (flying t up) t scrubChecks := passes_ok (by decide +kernel)
theorem test_repair : let t := own 0x79 0 [0, 159]
    Passes 0x79 R0 (flying t up) t repairChecks := passes_ok (by decide +kernel)
theorem test_selftest : let t := own 0x7A 0 [2]
    Passes 0x7A R0 (flying t up) t selftestChecks := passes_ok (by decide +kernel)
theorem test_fw_download : let t := own 0x7C 0 [1, 0, 4096, 0x1000]
    Passes 0x7C R0 (flying t up) t fwDownloadChecks := passes_ok (by decide +kernel)
theorem test_fw_commit : let t := own 0x7D 0 [1]
    Passes 0x7D R0 (flying t up) t fwCommitChecks := passes_ok (by decide +kernel)
/-- Which images a signature covers is the device's key's (notes/assumptions/7.md): an empty slot verifies, or it does not. -/
theorem test_fw_verdict : (Config.fwSigned [] = true → slotVerdict up 1 = 0) ∧ (Config.fwSigned [] = false → slotVerdict up 1 ≠ 0) := by
  have e : slotVerdict up 1 = if !Config.fwSigned [] then 1 else if Config.fwSecVer [] < 0 then 2 else 0 := rfl
  constructor <;> intro h <;> simp [e, h]
/-! DeliveryCommandsComplete and ComputeCommandsComplete. -/

/-- Connection 9 of company 1, UP. -/
def conn0 : Conn :=
  { company := 1, entry := { connId := 9, ports := 1, peerConn := 77, ipv6 := false, arrive := true, peerPort := 0xC000, win := 2
                             agent := 6, counter := 0, peerIp := 0x0A000009 }
    state := 2, syncSeen := true, ackSeen := true, initPsn := 0, nextPsn := 5, expPsn := 100, seen := [], unacked := 0, unackedAt := 0
    window := 65536, winPsn := 0, sent := [], outMsgs := [], inMsgs := [], nextMsg := 0, srtt := 0, rttvar := 0, rate := 0
    removed := [], nextEnt := 0, nextPort := 0, lastRx := 0, ceSeen := false, held := [], inReads := [] }
def linked : State :=
  { stocked with
    fuses := { stocked.fuses with variant := .l }
    eth := [(0, { cfg := 1, addrs := [10, 0, 0, 1, 10, 0, 0, 254, 24, 0, 0x80, 0x4D] ++ List.replicate 52 0, linkUp := true, fecLock := true
                  gw := true })]
    conns := [(9, conn0)] }
def words8 (l : List Nat) : List Byte := l.flatMap (leBytes 8)
/-- One destination of 64 KiB behind agent 6, one entry: scenes of stream 7, one layer. -/
def cueList : List Byte := words8 [6, 0x10000, 0x10000, 0, 7 * 2 ^ 32 + 1, 0, 0, 0]
def cueT (op : Nat) : Taken :=
  ours op [0x4000, (if op = 0x38 then 0xC4000000000000 else 0x84000000000000), 0, 2000000, 0x8000] [cueList]

theorem test_cue_stall_or_deadline :
    (Passes 0x38 R1 (flying (cueT 0x38) stocked) (cueT 0x38) (runCueChecks true) ∧ bit (word (cueT 0x38) 2) 50 = true) ∧
    (Passes 0x39 R1 (flying (cueT 0x39) stocked) (cueT 0x39) (runCueChecks false) ∧ bit (word (cueT 0x39) 2) 50 = true) :=
  ⟨⟨passes_ok (by decide +kernel), by decide⟩, passes_ok (by decide +kernel), by decide⟩
theorem test_cue_not_retired : let s := flying (cueT 0x38) stocked
    indexWhere (fun i : CueItem => isRetired s 1 i.scene) ((parseList (cueT 0x38) s).entries.flatMap entryItems) = none := by
  decide +kernel
theorem test_cancel_cue : let t := ours 0x3A [0x100000005] []
    Passes 0x3A R1 (flying t stocked) t cancelCueChecks := passes_ok (by decide +kernel)
theorem test_weights_stream : let t := { ours 0x49 [5, 0x2000100010000, 0x10000, 64, 6, 0x2000, 0, 0, 0, 0x8000] [] with sets := [0] }
    let s := flying t stocked
    Passes 0x49 R1 s t weightsStreamChecks ∧ ((setNamed t s (word t 1).toNat).map (·.retired)).getD false = false :=
  ⟨passes_ok (by decide +kernel), by decide +kernel⟩
theorem test_xfer : let t := ours 0x58 [9, 0x1000000000000000, 0x1000, 0, 0x2000, 64] []
    Passes 0x58 R1 (flying t linked) t xferChecks := passes_ok (by decide +kernel)
theorem test_atomic : let t := ours 0x59 [9, 0x2000, 5] []
    Passes 0x59 R1 (flying t linked) t atomicChecks := passes_ok (by decide +kernel)
def attT : Taken :=
  ours 0x40 [0x3F80000000010001, 0x210101, 0, 0x4000, 0x5000, 0x6000, 0x7000, 0, 0, 0, 0, 0, 0, 0, 0] [words8 [7, 2 ^ 36], List.replicate 64 0]
theorem test_attend : Passes 0x40 R1 (flying attT stocked) attT (runAttendChecks false) ∧
    4 * attendNeed attT (flying attT stocked) ≤ 5 * attT.budget :=
  ⟨passes_ok (by decide +kernel), by decide +kernel⟩
/-- A scoring table for model fingerprint 9 with no network layer. -/
def table0 : Table := { company := 1, bytes := List.replicate 24 0 ++ leBytes 8 9 ++ List.replicate 32 0, order := 1 }
def scoring : State := { stocked with store := { stocked.store with tables := [(0, table0)] } }
def sparseT : Taken := { attT with opcode := 0x41, table := some table0, words :=
  (0x00050041 + 1024) :: [0x3F80000000010001, 0x210101, 0, 0x4000, 0x5000, 0x6000, 0x7000, 0, 0x10000, 0x8000, 0x9000, 0, 0, 0, 0] }
theorem test_attend_sparse : Passes 0x41 R1 (flying sparseT scoring) sparseT (runAttendChecks true) ∧
    4 * attendNeed sparseT (flying sparseT scoring) ≤ 5 * sparseT.budget :=
  ⟨passes_ok (by decide +kernel), by decide +kernel⟩
def sketchT : Taken :=
  { ours 0x42 [0x100000000, 0x4000, 0x5000, 0x6000] [words8 [7, 2 ^ 36], List.replicate 32 0] with table := some table0 }
theorem test_sketch_query : Passes 0x42 R1 (flying sketchT scoring) sketchT sketchQueryChecks := passes_ok (by decide +kernel)
def runT : Taken := { ours 0x61 ([0x100010002, 0] ++ List.replicate 29 0) [] with image := some (List.replicate 8 0) }
theorem test_cluster_run : Passes 0x61 R1 (flying runT up) runT clusterRunChecks := passes_ok (by decide +kernel)
theorem test_cluster_halt : let t := ours 0x62 [0x100000005] []
    Passes 0x62 R1 (flying t up) t clusterHaltChecks := passes_ok (by decide +kernel)
/-! Cores. Word builders follow R434's formats. -/

def fR (op rd ra rb fn : Nat) : Word32 := BitVec.ofNat 32 (op * 2 ^ 26 + rd * 2 ^ 17 + ra * 2 ^ 12 + rb * 2 ^ 7 + fn)
def fI (op rd ra imm : Nat) : Word32 := BitVec.ofNat 32 (op * 2 ^ 26 + rd * 2 ^ 17 + ra * 2 ^ 12 + imm)
def fW (op low26 : Nat) : Word32 := BitVec.ofNat 32 (op * 2 ^ 26 + low26)

/-- A run of clusters 0 and 1 of company 1, with a writable scratch buffer, a host buffer and a stream buffer. -/
def run0 : RunOp :=
  { seq := 0, company := 1, image := [], row0 := 0, rows := 1, col0 := 0, cols := 2, args := [], bufs :=
      [{ kind := 3, addr := 4, write := true, read := true, length := 128, chain := [], model := 64, set := 0 },
       { kind := 1, addr := 0x1000, write := true, read := true, length := 128, chain := [], model := 64, set := 0 },
       { kind := 4, addr := 7, write := false, read := true, length := 0, chain := [0x100], model := 3, set := 0 }]
    limit := 1000, translate := 1, started := some 0, timedOut := false, halted := false, aborted := none, fault := none
    internal := false }
/-- Core 0 in that run, with the word at its pc and s1 to s9. -/
def cluster0 (w : Word32) : Cluster :=
  { Cluster.fresh with
    logical := 0, st := 2, company := 1, run := some 0, imem := [w, 0x89ABCDEF], imageLen := 4, dirty := true
    core := { Core.fresh with s := [0, 16, 5, 0xFFFFFFFFFFFFFFF9, 0x1000000, 17, 0x180000, 1, 0x0200000000000000, 64] ++ List.replicate 22 0
                              mbx := [[{ src := 1, data := [1, 2, 3, 4, 5, 6, 7, 8] }], [], [], []] } }
def cored (w : Word32) : State :=
  { stocked with
    clusters := [(0, cluster0 w), (1, { Cluster.fresh with logical := 1, st := 2, company := 1, run := some 0 })]
    work := { Work.reset with runs := [run0] } }
def ctx (w : Word32) : CoreCtx := { p := 0, c := 0, cl := cluster0 w, run := run0, w := w }

theorem runs (w : Word32) : running 0 (cored w) = some (ctx w) := by
  simp [running, clusterIn, physOf, cored, ctx, cluster, kgetD, kget, cluster0, runOf, run0, Core.fresh, Cluster.fresh]

def issues (op : Nat) (legal : Word32 → Bool) (w : Word32) : Bool :=
  opOf w == op && legal w && guardOf (ctx w)

theorem issues_ok {op : Nat} {legal : Word32 → Bool} {regs : Word32 → List Nat} {w : Word32} (h : issues op legal w = true) :
    EngIssues op 0 legal regs (cored w) (ctx w) := by
  simp only [issues, Bool.and_eq_true, beq_iff_eq] at h
  obtain ⟨⟨h3, h4⟩, h5⟩ := h
  exact { inRange := by decide, runs := runs w, inImage := rfl, opcode := h3, noFault := rfl
          isLegal := h4, guarded := h5, settled := by simp [ctx, cluster0, Core.fresh], place := Nat.zero_lt_succ _ }

/-- s(ra) of the core after an instruction. -/
def after (i : Instr) (w : Word32) : Option Cluster :=
  match exec i (cored w) with
  | .next t => some (cluster t 0)
  | _ => none
def rdAfter (i : Instr) (w : Word32) (rd : Nat) : Option Word64 := (after i w).map fun c => sreg c.core rd

/-! ArithmeticWritesRd, DivisionNeverFaults, PredicatesAreWritten: each encoding issues, and gives the result of its rule. -/

theorem test_alu : Issues 0x00 0 aluLegal regsR (cored (fR 0 10 3 2 1)) (ctx (fR 0 10 3 2 1)) ∧
    rdAfter (.alu 0) (fR 0 10 3 2 1) 10 = some (BitVec.ofInt 64 (-12)) :=
  ⟨(issues_ok (by decide +kernel)).toIssues, by decide +kernel⟩
theorem test_addi : Issues 0x01 0 always regsI (cored (fI 1 10 2 0xFFF)) (ctx (fI 1 10 2 0xFFF)) ∧
    rdAfter (.addi 0) (fI 1 10 2 0xFFF) 10 = some 4 := ⟨(issues_ok (by decide +kernel)).toIssues, by decide +kernel⟩
theorem test_andi : Issues 0x02 0 always regsI (cored (fI 2 10 3 0xFFF)) (ctx (fI 2 10 3 0xFFF)) ∧
    rdAfter (.andi 0) (fI 2 10 3 0xFFF) 10 = some 0xFF9 := ⟨(issues_ok (by decide +kernel)).toIssues, by decide +kernel⟩
theorem test_ori : Issues 0x03 0 always regsI (cored (fI 3 10 1 0xFFF)) (ctx (fI 3 10 1 0xFFF)) ∧
    rdAfter (.ori 0) (fI 3 10 1 0xFFF) 10 = some 0xFFF := ⟨(issues_ok (by decide +kernel)).toIssues, by decide +kernel⟩
theorem test_xori : Issues 0x04 0 always regsI (cored (fI 4 10 2 7)) (ctx (fI 4 10 2 7)) ∧
    rdAfter (.xori 0) (fI 4 10 2 7) 10 = some 2 := ⟨(issues_ok (by decide +kernel)).toIssues, by decide +kernel⟩
theorem test_shi : Issues 0x05 0 shiLegal regsI (cored (fI 5 10 3 0x81)) (ctx (fI 5 10 3 0x81)) ∧
    rdAfter (.shi 0) (fI 5 10 3 0x81) 10 = some (BitVec.ofInt 64 (-4)) :=
  ⟨(issues_ok (by decide +kernel)).toIssues, by decide +kernel⟩
theorem test_movi : Issues 0x06 0 always (fun w => [rdOf w]) (cored (fW 6 (10 * 2 ^ 17 + 0x1FFFF))) (ctx (fW 6 (10 * 2 ^ 17 + 0x1FFFF))) ∧
    rdAfter (.movi 0) (fW 6 (10 * 2 ^ 17 + 0x1FFFF)) 10 = some (BitVec.allOnes 64) :=
  ⟨(issues_ok (by decide +kernel)).toIssues, by decide +kernel⟩
theorem test_ldpc : let w := fW 7 (10 * 2 ^ 17)
    Issues 0x07 0 always (fun w => [rdOf w]) (cored w) (ctx w) ∧
    (w64 ((ctx w).cl.core.pc.toNat / 8 * 8) + 8 * sext 17 (fw w 16 0)).toNat < 65536 ∧
    rdAfter (.ldpc 0 false) w 10 = some 0x89ABCDEF1C140000 :=
  ⟨(issues_ok (by decide +kernel)).toIssues, by decide, by decide +kernel⟩
theorem test_division : let w := fR 0 10 2 0 0x0D
    fnOf w = 0x0D ∧ Issues 0x00 0 aluLegal regsR (cored w) (ctx w) ∧ rdAfter (.alu 0) w 10 = some 5 :=
  ⟨by decide, (issues_ok (by decide +kernel)).toIssues, by decide +kernel⟩
theorem test_alu_reserved : let w := fR 0 10 2 2 0x15
    running 0 (cored w) = some (ctx w) ∧ fetched (ctx w) = true ∧ opOf w = 0 ∧ (ctx w).cl.engQ = [] ∧ 0x14 < fnOf w ∧
    (after (.alu 0) w).map (·.st) = some 5 :=
  ⟨runs _, by decide, by decide, rfl, by decide, by decide +kernel⟩
theorem test_cmp : let w := fW 8 (3 * 2 ^ 19 + 2 * 2 ^ 16 + 3 * 2 ^ 11 + 2 * 2 ^ 6)
    Issues 0x08 0 (fun w => decide (fw w 18 16 < 6) && fw w 5 0 == 0) (fun w => [fw w 15 11, fw w 10 6]) (cored w) (ctx w) ∧
    (after (.cmp 0) w).map (fun c => preg c.core 3) = some true := ⟨(issues_ok (by decide +kernel)).toIssues, by decide +kernel⟩
theorem test_cmpi : let w := fW 9 (3 * 2 ^ 19 + 3 * 2 ^ 11 + 0x7F9)
    Issues 0x09 0 (fun w => decide (fw w 18 16 < 6)) (fun w => [fw w 15 11]) (cored w) (ctx w) ∧
    (after (.cmpi 0) w).map (fun c => preg c.core 3) = some true := ⟨(issues_ok (by decide +kernel)).toIssues, by decide +kernel⟩
def predRegs : Word32 → List Nat := fun w => if fnOf w == 4 then [rdOf w] else if fnOf w == 5 then [raOf w] else []
theorem test_pred_logic : let w := fR 0x0A 3 0 1 1
    Issues 0x0A 0 predLegal predRegs (cored w) (ctx w) ∧ fnOf w < 4 ∧ (after (.pred 0) w).map (fun c => preg c.core 3) = some true :=
  ⟨(issues_ok (by decide +kernel)).toIssues, by decide, by decide +kernel⟩
theorem test_pred_get_set : let w := fR 0x0A 10 0 0 4; let v := fR 0x0A 0 3 0 5
    (Issues 0x0A 0 predLegal predRegs (cored w) (ctx w) ∧ fnOf w = 4 ∧ rdAfter (.pred 0) w 10 = some 1) ∧
    (Issues 0x0A 0 predLegal predRegs (cored v) (ctx v) ∧ fnOf v = 5 ∧ (after (.pred 0) v).map (·.core.p) = some 0xF8) :=
  ⟨⟨(issues_ok (by decide +kernel)).toIssues, by decide, by decide +kernel⟩,
   (issues_ok (by decide +kernel)).toIssues, by decide, by decide +kernel⟩

/-! GuardsAndIllegalEncodings. -/

theorem test_guard : let w := fW 1 (2 ^ 22)
    coreInstr (.addi 0) = some (0x01, 0, always, regsI) ∧ running 0 (cored w) = some (ctx w) ∧ fetched (ctx w) = true ∧ opOf w = 1 ∧
    (ctx w).cl.engQ = [] ∧ always w = true ∧ guardOf (ctx w) = false :=
  ⟨rfl, runs _, by decide, by decide, rfl, rfl, by decide⟩
theorem test_illegal : let w := fI 5 1 1 0xC0
    running 0 (cored w) = some (ctx w) ∧ shiLegal w = false ∧ (after (.shi 0) w).map (·.faultCode) = some 1 :=
  ⟨runs _, by decide, by decide +kernel⟩
theorem test_no_core : running 0 up = none ∧ running 0 (cored (fI 1 1 1 0)) = some (ctx (fI 1 1 1 0)) ∧ opOf (fI 1 1 1 0) ≠ 2 :=
  ⟨rfl, runs _, by decide⟩
theorem test_unsettled : let w := fI 1 1 1 0
    let x : CoreCtx := { ctx w with cl := { cluster0 w with core := { (cluster0 w).core with pendRd := [1] } } }
    running 0 { cored w with clusters := [(0, x.cl)] } = some x ∧ (regsI w).any (fun r => x.cl.core.pendRd.contains r) = true :=
  ⟨rfl, by decide⟩
/-! LoadsReadTheWorkingArea and StoresWriteTheWorkingArea: an address inside, a misaligned one, the instruction memory, and W. -/

theorem test_loads : ∀ q ∈ ([(0x0B, 8, .ldd 0), (0x0C, 4, .ldw 0), (0x0D, 4, .ldwu 0), (0x0E, 2, .ldh 0), (0x0F, 2, .ldhu 0),
    (0x10, 1, .ldb 0), (0x11, 1, .ldbu 0)] : List (Nat × Nat × (Bool → Instr))),
    let w := fI q.1 10 1 0
    Issues q.1 0 always regsI (cored w) (ctx w) ∧ (sreg (ctx w).cl.core (raOf w) + sext 12 (fw w 11 0)).toNat = 16 ∧ 16 % q.2.1 = 0 ∧
    16 + q.2.1 ≤ (ctx w).cl.wlimit ∧ storesDone (ctx w) = true ∧ (∀ k, k < q.2.1 → landing (ctx w).cl (16 + k) = false) ∧
    rdAfter (q.2.2 false) w 10 = some 0 := by
  intro q hq
  rcases (by simpa using hq) with h | h | h | h | h | h | h <;> subst h <;> exact ⟨(issues_ok (by decide +kernel)).toIssues, by decide, by decide, by decide, rfl, fun _ _ => rfl, by decide +kernel⟩
theorem test_load_top : let w := fI 0x0B 10 6 0xFF8
    Issues 0x0B 0 always regsI (cored w) (ctx w) ∧ (sreg (ctx w).cl.core (raOf w) + sext 12 (fw w 11 0)).toNat + 8 = (ctx w).cl.wlimit :=
  ⟨(issues_ok (by decide +kernel)).toIssues, by decide⟩
theorem test_load_imem : let w := fI 0x0C 10 4 4
    Issues 0x0C 0 always regsI (cored w) (ctx w) ∧ (sreg (ctx w).cl.core (raOf w) + sext 12 (fw w 11 0)).toNat = 0x1000004 ∧
    rdAfter (.ldw 0 false) w 10 = some 0xFFFFFFFF89ABCDEF := ⟨(issues_ok (by decide +kernel)).toIssues, by decide, by decide +kernel⟩
theorem test_load_faults : let a := fI 0x0B 10 5 0; let b := fI 0x0B 10 6 0; let e := fI 0x0B 10 1 0
    ((ctx a).cl.engQ = [] ∧ (sreg (ctx a).cl.core (raOf a)).toNat % 8 ≠ 0 ∧ (after (.ldd 0 false) a).map (·.faultCode) = some 3) ∧
    ((ctx b).cl.wlimit < (sreg (ctx b).cl.core (raOf b)).toNat + 8 ∧ (after (.ldd 0 false) b).map (·.faultCode) = some 5) ∧
    (after (.ldd 0 true) e).map (·.faultCode) = some 10 :=
  ⟨⟨rfl, by decide, by decide +kernel⟩, ⟨by decide, by decide +kernel⟩, by decide +kernel⟩
theorem test_stores : ∀ q ∈ ([(0x12, 8, .std 0), (0x13, 4, .stw 0), (0x14, 2, .sth 0), (0x15, 1, .stb 0)] : List (Nat × Nat × Instr)),
    let w := fI q.1 3 1 0
    Issues q.1 0 always regsI (cored w) (ctx w) ∧ rising (ctx w).cl.work = true ∧ 16 + q.2.1 ≤ (ctx w).cl.wlimit ∧
    storesDone (ctx w) = true ∧ (after q.2.2 w).map (fun c => (areaByte c 16, areaByte c (15 + q.2.1), areaByte c (16 + q.2.1)))
      = some (0xF9, if q.2.1 = 1 then 0xF9 else 0xFF, 0) := by
  intro q hq
  rcases (by simpa using hq) with h | h | h | h <;> subst h <;>
    exact ⟨(issues_ok (by decide +kernel)).toIssues, rfl, by decide, rfl, by decide +kernel⟩
theorem test_store_faults : let a := fI 0x14 3 5 0; let b := fI 0x15 3 6 0
    (Issues 0x14 0 always regsI (cored a) (ctx a) ∧ (after (.sth 0) a).map (·.faultCode) = some 3) ∧
    (Issues 0x15 0 always regsI (cored b) (ctx b) ∧ (after (.stb 0) b).map (·.faultCode) = some 5) :=
  ⟨⟨(issues_ok (by decide +kernel)).toIssues, by decide +kernel⟩, (issues_ok (by decide +kernel)).toIssues, by decide +kernel⟩
theorem test_core_only : coreOnly (.br 0) = some 0 ∧ (after (.br 0) (fW 0x18 0x3FFFFF)).map (·.core.pc) = some 0xFFFC := by
  decide +kernel

/-! BranchesFencesAndTraps and CsrsAreReadAndWritten. -/

theorem test_branches : let b := fW 0x18 3; let k := fW 0x19 3; let j := fR 0x1A 10 1 0 0; let m := fR 0x1A 10 5 0 0
    (Issues 0x18 0 always (fun _ => []) (cored b) (ctx b) ∧ (after (.br 0) b).map (·.core.pc) = some 12) ∧
    (Issues 0x19 0 always (fun _ => [31]) (cored k) (ctx k) ∧ rdAfter (.call 0) k 31 = some 4) ∧
    (Issues 0x1A 0 (fun w => fnOf w == 0 && rbOf w == 0) regsI (cored j) (ctx j) ∧ (after (.jr 0) j).map (·.core.pc) = some 16) ∧
    (Issues 0x1A 0 (fun w => fnOf w == 0 && rbOf w == 0) regsI (cored m) (ctx m) ∧ (after (.jr 0) m).map (·.faultCode) = some 3) :=
  ⟨⟨(issues_ok (by decide +kernel)).toIssues, by decide +kernel⟩, ⟨(issues_ok (by decide +kernel)).toIssues, by decide +kernel⟩,
   ⟨(issues_ok (by decide +kernel)).toIssues, by decide +kernel⟩, (issues_ok (by decide +kernel)).toIssues, by decide +kernel⟩
theorem test_ends : let f := fW 0x28 0; let h := fW 0x29 0xFFF; let t := fW 0x2A 7; let u := fW 0x2B 0
    (Issues 0x28 0 (fun w => fw w 21 0 == 0) (fun _ => []) (cored f) (ctx f) ∧ fenceClear (ctx f) (cored f) = true) ∧
    (Issues 0x29 0 (fun w => fw w 21 12 == 0) (fun _ => []) (cored h) (ctx h) ∧ fenceClear (ctx h) (cored h) = true ∧
      (after (.halt 0) h).map (fun c => (c.st, c.faultInfo)) = some (4, 0xFFF)) ∧
    (Issues 0x2A 0 (fun w => fw w 21 12 == 0) (fun _ => []) (cored t) (ctx t) ∧
      (after (.trap 0) t).map (fun c => (c.faultCode, c.faultInfo)) = some (4, 7)) ∧
    (undefinedOp (opOf u) = true ∧ (after (.illegalInstruction 0) u).map (·.faultCode) = some 1) :=
  ⟨⟨(issues_ok (by decide +kernel)).toIssues, by decide⟩,
   ⟨(issues_ok (by decide +kernel)).toIssues, by decide, by decide +kernel⟩,
   ⟨(issues_ok (by decide +kernel)).toIssues, by decide +kernel⟩, by decide, by decide +kernel⟩
theorem test_fetch_fault : let x : CoreCtx := { ctx 0 with cl := { cluster0 0 with imageLen := 0 } }
    running 0 { cored 0 with clusters := [(0, x.cl)] } = some x ∧ fetched x = false := ⟨rfl, by decide⟩
def csrrOk : Word32 → Bool := fun w => raOf w == 0 && csrReadable (fw w 11 0)
def csrwOk : Word32 → Bool := fun w => rdOf w == 0 && csrWritable (fw w 11 0)
theorem test_csrr : let a := fI 0x1C 10 0 0; let b := fI 0x1C 10 0 0x223
    (Issues 0x1C 0 csrrOk (fun w => [rdOf w]) (cored a) (ctx a)) ∧
    (Issues 0x1C 0 csrrOk (fun w => [rdOf w]) (cored b) (ctx b) ∧ engineCsr (fw b 11 0) = true ∧ (ctx b).cl.engQ = []) :=
  ⟨(issues_ok (by decide +kernel)).toIssues, (issues_ok (by decide +kernel)).toIssues, by decide, rfl⟩
theorem test_csrw : ∀ q ∈ ([(7, 0x20), (7, 0x23), (7, 0x30), (7, 0x3F), (3, 0x100), (3, 0x10F)] : List (Nat × Nat)),
    let w := fI 0x1D 0 q.1 q.2
    Issues 0x1D 0 csrwOk (fun w => [raOf w]) (cored w) (ctx w) ∧ (after (.csrw 0) w).map (·.core.pc) = some 4 := by
  intro q hq
  rcases (by simpa using hq) with h | h | h | h | h | h <;> subst h <;> exact ⟨(issues_ok (by decide +kernel)).toIssues, by decide +kernel⟩
/-- CNT_SRC_c: 5 and 64 name clusters outside the run of clusters 0 and 1; 0xF9 is reserved; 0x200 is an engine CSR. -/
theorem test_csrw_faults : let a := fI 0x1D 0 2 0x30; let b := fI 0x1D 0 3 0x30; let e := fI 0x1D 0 7 0x201
    (Issues 0x1D 0 csrwOk (fun w => [raOf w]) (cored a) (ctx a) ∧ inRun (ctx a).run 5 = false ∧
      (after (.csrw 0) a).map (·.faultCode) = some 6) ∧
    (Issues 0x1D 0 csrwOk (fun w => [raOf w]) (cored b) (ctx b) ∧ (after (.csrw 0) b).map (·.faultCode) = some 1) ∧
    (Issues 0x1D 0 csrwOk (fun w => [raOf w]) (cored e) (ctx e) ∧ (engCsrWrite (ctx e).cl.eng 0x201 1).isSome = true) :=
  ⟨⟨(issues_ok (by decide +kernel)).toIssues, by decide, by decide +kernel⟩,
   ⟨(issues_ok (by decide +kernel)).toIssues, by decide +kernel⟩, (issues_ok (by decide +kernel)).toIssues, by decide +kernel⟩
/-! MailboxesDeliver, TransfersAreIssuedAndLand, CountersSignalAndWait, FaultsArePrecise. -/

/-- `cored` with the given items on the mesh and transfers of core 0. -/
def meshed (w : Word32) (items : List MeshItem) (xs : List Transfer) : State :=
  let x : Cluster := { cluster0 w with xfers := xs, issued := 1 }
  { cored w with clusters := [(0, x), (1, { Cluster.fresh with logical := 1, st := 2, company := 1, run := some 0 })]
                 work := { Work.reset with runs := [run0], mesh := items } }
theorem test_send : let w := fR 0x20 10 0 0 0
    let s : State := { cored w with clusters := [(0, { cluster0 w with core := { Core.fresh with s := List.replicate 32 0x80001 } })] }
    (running 0 s).isSome = true ∧ fld (0x80001 : Word64) 24 16 = 8 ∧ inRun run0 (fld (0x80001 : Word64) 7 0) = true := by decide +kernel
theorem test_send_issues : let w := fR 0x20 10 0 0 0
    Issues 0x20 0 always regsR (cored w) (ctx w) := (issues_ok (by decide +kernel)).toIssues
theorem test_mailbox_arrival : let s := meshed 0 [.mail 1 0 3 [1, 2, 3, 4, 5, 6, 7, 8] 10] []
    (clusterIn 0 s).isSome = true ∧
    takeItem (fun i => match i with | .mail a b k _ _ => a == 1 && b == 0 && k == 3 | _ => false) s.work.mesh
      = some (.mail 1 0 3 [1, 2, 3, 4, 5, 6, 7, 8] 10, []) := by decide +kernel
theorem test_send_ack : let s := meshed 0 [.ack 0 1 3 10 2] []
    (clusterIn 0 s).isSome = true ∧
    takeItem (fun i => match i with | .ack a _ _ _ _ => a == 0 | _ => false) s.work.mesh = some (.ack 0 1 3 10 2, []) := by
  decide +kernel
theorem test_recv : let w := fR 0x21 10 0 1 0; let e := fR 0x21 10 0 1 3
    (Issues 0x21 0 (fun w => raOf w == 0) (fun w => [rdOf w, rbOf w]) (cored w) (ctx w) ∧
      ((ctx w).cl.core.mbx.getD 0 []).length = 1 ∧ rdAfter (.recv 0) w 10 = some 0x10008 ∧
      (after (.recv 0) w).map (fun c => areaByte c 23) = some 8) ∧
    (Issues 0x21 0 (fun w => raOf w == 0) (fun w => [rdOf w, rbOf w]) (cored e) (ctx e) ∧ (ctx e).cl.core.mbx.getD 3 [] = [] ∧
      rdAfter (.recv 0) e 10 = some 0) :=
  ⟨⟨(issues_ok (by decide +kernel)).toIssues, rfl, by decide +kernel, by decide +kernel⟩,
   (issues_ok (by decide +kernel)).toIssues, rfl, by decide +kernel⟩
/-- PUT and GET of 64 bytes at 16 (s1) to offset 0 of cluster 0 (s0 as far address), MOVE of 64 bytes to and from buffer 0. -/
theorem test_transfers_issue : ∀ q ∈ ([(0x22, 0, .put 0), (0x23, 0, .get 0), (0x26, 16, .move 0), (0x26, 0, .move 0)] :
    List (Nat × Nat × Instr)), let w := fR q.1 9 0 1 q.2.1
    Issues q.1 0 always regsR (cored w) (ctx w) ∧ xferAlign 0 16 64 = true ∧ inRun (ctx w).run 0 = true ∧
    (ctx w).run.bufs[0]?.map (fun g => (decide (64 ≤ bufLength g (cored w)), g.write, g.read)) = some (true, true, true) ∧
    (after q.2.2 w).map (fun c => c.xfers.length) = some 1 := by
  intro q hq
  rcases (by simpa using hq) with h | h | h | h <;> subst h <;>
    exact ⟨(issues_ok (by decide +kernel)).toIssues, by decide, by decide, by decide +kernel, by decide +kernel⟩
theorem test_page_issues : let w := fR 0x27 0 8 9 0
    Issues 0x27 0 always regsR (cored w) (ctx w) ∧ (after (.page 0) w).map (fun c => (c.xfers.map (·.kind), c.core.pc)) = some ([.page], 4) :=
  ⟨(issues_ok (by decide +kernel)).toIssues, by decide +kernel⟩
def transfer0 (k : XferKind) (peer : Nat) : Transfer :=
  { id := 0, kind := k, here := 64, len := 64, peer := peer, offset := 0, counter := 3, atTarget := true, data := List.replicate 64 9
    touched := [], scene := 0x100, layer := 0, pc := 0, failed := none }
theorem test_transfers_land : ∀ q ∈ ([(.put, 1), (.get, 1), (.moveOut, 0), (.moveIn, 0), (.moveIn, 1), (.page, 2)] :
    List (XferKind × Nat)), let s := meshed 0 [] [transfer0 q.1 q.2]
    (clusterIn 0 s).map (fun x => x.cl.xfers.find? (·.id == 0)) = some (some (transfer0 q.1 q.2)) ∧ (transfer0 q.1 q.2).failed = none ∧
    (clusterIn 1 s).isSome = true ∧ scratchPoisoned 4 0 64 s = false ∧ pageReady s 1 (.scene 0x100 0) = true ∧
    ((match exec (.transferComplete 0 0 (List.replicate 64 7) false) s with
      | .next t => (cluster t 0).xfers.length
      | _ => 9) = 0) := by decide +kernel
theorem test_sig : let w := fR 0x24 0 7 2 15
    Issues 0x24 0 (fun w => rdOf w == 0) (fun w => [raOf w, rbOf w]) (cored w) (ctx w) ∧ inRun (ctx w).run 1 = true ∧
    (after (.sig 0) w).map (·.core.pc) = some 4 := ⟨(issues_ok (by decide +kernel)).toIssues, by decide, by decide +kernel⟩
theorem test_signal_arrival : let s := meshed 0 [.signal 1 0 15 5 0] []
    takeItem (fun i => match i with | .signal a b _ _ _ => a == 1 && b == 0 | _ => false) s.work.mesh = some (.signal 1 0 15 5 0, []) ∧
    (clusterIn 0 s).map (fun x => putsLanded s 1 x 0) = some true ∧
    ((match exec (.signalArrival 1 0) s with | .next t => (cluster t 0).core.cnt.getD 15 0 | _ => 0) = 5) := by decide +kernel
theorem test_waitc : let w := fR 0x25 10 0 2 3; let v := fR 0x25 10 2 0 3
    (Issues 0x25 0 always regsR (cored w) (ctx w) ∧ (after (.waitc 0) w).map (fun c => (c.st, c.core.pc)) = some (2, 4)) ∧
    (Issues 0x25 0 always regsR (cored v) (ctx v) ∧ (after (.waitc 0) v).map (fun c => (c.st, c.core.pc)) = some (3, 0)) :=
  ⟨⟨(issues_ok (by decide +kernel)).toIssues, by decide +kernel⟩, (issues_ok (by decide +kernel)).toIssues, by decide +kernel⟩
def waiting0 : Cluster :=
  { cluster0 0 with st := 3, waitCnt := 3, core := { (cluster0 0).core with waitFor := 5, waitRd := 10, waitUntil := some 1000000 } }
theorem test_waitc_ends : let s : State := { cored 0 with clusters := [(0, waiting0)] }
    (clusterIn 0 s).isSome = true ∧ waiting0.core.waitUntil = some (now s) ∧
    ((match exec (.waitcTimeout 0) s with | .next t => sreg (cluster t 0).core 10 | _ => 0) = 1) ∧
    (cluster (bump 0 3 5 s) 0).st = 2 ∧ (cluster (bump 0 3 4 s) 0).st = 3 := by decide +kernel
theorem test_fault_is_precise : (clusterIn 0 (cored 0)).map (fun x => (cluster (coreFault x 3 0 0 (cored 0)) 1).st) = some 4 := by
  decide +kernel
/-! Engine instructions: each encoding issues; the hypotheses of each clause hold of it. -/

def none' : Word32 → List Nat := fun _ => []
theorem test_engine_issue :
    EngIssues 0x30 0 (fun w => decide (fw w 11 9 < 5) && fw w 8 0 == 0) (fun w => [rdOf w, raOf w])
      (cored (fR 0x30 10 2 16 0)) (ctx (fR 0x30 10 2 16 0)) ∧
    EngIssues 0x31 0 (fun w => decide (fw w 3 0 < 14)) noRegs (cored (fR 0x31 1 2 3 0)) (ctx (fR 0x31 1 2 3 0)) ∧
    EngIssues 0x31 0 (fun w => decide (fw w 3 0 < 14)) noRegs (cored (fR 0x31 1 2 3 13)) (ctx (fR 0x31 1 2 3 13)) ∧
    EngIssues 0x32 0 (fun w => decide (fw w 3 0 < 14)) (fun w => [rbOf w]) (cored (fR 0x32 1 2 3 0)) (ctx (fR 0x32 1 2 3 0)) ∧
    EngIssues 0x33 0 vunLegal noRegs (cored (fR 0x33 1 2 0 0)) (ctx (fR 0x33 1 2 0 0)) ∧
    EngIssues 0x34 0 (fun w => decide (fw w 18 16 < 6) && fw w 1 0 == 0) (fun w => if bit w 5 then [fw w 10 6] else [])
      (cored (fW 0x34 (2 ^ 19 + 2 * 2 ^ 11 + 3 * 2 ^ 6))) (ctx (fW 0x34 (2 ^ 19 + 2 * 2 ^ 11 + 3 * 2 ^ 6))) ∧
    EngIssues 0x38 0 (fun w => decide (fw w 3 0 < 7) && rbOf w == 0) noRegs (cored (fR 0x38 1 2 0 6)) (ctx (fR 0x38 1 2 0 6)) ∧
    EngIssues 0x3E 0 (fun w => !bit w 0) noRegs (cored (fR 0x3E 1 2 0 6)) (ctx (fR 0x3E 1 2 0 6)) ∧
    EngIssues 0x3F 0 (fun w => fw w 1 0 == 0) noRegs (cored (fR 0x3F 1 2 3 12)) (ctx (fR 0x3F 1 2 3 12)) :=
  ⟨issues_ok (by decide +kernel), issues_ok (by decide +kernel), issues_ok (by decide +kernel), issues_ok (by decide +kernel),
   issues_ok (by decide +kernel), issues_ok (by decide +kernel), issues_ok (by decide +kernel), issues_ok (by decide +kernel),
   issues_ok (by decide +kernel)⟩
theorem test_engine_legal : let e := Engine.fresh
    vopIllegal e 0 = false ∧ (isFp e = true ∨ 0 < 3) ∧ chainCount e 3 ≤ 8 ∧ (chainStages e 3).all stageLegal = true ∧
    laneCount e 3 ≤ 32 ∧ (laneProgram e 3).all laneLegal = true ∧ shadow (cluster0 0) = e := by decide +kernel
theorem test_vmisc : ∀ fn ∈ [0, 3, 4, 5, 6, 7, 8], let w := fR 0x35 1 1 (if fn = 0 ∨ fn = 3 ∨ fn = 6 ∨ fn = 7 then 1 else 0) fn
    EngIssues 0x35 0 vmiscLegal vmiscRegs (cored w) (ctx w) ∧ (sreg (ctx w).cl.core 1).toNat < vlmax 0 := by
  intro q hq
  rcases (by simpa using hq) with h | h | h | h | h | h | h <;> subst h <;> exact ⟨issues_ok (by decide +kernel), by decide⟩
theorem test_engine_memory : let a := fR 0x36 1 1 0 0; let b := fR 0x37 1 1 0 0
    (EngIssues 0x36 0 vmemLegal vmemRegs (cored a) (ctx a) ∧
      placesFault { core := ctx a, e := shadow (ctx a).cl, k := 0 } 0 [vmemPlace { core := ctx a, e := shadow (ctx a).cl, k := 0 } 0] = none) ∧
    EngIssues 0x37 0 vmemLegal vmemRegs (cored b) (ctx b) :=
  ⟨⟨issues_ok (by decide +kernel), by decide +kernel⟩, issues_ok (by decide +kernel)⟩
def tlsOk : Word32 → Bool := fun w => decide (fw w 3 0 < 9) && fw w 6 4 == 0
def tlsRegs : Word32 → List Nat := fun w => [fw w 17 13, fw w 12 8]
theorem test_tls : ∀ st ∈ [0, 1], let w := fW 0x39 (2 ^ 18 + 9 * 2 ^ 13 + st * 2 ^ 7)
    EngIssues 0x39 0 tlsOk tlsRegs (cored w) (ctx w) ∧ bit w 7 = (st == 1) ∧
    placesFault { core := ctx w, e := shadow (ctx w).cl, k := 0 } 0 ((upto 1024).map fun i =>
      elemPlace 0 (sreg (ctx w).cl.core (fw w 17 13) + w64 (i / 32) * w64 (32 * typeBits 0 / 8)) (w64 (elemSize 0)) (i % 32)) = none := by
  intro q hq
  rcases (by simpa using hq) with h | h <;> subst h <;> exact ⟨issues_ok (by decide +kernel), by decide, by decide +kernel⟩
theorem test_tiles : let a := fW 0x3A (2 ^ 18); let b := fW 0x3B (2 ^ 18); let d := fW 0x3C (2 ^ 18)
    EngIssues 0x3A 0 (fun w => fw w 6 5 != 3 && fw w 4 0 == 0) noRegs (cored a) (ctx a) ∧
    EngIssues 0x3B 0 (fun w => fw w 11 10 != 3 && fw w 9 0 == 0) noRegs (cored b) (ctx b) ∧
    EngIssues 0x3C 0 (fun w => fw w 8 7 != 3 && fw w 6 3 == 0 && decide (fw w 2 0 < 5))
      (fun w => if fw w 8 7 == 2 then [fw w 13 9] else []) (cored d) (ctx d) :=
  ⟨issues_ok (by decide +kernel), issues_ok (by decide +kernel), issues_ok (by decide +kernel)⟩
theorem test_tmov : ∀ kind ∈ [0, 1, 2, 3], let w := fW 0x3D (kind * 2 ^ 11 + 31 * 2 ^ 6 * (if kind < 2 then 1 else 0))
    EngIssues 0x3D 0 tmovLegal noRegs (cored w) (ctx w) ∧ fw w 12 11 = kind ∧ (shadow (ctx w).cl).vl % 32 = 0 ∧
    (kind < 2 → fw w 10 6 + (shadow (ctx w).cl).vl / 32 ≤ 32) := by
  intro q hq
  rcases (by simpa using hq) with h | h | h | h <;> subst h <;> exact ⟨issues_ok (by decide +kernel), by decide, rfl, by decide⟩
/-- VSETVL of 5 lanes, then ADD of two 32-bit lanes: queued, and visible once committed. -/
theorem test_vsetvl : (after (.vsetvl 0) (fR 0x30 10 2 0 0)).map (fun c => (c.engQ.map (·.rd), c.eng.vl)) = some ([some (10, 5)], 0) := by
  decide +kernel
def entry0 : EngEntry := { entryOf { Engine.fresh with vl := 5 } 0 with rd := some (10, 5), writes := [(16, 3)] }
def queued0 (n : EngEntry) : State := { cored 0 with clusters := [(0, { cluster0 0 with engQ := [n] })] }
theorem test_engine_commit : (clusterIn 0 (queued0 entry0)).map (fun x => x.cl.engQ) = some [entry0] ∧
    ((match exec (.engineCommit 0) (queued0 entry0) with
      | .next t => some ((cluster t 0).eng.vl, sreg (cluster t 0).core 10, areaByte (cluster t 0) 16)
      | _ => none) = some (5, 5, 3)) ∧
    ((match exec (.engineCommit 0) (queued0 { entry0 with fault := some 3 }) with
      | .next t => some ((cluster t 0).st, (cluster t 0).eng.vl)
      | _ => none) = some (5, 0)) := by decide +kernel
theorem test_elements : elemAt 32 (mapElems 32 (· == 1) (0 : BitVec 128) fun i => (i + 6, 0)).1 1 = 7 ∧ 1 < 128 / 32 := by decide +kernel

/-! RunsStartAndEnd and MidnightAndClusterWindow. -/

def runT' : Taken := { runT with running := true }
def queuedRun : State :=
  { stocked with taken := [runT'], work := { Work.reset with runs := [{ run0 with started := none }] }
                 clusters := [(0, { Cluster.fresh with logical := 0 }), (1, { Cluster.fresh with logical := 1 })] }
theorem test_run_start : findRunning 0x61 R1 queuedRun = some runT' ∧ (runOf queuedRun 0).isSome = true ∧
    canStart queuedRun { run0 with started := none } = true ∧ (runClusters run0).Nodup ∧ physOf queuedRun 1 = some 1 ∧
    ordered (queuedRun.clusters.map (·.1)) = true ∧ (memories queuedRun).all Memory.wf = true ∧
    (queuedRun.clusters.all fun p => rising p.2.work) = true ∧ pcAligned queuedRun = true := by decide +kernel
theorem test_run_ends : let s : State := { cored 0 with taken := [runT'] }
    let o : State := { s with clusters := [(0, { cluster0 0 with st := 4 }), (1, { Cluster.fresh with logical := 1, st := 4, run := some 0 })] }
    findRunning 0x61 R1 s = some runT' ∧ run0.started = some 0 ∧ 0 + run0.limit ≤ now s ∧ runOver o run0 = true := by decide +kernel
theorem test_cluster_scrub : let s : State := { queuedRun with clusters :=
      [(0, { Cluster.fresh with logical := 0, company := 2, dirty := true, work := [(5, 5)] }), (1, { Cluster.fresh with logical := 1 })] }
    clusterFree s 0 = true ∧ cleanFor s 0 1 = false ∧ awaits s 0 1 = true ∧ physOf s 0 = some 0 := by decide +kernel
theorem test_cluster_window : windowWriter (cored 0) 6 0 = true ∧ (cluster (cored 0) 0).core.mbx.length = 4 ∧
    ((match exec (.mailboxFlush 6 0 1) (cored 0) with | .next t => (cluster t 0).core.mbx | _ => []) = [[], [], [], []]) := by
  decide +kernel
theorem test_midnight : (match exec .midnightScan { cored 0 with clusters :=
      [(0, { waiting0 with core := { waiting0.core with cntSrc := List.replicate 16 1, waitUntil := none } }),
       (1, { Cluster.fresh with logical := 1, st := 4, company := 1, run := some 0 })] } with
    | .next t => some ((cluster t 0).st, sreg (cluster t 0).core 10)
    | _ => none) = some (2, 3) := by decide +kernel
/-! The block, its queues and its registers: StepRunsFrontCommand to OwnerRegistersAct. -/

theorem test_idle : State.reset.pending = [] ∧ State.reset.pwr.on.getLsbD 0 = false ∧ up.pending = [] ∧
    up.pwr.on.getLsbD 0 = true := by decide
theorem test_front_command : step { up with pending := [.hbmRefresh 7 31, .suspendExpiry 0] }
    = .next { up with pending := [.suspendExpiry 0] } := by
  rw [Sys2Proof.Machine.step]; rfl
theorem test_goes_on : (Instr.nop R1).wf = true ∧ ∃ t, exec (.nop R1) up = .next t := ⟨by decide, _, rfl⟩
theorem test_shaped : Shaped stocked := ⟨by decide +kernel, by decide +kernel, by decide +kernel, by decide +kernel⟩

/-- A check that fails on a packet: NOP with a reserved word set. -/
theorem test_failed_check : let t := ours 0x01 [1] []
    let s := flying t up
    findRun 0x01 R1 s = some t ∧ (firstOf (nopChecks t s)).isSome = true := by decide +kernel
/-- A reference to nothing in flight. -/
theorem test_no_command : findRun 0x01 R1 up = none := by decide +kernel

/-- The ring takes the entry; it is full; an earlier entry has spilled; the last entry of the ring flips the phase. -/
theorem test_post : let t := ours 0x01 [] []
    let q : Queue := { Queue.fresh with agent := 6, company := 1, enabled := true }
    up.taken.any (fun u => u.seq == t.seq) = false ∧ queue up 1 = some q ∧ ringFull q = false ∧ q.spill = [] ∧
    ringFull { q with cqTail := 63 } = true ∧ ringFull { q with cqTail := 63, cqHead := 1 } = false ∧
    (63 + 1) % { q with cqTail := 63, cqHead := 1 }.cqSize = 0 ∧ { q with spill := [okay] }.spill ≠ [] ∧
    (finish t okay (flying t up)).out.length = 1 := by decide +kernel

theorem test_doorbell : let x : Queue := { Queue.fresh with agent := 6, company := 1, enabled := true }
    ioServed up 6 = true ∧ queue up 1 = some x ∧ x.agent = 6 ∧ 63 < x.sqSize ∧ x.sqSize ≤ 64 ∧ x.cqSize ≤ 64 := by decide +kernel
theorem test_fenced_dispatch : let t := { ours 0x01 [] [] with dispatched := false }
    (flying t up).taken.find? (fun t => t.queue == R1.queue && t.tag == R1.tag && !t.dispatched) = some t ∧
    ∀ u ∈ (flying t up).taken, u.queue = t.queue → t.seq ≤ u.seq := by decide +kernel
def waiting : State :=
  let t := { ours 0x53 [2, 1, 500000] [] with running := true }
  let w : QWait := { tag := 5, target := 2, count := 1, until_ := some 1000000, abort := false, since := 500000, posts := true }
  { flying t up with queues := [(0, { Queue.fresh with enabled := true }),
      (1, { Queue.fresh with agent := 6, company := 1, enabled := true, wait := some w }),
      (2, { Queue.fresh with agent := 6, company := 1, enabled := true, intCount := 1, intDue := true })] }
theorem test_queue_wait_timeout : (findRunning 0x53 R1 waiting).isSome = true ∧
    ((queue waiting 1).bind (·.wait)).bind (·.until_) = some (now waiting) := by decide +kernel
theorem test_completion_interrupt : ((queue waiting 2).map (interruptDue waiting)) = some true := by decide +kernel
def fetching : State :=
  flying { ours 0x60 [0x400000002, 0x1000] [] with fetched := false, want := [(0x1000, 4)], dispatched := false } up
theorem test_host_read : (reading R1 fetching).map (fun t => t.want.map (·.2)) = some (([[1, 2, 3, 4]] : List (List Byte)).map (·.length)) := by
  decide +kernel
theorem test_host_read_timeout : let s := { fetching with dev := { fetching.dev with time := 50000000 } }
    (reading R1 s).map (·.readAt) = some 0 ∧ 0 + 50000000 ≤ now s := by decide +kernel

/-- A delivery that waits for the read of the last address that it wrote (R325). -/
theorem test_closing : let t := { ours 0x38 [] [] with running := true, want := [(0x10000, 64)] }
    let s := flying t { up with work := { up.work with flushes := [(0, (okay, [6]))] }, dev := { up.dev with time := 50000000 } }
    reading R1 s = none ∧ closing R1 s = some (t, okay, [6]) ∧ [List.replicate 64 (1 : Byte)].map (·.length) = t.want.map (·.2) ∧
    t.readAt + 50000000 ≤ now s := by decide +kernel
/-- A packet whose second slot is not published yet, and the same when it is; and one that intake refuses. -/
theorem test_packet : let s := fun n => { up with queues := [(0, { Queue.fresh with enabled := true }),
      (1, { Queue.fresh with agent := 6, company := 1, enabled := true, sqTail := n })] }
    let w : List (BitVec 64) := 0x50540 :: List.replicate 15 0
    mayTake (s 1) 1 = true ∧ (queue (s 1) 1).map published = some 1 ∧ fld (w.headD 0) 9 8 + 1 = 2 ∧
    mayTake (s 2) 1 = true ∧ (queue (s 2) 1).map published = some 2 ∧ w.length = 8 * 2 ∧
    (queue (s 2) 1).map (fun q => (intakeCheck (s 2) q (takenOf (s 2) 1 w)).isSome) = some false ∧
    (queue (s 2) 1).map (fun q => (intakeCheck (s 2) q (takenOf (s 2) 1 (0x50550 :: w.tail))).isSome) = some true := by decide +kernel

theorem test_register_write : ioServed up 6 = true ∧ (agent up 6).company ≠ 0 ∧ ownerAgent up 0 = true := by decide +kernel
/-- An agent of company 1 does not reach EVT_MASK; the owner's does. -/
theorem test_event_mask : (writeReg 6 0x4008 4 0 up).evt.mask = 0x1FF ∧ (writeReg 0 0x4008 4 0x101 up).evt.mask = 0x101 := by
  decide +kernel
/-- EVT_CAUSE is cleared by writing one. -/
theorem test_event_cause : let s := { up with evt := { up.evt with cause := 0x1F } }
    (writeReg 0 0x4000 4 0x11 s).evt.cause = 0x0E := by decide +kernel
theorem test_lock_fields : up.lock.tenancyWritten = false ∧ up.lock.fwWritten = false ∧ up.lock.ideWritten = false ∧
    up.lock.sanitizeWritten = false ∧ ownerAgent up 0 = true ∧
    (let s := { up with lock := { up.lock with tenancyWritten := true } }
     s.lock.tenancyWritten = true ∧ bit (1 : BitVec 32) 0 ≠ s.lock.tenancy ∧ ownerAgent s 0 = true) := by decide +kernel
theorem test_admin_enable : bit up.flash.actrl 31 = false ∧ bit (0x80000000 : BitVec 32) 31 = true ∧
    (let s := { up with flash := { up.flash with actrl := 0x80000000 } }
     bit s.flash.actrl 31 = true ∧ bit (0 : BitVec 32) 31 = false ∧ ownerAgent s 0 = true) := by decide +kernel
theorem test_owner_registers : up.dev.flushed = false ∧ up.pwr.safeOff = false ∧ hasPrompter up = true ∧ pd6Due up = true ∧
    up.arb.ctrl.length = 6 ∧ (∀ j, j < 6 → classPresent up j = true) ∧ (agent up 1).company = 0 ∧
    (up.queues.any fun p => p.2.agent == 1 && (p.1 != 0 || p.2.enabled)) = false ∧
    (let s := { up with pwr := { up.pwr with pd6Gate := true } }
     s.pwr.pd6Gate = true ∧ bit s.pwr.on 6 = true ∧ prompterBusy s = false) := by decide +kernel
/-- R132: the six control registers keep their reserved bits at zero. -/
theorem test_arb_ctrl : arbCtrl (writeArbCtrl 1 .hi 0x12345678 up) 1 = 0x123456780700043D ∧
    arbCtrl (writeArbCtrl 1 .full 0xFFFFFFFFFFFFFFFF up) 1 = 0xFFFFFFFFFF01FFFD := by decide +kernel

/-! DecisionsFollowTheArbiter and ArbiterAndEventRowsComplete. -/

/-- Two requests of class D2: the one after the last winner in turn wins, the other has lost once. -/
def twoReqs : Arbiter :=
  { reqs := [{ requester := 1, cls := 2, raised := true, losses := 0, grants := 0, flagged := false, item := none },
             { requester := 7, cls := 2, raised := true, losses := 0, grants := 0, flagged := false, item := none },
             { requester := 9, cls := 5, raised := false, losses := 3, grants := 0, flagged := false, item := none }]
    last := 1, held := none }
theorem test_decision : (decision (arbCtrl up 0) twoReqs).last = 7 ∧
    ((decision (arbCtrl up 0) twoReqs).reqs.map (·.losses)) = [1, 0, 3] ∧
    (pickReq twoReqs.last (twoReqs.reqs.filter fun r => r.raised && !masked (arbCtrl up 0) twoReqs r)).map (·.requester) = some 7 := by
  decide +kernel
/-- R125, R126: the winner of a burst of two transfers holds the resource; its second transfer brings the decision that the other wins. -/
theorem test_burst : let a : Arbiter := { twoReqs with held := some (1, 2), reqs := twoReqs.reqs.drop 1 }
    (grantReq (arbCtrl up 0) a).held = some (1, 2) ∧ (transfers (arbCtrl up 0) 1 a).held = some (1, 1) ∧
    (transfers (arbCtrl up 0) 2 a).last = 7 ∧ (catchUp (arbCtrl up 0) { transfers := 0, dropped := true } a).last = 7 ∧
    pickReq 0 (([] : List ArbReq).filter fun r => r.raised) = none := by decide +kernel
/-- R147: a request whose command has ended cannot be raised or flagged. -/
theorem test_flag : mayFlag up (arbiter up 5 0) 65535 { cls := 5, cmd := none } = true ∧
    mayFlag up (arbiter up 5 0) 65535 { cls := 5, cmd := some R1 } = false ∧
    mayFlag (flying (ours 0x01 [] []) up) (arbiter up 5 0) 65535 { cls := 5, cmd := some R1 } = true := by decide +kernel
/-- Under QUOTA an input with its grants of the window is masked while another waits. -/
theorem test_quota : masked 0x0000000000000000 twoReqs { requester := 1, cls := 2, raised := true, losses := 0, grants := 1, flagged := false, item := none }
    = true := by decide
theorem test_arbiter_rows : starveFlags (arbCtrl up 3) = false ∧ starveFlags (arbCtrl up 5) = true ∧ arbOk 3 11 = true ∧
    arbOk 5 0 = true ∧ arbOk 2 1404 = true ∧ arbOk 2 1405 = false ∧ classPresent up 3 = true ∧ classPresent up 5 = true ∧ up.arb.src.length = 6 ∧
    ((arbiter up 5 0).reqs.any fun r => r.requester == 65535 && r.flagged) = false := by decide +kernel
theorem test_event_interrupt : let s := { up with evt := { up.evt with cause := 0x100, mask := 0, fresh := 0x100 } }
    eventDue s 8 = true ∧ reachable s (eventRoute s 8).1 = true := by decide +kernel
/-- Its agent cannot be reached: the port has no link. -/
theorem test_event_interrupt_dropped : let s := { up with evt := { up.evt with cause := 0x100, mask := 0, fresh := 0x100 }, ports := [] }
    eventDue s 8 = true ∧ reachable s (eventRoute s 8).1 = false := by decide +kernel

/-! DawnStarts, PowerRowsComplete, ReadingsAndPinsAct. -/

theorem test_power_on : bit State.reset.pwr.on 0 = false ∧ 11200 < (11201 : BitVec 16).toNat ∧
    (powerUp State.reset).dev.cold = true ∧ bit (powerUp State.reset).pwr.on 0 = true ∧ (startDawn (powerUp State.reset)).dev.dawnPhase = 1 ∧ (startDawn (powerUp State.reset)).pwr.on = 0x21 := by decide +kernel
/-- PD0 alone: a restart asked for, a supply that recovers, and the end of a thermal trip. -/
def asleep : State := { up with pwr := { up.pwr with on := 1, safeOff := true }, dev := { up.dev with restart := true, curUp := false } }
theorem test_dawn_due : dawnDue asleep = true := by decide +kernel
def flushedS : State := { up with pwr := { up.pwr with on := 1, supplyMv := 9000, lossAt := some 0 }
                                  dev := { up.dev with flushed := true, curUp := false, time := 40000000 } }
theorem test_supply_recovery : bit flushedS.pwr.on 0 = true ∧ flushedS.dev.flushed = true ∧ flushedS.dev.tripped = false ∧
    11200 < (11201 : BitVec 16).toNat ∧ (9000 : Nat) < 9600 ∧ flushedS.pwr.lossAt = some 0 ∧ 0 + 40000000 ≤ now flushedS := by
  decide +kernel
theorem test_short_holdup : let s := { flushedS with dev := { flushedS.dev with time := 1 } }
    s.pwr.lossAt = some 0 ∧ s.pwr.holdupUs.toNat < 40000 ∧ bit s.pwr.on 0 = true ∧ s.dev.flushed = true ∧ s.pwr.supplyMv.toNat < 9600 := by
  decide +kernel
theorem test_thermal_restart : let s := { flushedS with dev := { flushedS.dev with tripped := true }, pwr := { flushedS.pwr with supplyMv := 12000 } }
    bit s.pwr.on 0 = true ∧ s.dev.tripped = true ∧ 11200 < s.pwr.supplyMv.toNat := by decide +kernel

def phaseGood : PhaseOutcome :=
  { houseOk := true, holdupUs := 12000, deadStacks := [], beats := List.replicate 18 600, lanes := [], wingsRows := [], stageRows := []
    deadDies := [], railMv := 770, journalA := none, journalB := none, defective := []
    prompterFails := false, stagehandFails := false, fails := false }
def dawning (p : BitVec 4) : State := { up with dev := { up.dev with dawnPhase := p, curUp := false } }
theorem test_dawn_phase : ∀ p ∈ ([1, 2, 3, 4, 5, 6, 7] : List (BitVec 4)), inDawn (dawning p) = true ∧ phaseWaits (dawning p) = false ∧
    outcomeOk (dawning p) phaseGood = true ∧
    outcomeOk (dawning p) { phaseGood with fails := true } = true ∧ trimmed (dawning p) phaseGood = true ∧ (dawning p).dev.dawnPhase = p ∧
    { phaseGood with wingsRows := List.replicate 512 (7, 0) }.wingsRows.length ≤ (dawning p).health.wingsRsv.toNat ∧
    (Instr.dawnPhaseComplete phaseGood).wf = true ∧ trimmed (dawning 2) { phaseGood with beats := List.replicate 18 701 } = false := by decide +kernel
/-- The seventh phase raises the curtain. -/
theorem test_curtain_up : (match execDawnPhaseComplete phaseGood (dawning 7) with | .next u => u.dev.curUp | _ => false) = true := by
  decide +kernel
/-- The third failed attempt in a row turns to the other slot; the third there stops. -/
theorem test_phase_timeout : let s := fun (n : Nat) (b : Bool) => { dawning 2 with
      dev := { (dawning 2).dev with phaseStart := 0, attempts := n, otherSlot := b, time := 1000000000000 } }
    ∀ p ∈ [(0, false), (2, false), (2, true)], inDawn (s p.1 p.2) = true ∧ (s p.1 p.2).pwr.inDusk = false ∧
      (s p.1 p.2).dev.phaseStart.toNat + phaseMax (s p.1 p.2).dev.dawnPhase.toNat < now (s p.1 p.2) := by decide +kernel
theorem test_safe_off : let s := { up with dev := { up.dev with shutdownReq := true } }
    s.dev.shutdownReq = true ∧ s.pwr.safeOff = false ∧ s.dev.flushed = false ∧ shutdownWaits s = false ∧ shutdownDrained s = true ∧
    closeDue s = true ∧ shutdownWaits { s with pwr := { s.pwr with holdupUs := 7999 } } = true := by
  decide +kernel
theorem test_dusk : (bit up.pwr.on 0 = true ∧ up.pwr.inDusk = false ∧ up.dev.flushed = false ∧ (10799 : BitVec 16).toNat < 10800 ∧
    (9599 : BitVec 16).toNat < 9600) ∧ (let s := { up with pwr := { up.pwr with inDusk := true } }
    s.pwr.inDusk = true ∧ s.dev.flushed = false) := by decide +kernel
/-- Entering Dusk takes the rail to 720 mV and posts EV_POWER. -/
theorem test_dusk_enter : (match execDuskEnter 10799 up with | .next u => (u.pwr.railMv, u.evt.cause) | _ => (0, 0)) = (720, 2) := by
  decide +kernel
/-- R85: due 24 h after the last measurement in service, and 60 s after a low one from PHY's end on. -/
theorem test_holdup_due : measureDue { up with dev := { up.dev with time := 86400000000000 } } = true ∧
    measureDue { dawning 4 with dev := { (dawning 4).dev with time := 60000000000 }, pwr := { (dawning 4).pwr with holdupUs := 7999 } } = true ∧
    measureDue { up with dev := { up.dev with time := 60000000000 } } = false := by decide +kernel
/-- R52, R58: a supply of 9.6 V brings PD0 up, which waits; one below it does not. -/
theorem test_supply_applied : (match execPowerReading 0 9600 State.reset with | .next u => (u.pwr.on, u.dev.dawnPhase, u.dev.cold) | _ => (0, 9, false))
    = (1, 0, true) ∧ (match execPowerReading 0 9599 State.reset with | .next u => u.pwr.on | _ => 9) = 0 := by decide +kernel
theorem test_watchdog : up.dev.dawnPhase = 7 ∧ up.dev.flushed = false ∧ up.pwr.safeOff = false ∧ up.dev.curUp = true := by decide
theorem test_readings : up.dev.curUp = true ∧ up.pwr.inDusk = false ∧ bit up.pwr.on 1 = true ∧ 720 ≤ up.pwr.railMv.toNat ∧
    up.pwr.railMv.toNat ≤ 880 ∧ (List.replicate 18 (0 : BitVec 16)).length = 18 ∧ bit up.health.monitorBad 15 = false ∧
    bit up.health.monitorBad 17 = false ∧ hasPrompter up = true ∧ 1 ≤ { up.pwr with tripReads := 1 }.tripReads := by decide +kernel
/-- R152, R814, R120: the row's clusters are defective, and logical cluster 150 goes to the understudy of the next row. -/
theorem test_monitor :
    let l := [(164, { Cluster.fresh with mapState := 1 }), (165, { Cluster.fresh with mapState := 0, logical := 150 })]
      ++ (upto 10).map fun i => (166 + i, { Cluster.fresh with mapState := 2 })
    (match execMonitorFailure 15 { up with clusters := l } with
    | .next u => ((cluster u 165).mapState, (cluster u 164).mapState, (cluster u 164).logical, bit u.health.cause 6)
    | _ => (0, 0, 0, false)) = (2, 3, 150, true) := by decide +kernel
/-- R884: the second reading in a row at 115 °C trips. -/
theorem test_trip : let s := { up with pwr := { up.pwr with tripReads := 1 } }
    (match execTemperatureReading (List.replicate 18 115) s with | .next u => (u.dev.tripped, u.pwr.on) | _ => (false, 0)) = (true, 1) ∧
    (match execTemperatureReading (List.replicate 18 114) s with | .next u => (u.dev.tripped, u.pwr.tripReads) | _ => (true, 9)) = (false, 0) := by
  decide +kernel
/-- R887: an input power below 900 W ends the hold of the rail. -/
theorem test_power_reading : let s := { up with pwr := { up.pwr with railHeld := true } }
    (match execPowerReading 899 12000 s with | .next u => (u.pwr.railHeld, u.pwr.inputW) | _ => (true, 0)) = (false, 899) := by decide +kernel
theorem test_pins : holdoffOver up.pwr.quiesceAt up = true ∧ holdoffOver up.pwr.forceRoAt up = true ∧ up.pwr.forceRo ≠ true ∧
    holdoffOver (some 0) up = false ∧ up.dev.curUp = true := by decide +kernel

/-! PortRowsComplete. -/

theorem test_link_up : bit up.pwr.on 5 = true ∧ (port up 7).linkUp = false ∧ trainable 6 8 = true ∧ trainable 5 4 = true ∧
    (port up 6).linkUp = true ∧ trainable 4 8 = false := by decide +kernel
theorem test_config : 0 < ldCount (port up 6) ∧ fuseDone up = true ∧ 4092 < 4096 ∧ 4092 % 4 = 0 ∧
    fuseDone { up with dev := { up.dev with dawnPhase := 1 } } = false := by decide +kernel
theorem test_memory_info : let s := { up with ports := [(6, { Port.fresh with linkUp := true })], dev := { up.dev with time := 10000000 } }
    (port s 6).memInfo = false ∧ fuseDone s = true ∧ (port s 6).resetEnd + 10000000 ≤ now s := by decide +kernel
theorem test_ide_failure : let x : IdeStream := { IdeStream.off with activeRx := some 1, activeTx := some 1 }
    let s := { up with ports := [(6, { Port.fresh with linkUp := true, ideIo := x, ideMem := x })] }
    (port s 6).linkUp = true ∧ (ideStream (port s 6) true).activeRx.isSome = true ∧ (ideStream (port s 6) false).activeRx.isSome = true ∧
    portIde (port s 6) = 1 := by decide +kernel
theorem test_ptm : let s := { up with ports := [(6, { Port.fresh with linkUp := true, ptmEnable := true, ptmValid := true, ptmLast := some 0 })]
                                      dev := { up.dev with time := 100000000 } }
    (port s 6).linkUp = true ∧ (port s 6).ptmEnable = true ∧ (port s 6).ptmValid = true ∧
    (port s 6).ptmLast.getD 0 + 100000000 ≤ now s := by decide +kernel
theorem test_doe : doeServed up 6 0 = true := by decide +kernel

/-! AtomicsActOnOwnCounters. -/

theorem test_atomic_offsets : ioServed up 6 = true ∧ (agent up 6).company = 1 ∧
    (∀ w ∈ [8192, 16368, 16376], ownCounter 1 w = true) ∧ ownCounter 1 16384 = false ∧ ownCounter 1 8191 = false ∧
    16376 % 8 = 0 ∧ 16380 % 8 = 4 ∧ ownCounter 1 16380 = true ∧ 16368 % 16 = 0 ∧
    (∀ n ∈ [4, 8, 16], (rangeRefused up 1 2 1 4 6 16368 n).isSome = false) ∧ (rangeRefused up 1 2 1 4 6 16380 4).isSome = false := by
  decide +kernel
theorem test_atomic_refused : ∀ n ∈ [4, 8, 16], ((0x82001 % n ≠ 0 ∧ 0x82001 < 0x100000) ∧ 0x7FFF0 < 0x80000 ∧
    ownCounter (agent up 6).company (0xFFFF0 - 0x80000) = false) := by decide +kernel
/-- A FetchAdd of the upper half carries nothing into the lower, nor out. -/
theorem test_fetch_add_half : let s := { up with atomics := [(1024, 0xFFFFFFFF00000001)] }
    (match execFetchAdd 6 0x82004 4 2 s with | .next u => (counterAt u 8192, u.out.head?) | _ => (0, none))
      = (0x0000000100000001, some (.atomicValue 6 0xFFFFFFFF)) := by decide +kernel

/-! MemoryAccessesAreServed and WaitingRequestsGoOn. -/

/-- Scene 0x100 at offset 0 of company 1's range, scratch object 4 at 2 MiB; a decoder over both and the coherent window. -/
def mapped : State :=
  let d : Decoder := { base := 0, size := 0x1000000000000, skip := 0, dpa := 0, ways := 0, bi := true, committed := true, notCommitted := false }
  { stocked with
    ports := [(6, { Port.fresh with linkUp := true, busMaster := 15, memActive := true, memInfo := true, decoders := [(0, d)] })]
    store := { stocked.store with
      companies := [(0, Company.zero), (1, { Company.fresh with table := openTable, key := some 1, wingsRes := 1073741824, unified := 4194304 })]
      maps := [{ company := 1, what := .scene 0x100, stage := false, offset := 0, size := 2097152 },
               { company := 1, what := .scratch 4, stage := false, offset := 2097152, size := 2097152 }] } }
theorem test_mem_served : memReaches mapped 6 0 false = true ∧ memReaches mapped 6 0x200040 true = true ∧ memRefused mapped 6 = false ∧
    tooEarly mapped 6 0 = false ∧ (rangeRefused mapped 1 2 0 1 6 0 64).isSome = false ∧
    (rangeRefused mapped 1 2 0 2 6 0x200040 64).isSome = false ∧ mapped.store.bandwidth = false ∧ (agent mapped 6).company = 1 := by
  decide +kernel
theorem test_mem_refused : let s := { mapped with lock := { mapped.lock with ide := true } }
    memReaches s 6 0 false = true ∧ memReaches s 6 0 true = true ∧ memRefused s 6 = true := by decide +kernel
theorem test_mem_early : let s := { mapped with dev := { mapped.dev with curUp := false, dawnPhase := 3 } }
    memReaches s 6 0 false = true ∧ memReaches s 6 0 true = true ∧ memRefused s 6 = false ∧ tooEarly s 6 0 = true := by decide +kernel
theorem test_mem_rules : let s := { mapped with store := { mapped.store with
      companies := [(1, { Company.fresh with table := { openTable with windows := [] }, wingsRes := 1073741824, unified := 4194304 })] } }
    memReaches s 6 0 false = true ∧ memReaches s 6 0 true = true ∧ memRefused s 6 = false ∧ tooEarly s 6 0 = false ∧ (rangeRefused s 1 2 0 1 6 0 64).isSome = true ∧
    (rangeRefused s 1 2 0 2 6 0 64).isSome = true := by decide +kernel
theorem test_mem_page : coherentAt 0 = none ∧ regionAt mapped 1 0 = some (false, 0) ∧
    (mappingAt mapped 1 false 0).map (·.what) = some (.scene 0x100) ∧ findScene mapped 1 0x100 = some scene0 ∧
    (match seenAt mapped 1 (.scene 0x100) 0 with | .page id l off => (id, l, off) | _ => (0, 9, 9)) = (0x100, 0, 0) ∧
    isSplit mapped 1 = false ∧ pageAbove mapped 1 (.scene 0x100 0) = true := by decide +kernel
/-- The last line of the object of 128 bytes. -/
theorem test_mem_scratch : coherentAt 0x200040 = none ∧ regionAt mapped 1 0x200040 = some (false, 0x200040) ∧
    (mappingAt mapped 1 false 0x200040).map (fun m => (m.what, m.offset)) = some (.scratch 4, 0x200000) ∧
    (match seenAt mapped 1 (.scratch 4) 0x40 with | .scratch h off => (h, off) | _ => (9, 9)) = (4, 0x40) ∧
    (kget mapped.store.scratch 4).map (·.mem.wf) = some true := by decide +kernel
/-- In SPLIT visibility the page's copy in the window's own tier is gone (R211). -/
theorem test_mem_split : let s := { mapped with store := { mapped.store with
      companies := [(0, Company.zero), (1, { Company.fresh with table := openTable, key := some 1, wingsRes := 1073741824, split := true })]
      maps := [{ company := 1, what := .scene 0x100, stage := false, offset := 0, size := 2097152 }]
      scenes := [{ scene0 with wings := [false], stage := [true] }] } }
    isSplit s 1 = true ∧ regionAt s 1 0 = some (false, 0) ∧ (mappingAt s 1 false 0).map (·.what) = some (.scene 0x100) ∧
    pageInTier s 1 (.scene 0x100 0) false = false ∧ pageInTier s 1 (.scene 0x100 0) true = true ∧
    ((findScene s 1 0x100).map (·.retired)) = some false := by decide +kernel
/-- A read of the page answers its bytes. -/
def answers : List Out → List (Nat × Nat × List Byte)
  | .memData a d b _ :: r => (a, d, b) :: answers r
  | _ => []
theorem test_mem_read : (match execCxlMemRead 6 0 .uncached mapped with | .next u => answers u.out | _ => [])
    = [(6, 0, List.replicate 64 5)] := by decide +kernel

def load0 : LoftLoad :=
  { id := 3, agent := 6, company := 1, dpa := 0, what := .scene 0x100 0, offset := 0, arrival := 0, dies := [7]
    answered := false, sh := none }
def lineWait : SnoopWait :=
  { agent := 6, company := 1, line := 5, data := none, hold := .shared, sh := none, target := (1, 5), waitFor := [6], since := 0, arrival := 0 }
theorem test_waiting_load : let s := { mapped with work := { mapped.work with loads := [load0] } }
    findLoad s 3 = some load0 ∧ load0.arrival + 1000000 ≤ now s ∧ now s ≤ load0.arrival + 1000000 ∧ load0.sh = none := by decide +kernel
/-- Its die can read, and so it can end without or with the rebuild, or fail; at 1 ms it still gets its data (R238). -/
theorem test_loft_fill : let u : LUnit := { member := 0, parity := false, die := 7, blocks := [], line := 0, st := .done
                                            spans := [{ obj := .page 1 0x100 0, item := 0, off := 0, len := 64, at_ := 0, home := true }], data := [], lost := false }
    let s := { mapped with work := { mapped.work with loads := [load0] }
                           loft := { mapped.loft with stripes := [(0, { group := 7, parity := 1, members := [0], openAt := 0, closed := true, units := [u] })] } }
    load0.dies.all (canRead s) = true ∧ load0.answered = false ∧
    ∀ o ∈ [ReadOutcome.hard, .retried, .rebuilt, .failed], loadCanEnd s 1 (.scene 0x100 0) [7] o = true := by decide +kernel
theorem test_birsp : let s := { mapped with snoopWaits := [lineWait], dev := { mapped.dev with time := 4000001 } }
    s.snoopWaits.find? (fun w => w.target == ((agent s 6).company, 5) && w.waitFor.contains 6) = some lineWait ∧
    s.snoopWaits.any (fun w => w.target == ((agent s 6).company, 5) && w.waitFor.contains 6 && isLate w.since 4000000 s) = true := by
  decide +kernel
theorem test_bucket : let s := { mapped with agents := [(6, { Agent.shipped 6 with company := 1, waiting := [(64, none)] })]
                                             store := { mapped.store with bandwidth := true } }
    (agent s 6).waiting = (64, none) :: [] ∧ 64 ≤ (refill (now s) (agent s 6)).level := by decide +kernel

/-! SpdmRowsComplete and ManagementRowsComplete. -/

def secured (n : Nat) : State := { up with spdm := [(.doe 6 0, n), (.mctp, n)]
                                           sessions := [{ ep := .mctp, id := 1, up := false, epoch := 0 }, { ep := .mctp, id := 2, up := true, epoch := 3 }] }
theorem test_spdm_served : epOk (.doe 7 4) = true ∧ (∀ ep ∈ ([.doe 6 0, .mctp] : List Endpoint), epOk ep = true ∧
    spdmServed up ep = true) ∧ spdmLevel up .mctp = 0 ∧ spdmLevel (secured 3) (.doe 6 0) = 3 ∧ spdmLevel (secured 2) .mctp < 3 ∧
    bit (0x80 : BitVec 32) 7 = true ∧ bit (2 : BitVec 32) 1 = true ∧ spdmRequests.contains 0x85 = false := by decide +kernel
theorem test_spdm_sessions : findSession (secured 3) .mctp 9 = none ∧ (findSession (secured 3) .mctp 1).map (·.up) = some false ∧
    (findSession (secured 3) .mctp 2).map (·.up) = some true ∧ (sessionsOf (secured 3) (.doe 6 0)).length < sessionLimit (.doe 6 0) ∧
    (let l : List SpdmSession := (upto 64).map fun k => { ep := .doe 6 0, id := k + 1, up := true, epoch := 0 }
     sessionLimit (.doe 6 0) ≤ (sessionsOf { up with sessions := l } (.doe 6 0)).length ∧
     findSession { up with sessions := l } (.doe 6 0) 65 = none) := by decide +kernel
theorem test_ide_km : ideAllowed up (.doe 6 0) 1 = none ∧
    (let s := { up with sessions := [{ ep := .doe 6 0, id := 1, up := true, epoch := 0 }]
                        ports := [(6, { Port.fresh with linkUp := true, ideMem := { IdeStream.off with keysRx := [(1, 5)], keysTx := [(0, 6)] } })] }
     ideAllowed s (.doe 6 0) 1 = some 6 ∧ khas (ideStream (port s 6) true).keysRx 1 = true ∧
     khas (ideStream (port s 6) true).keysTx 0 = true) := by decide +kernel
theorem test_fabric : let s := { up with ports := [(6, { Port.fresh with linkUp := true, actMld := true, actLd := 3 })] }
    (port s 6).linkUp = true ∧ (port s 6).actMld = true ∧ fuseDone s = true ∧ ldCount (port s 6) = 4 := by decide +kernel
theorem test_management : bit up.pwr.on 0 = true ∧ (8 ≤ (0xFE : BitVec 8).toNat ∧ (0xFE : BitVec 8).toNat < 0xFF) ∧
    (7 : BitVec 8).toNat < 8 ∧ up.health.waiting = [] ∧ { up.health with waiting := [(1, 2)] }.waiting = (1, 2) :: [] ∧
    (sensorReading up 1).isSome = true ∧ (sensorReading up 9).isSome = true := by decide +kernel

/-! PacketsActOnTheirConnection. -/

def netted : State := { linked with fuses := up.fuses }
def packet (msg : Nat) (remote off len : Nat) (b : List Byte) : ShPacket :=
  { port := 0, ipv6 := false, srcIp := 0x0A000009, srcPort := 0xC000, dstPort := ethUdp (ethPort netted 0), ce := false, version := 1
    flags := 0, conn := 9, load := 0, entropy := 0, psn := 100, msgId := BitVec.ofNat 32 msg, remote := BitVec.ofNat 64 remote
    offset := BitVec.ofNat 32 off, length := BitVec.ofNat 32 len, payload := b }
def outMsg (id op len land : Nat) : OutMsg :=
  { msgId := id, opcode := op, remote := 0, data := List.replicate len 0, length := len, sent := 0, owner := some 0, item := 0
    land := (1, 0, land), got := 0, chunk := 0, stride := 0, psize := [1024, 1024, 1024, 1024] }
def talking (l : List OutMsg) (m : List InMsg) : State :=
  { netted with conns := [(9, { conn0 with outMsgs := l, inMsgs := m })], taken := [ours 0x58 [] []]
                work := { netted.work with nets := [{
                    seq := 0, conn := 9, atomic := false, op := 0, msg := some 3, since := 0, length := 8, done := 0
                    local_ := (1, 0, 0x1000), remote := 0, data := [], w3 := 0, w4 := 0 }] } }
def p0 : ShPacket := packet 3 0x2000 0 8 (List.replicate 8 1)

theorem arrives_ok {p : ShPacket} {s : State} (h : (decide (p.port < 4) && frameArrives s p.port && hasStagehand s
    && !s.health.stagehandFailed) = true) : Arrives p s := by
  simp only [Bool.and_eq_true, decide_eq_true_eq, Bool.not_eq_true'] at h
  exact ⟨h.1.1.1, h.1.1.2, h.1.2, h.2⟩
theorem accepted_ok {p : ShPacket} {s : State} {k : Nat} {x : Conn} (h : (decide (p.port < 4) && frameArrives s p.port && hasStagehand s
    && !s.health.stagehandFailed && decide (acceptedOn p s = some (k, x))) = true) : Accepted p s k x := by
  rw [Bool.and_eq_true, decide_eq_true_eq] at h
  exact ⟨arrives_ok h.1, h.2⟩
theorem newData_ok {p : ShPacket} {x : Conn} (h : (takesData x && decide (psnFrom x.expPsn p.psn < 16384) && !x.seen.contains p.psn
    && !x.held.any (·.psn == p.psn)) = true) : NewData p x := by
  simp only [Bool.and_eq_true, decide_eq_true_eq, Bool.not_eq_true'] at h
  exact ⟨h.1.1.1, h.1.1.2, h.1.2, h.2⟩

/-- A packet for a connection that does not exist. -/
theorem test_packet_dropped : let p := { p0 with conn := 10 }
    Arrives p netted ∧ acceptedOn p netted = none := ⟨arrives_ok (by decide +kernel), by decide +kernel⟩
theorem test_packet_accepted : Accepted p0 netted 9 conn0 ∧ NewData p0 conn0 := ⟨accepted_ok (by decide +kernel), newData_ok (by decide +kernel)⟩
/-- The last PSN of the receive range, and the PSN before the expected one. -/
theorem test_packet_range : NewData { p0 with psn := 16483 } conn0 ∧ Duplicate { p0 with psn := 99 } conn0 :=
  ⟨newData_ok (by decide +kernel), by decide, Or.inl (by decide)⟩
theorem test_sh_write_first : let x := conn0
    let s1 := dma x.entry.agent 8 (heardFrom 9 p0 netted)
    inMsg x 3 1 = none ∧ disagrees p0 0x2000 none = false ∧ openMsgs x < 1024 ∧ p0.offset.toNat ≤ p0.remote.toNat % 2 ^ 62 ∧
    mayReach s1 x 2 0x2000 8 = true ∧ mayReach s1 x 2 (2 ^ 63) 8 = false := by decide +kernel
theorem test_sh_write_refused : let p := packet 3 (2 ^ 63) 0 8 (List.replicate 8 1)
    Accepted p netted 9 conn0 ∧ disagrees p (2 ^ 63) none = false := ⟨accepted_ok (by decide +kernel), by decide +kernel⟩
theorem test_sh_write_next : let m : InMsg := { msgId := 3, opcode := 1, length := 16, remote := 0x2000, spans := [(0, 8)], epoch := 0, notify := false, ended := false }
    let p := packet 3 0x2008 8 16 (List.replicate 8 1)
    let x := { conn0 with inMsgs := [m] }
    Accepted p (talking [] [m]) 9 x ∧ NewData p x ∧ inMsg x 3 1 = some m ∧ disagrees p 0x2000 (some m) = false :=
  ⟨accepted_ok (by decide +kernel), newData_ok (by decide +kernel), by decide +kernel, by decide +kernel⟩
/-- Company 1's counters start at 2^62 + 8192. -/
def counterPacket (b : List Byte) : ShPacket := packet 3 (2 ^ 62 + 8192) 0 8 b
theorem test_sh_counters : ∀ b ∈ [List.replicate 8 1, List.replicate 16 1], Accepted (counterPacket b) netted 9 conn0 ∧
    (counterPacket b).remote.toNat / 2 ^ 62 = 1 ∧ (counterPacket b).remote.toNat % 2 ^ 62 % 8 = 0 ∧
    (∀ r ∈ [1, 4], mayReach (dma 6 b.length (heardFrom 9 (counterPacket b) netted)) conn0 r (counterPacket b).remote.toNat 8 = true) ∧
    (counterPacket b).length.toNat ≤ maxMessage := by
  intro b h
  rcases (by simpa using h) with h | h <;> subst h <;> exact ⟨accepted_ok (by decide +kernel), by decide +kernel⟩
/-- A response for no message of the device, for its read, and for its read at another place. -/
theorem test_read_resp : ownMsg conn0 3 [2] = none ∧ (let o := outMsg 3 2 8 0x2000
    let x := { conn0 with outMsgs := [o] }
    Accepted p0 (talking [o] []) 9 x ∧ NewData p0 x ∧ ownMsg x 3 [2] = some o ∧ disagrees p0 0x2000 (inMsg x 3 3) = false ∧
    p0.length.toNat = o.length ∧ 0x2000 = o.land.2.2 ∧ ownMsg { conn0 with outMsgs := [outMsg 3 2 8 0x3000] } 3 [2] = some (outMsg 3 2 8 0x3000)
    ∧ 0x2000 ≠ (outMsg 3 2 8 0x3000).land.2.2) :=
  ⟨by decide, accepted_ok (by decide +kernel), newData_ok (by decide +kernel), by decide +kernel⟩
theorem findNet_received (k id seq : Nat) (psn : BitVec 32) (s : State) :
    findNet (dropOut k id false (received k psn true s)) seq = findNet s seq := by
  have h : (received k psn true s).work = s.work := (congrArg State.work (received_frame k psn true s) :)
  show (received k psn true s).work.nets.find? (fun n => n.seq == seq) = _
  rw [h]; rfl
theorem test_atomic_resp_and_nak : let o := outMsg 3 4 0 0
    let x := { conn0 with outMsgs := [o] }
    let s := talking [o] []
    Accepted p0 s 9 x ∧ NewData p0 x ∧ ownMsg x 3 [4, 5] = some o ∧ o.owner = some 0 ∧ ownMsg x 3 [1, 2, 4, 5] = some o ∧
    (findNet (dropOut 9 3 false (received 9 p0.psn true (dma 6 8 (heardFrom 9 p0 s)))) 0).isSome = true := by
  refine ⟨accepted_ok (by decide +kernel), newData_ok (by decide +kernel), by decide, by decide, by decide, ?_⟩
  exact (congrArg Option.isSome (findNet_received 9 3 0 100 _)).trans (by decide +kernel)
theorem test_control_packets : let a := packet 0 0 0 0 (List.replicate 40 0)
    let b := packet 0 0 0 0 (List.replicate 8 0)
    let x := { conn0 with state := 1 }
    Accepted a netted 9 conn0 ∧ conn0.state = 2 ∧ a.payload.length = 40 ∧
    Accepted b { netted with conns := [(9, x)] } 9 x ∧ x.state = 1 ∧ b.payload.length = 8 :=
  ⟨accepted_ok (by decide +kernel), by decide, by decide, accepted_ok (by decide +kernel), by decide, by decide⟩

/-! StagehandTimersAct. -/

def sentPkt (t r : Nat) (lost : Bool) : SentPkt := { opcode := 1, pkt := p0, firstAt := t, sentAt := t, retries := r, lost := lost }
def later (x : Conn) : State := { netted with conns := [(9, x)], dev := { netted.dev with time := 200000000 } }
theorem test_sync_timer : let s := later { conn0 with state := 1 }
    (conn (wakeConn 9 s) 9).map (·.state) = some 1 ∧ hasStagehand s = true := by decide +kernel
theorem test_ack_timer : let x := { conn0 with unacked := 1, unackedAt := 199992000 }
    conn (later x) 9 = some x ∧ x.unacked ≠ 0 ∧ x.unackedAt + 8000 ≤ now (later x) := by decide +kernel
theorem test_sending : let x := { conn0 with sent := [sentPkt 0 1 true] }
    let y := { conn0 with outMsgs := [outMsg 4 1 64 0] }
    conn (later x) 9 = some x ∧ x.state = 2 ∧ (x.sent.find? (·.lost)).isSome = true ∧
    conn (later y) 9 = some y ∧ y.sent.find? (·.lost) = none ∧
    (y.outMsgs.find? (fun m => decide (m.sent < m.data.length))).isSome = true := by decide +kernel
theorem test_retransmit : let x := fun r => { conn0 with sent := [sentPkt 0 r false] }
    ∀ r ∈ [7, 8], conn (later (x r)) 9 = some (x r) ∧
      ((x r).sent.find? (fun q => q.pkt.psn.toNat == 100 && !q.lost)).map (fun q => (q.retries, decide (q.sentAt + rto (x r) ≤ now (later (x r)))))
        = some (r, true) := by decide +kernel
theorem test_peer_silence : let x := { conn0 with sent := [sentPkt 100000000 0 false], lastRx := 100000000 }
    x.sent.map (·.firstAt) = 100000000 :: [] ∧ max x.lastRx (([] : List Nat).foldl min 100000000) + 100000000 ≤ now (later x) := by
  decide +kernel
theorem test_entropy_restore : conn (later { conn0 with removed := [(5, 0)] }) 9 = some { conn0 with removed := [(5, 0)] } := by decide +kernel
theorem test_connection_wait : let t := { ours 0x58 [9] [] with running := true }
    let s := flying t { talking [] [] with conns := [(9, { conn0 with state := 1 })], dev := { netted.dev with time := 101000000 }
                                           work := { netted.work with nets := (talking [] []).work.nets.map fun n => { n with msg := none } } }
    s.taken.find? (fun t => t.queue == R1.queue && t.tag == R1.tag && t.running && (t.opcode == 0x58 || t.opcode == 0x59)) = some t ∧
    (findNet s t.seq).map (·.msg) = some none ∧ ((conn s 9).map (·.state)).getD 0 ≠ 2 ∧ t.time + 100000000 ≤ now s := by decide +kernel
theorem test_eth : hasEth netted = true ∧ bit netted.pwr.on 5 = true ∧ frameArrives netted 0 = true ∧
    ethIp (ethPort netted 0) false = (0x0A000001 : BitVec 32).toNat ∧ ethGateway (ethPort netted 0) false = (0x0A0000FE : BitVec 32).toNat ∧
    (let s := { netted with eth := [(0, { ethPort netted 0 with addrs := (ethPort netted 0).addrs.take 12 ++ [0, 0, 0, 0] ++ [1] ++ List.replicate 47 0 })] }
     frameArrives s 0 = true ∧ ethIp (ethPort s 0) true ≠ 0) := by decide +kernel

/-! DeliveryEventsAct. -/

def run (op : Nat) (w : List (BitVec 64)) : Taken := { ours op w [] with running := true }
def cueOp0 (begun cut : Bool) : CueOp :=
  { seq := 0, isCue := true, items := [{ scene := 0x100, layerFirst := 0, layerCount := 1, dest := 0, offset := 0, stride := 64, sent := false
                                         delivered := false, missed := false }]
    dests := [{ stagehand := false, conn := 0, agent := 6, base := 0x10000, length := 0x10000 }], notBefore := 1000000
    deadline := some 1010000, guard := 10000, deadlineMode := true, layout := false, bitmap := 0, begun := begun, cutDone := cut, cancelled := false
    last := [] }
def cueing (begun : Bool) : State :=
  flying (run 0x38 []) { stocked with work := { stocked.work with cues := [cueOp0 begun false] } }
theorem test_cue_events : cueRunning R1 (cueing false) = some (run 0x38 []) ∧ cueOf (cueing false) 0 = some (cueOp0 false false) ∧
    (cueOp0 false false).notBefore ≤ now (cueing false) ∧
    (cueOp0 false false).deadline.getD 0 - (cueOp0 false false).guard ≤ now (cueing false) := by decide +kernel
def attOp0 : AttOp :=
  { seq := 0, model := 3, layer := 0, g := 1, r := 1, hpa := 1, qType := 0, outBf16 := false, layout := false, scale := 0, deadlineMode := true
    deadline := some 1000000, guard := 0, rows := [{ handle := 7, start := 0, count := 16, chain := [0x100], mode := 0 }], queries := []
    outputs := 0, stats := 0, bitmap := 0, split := false, todo := [0], active := [], excluded := [], dropped := [], cutDone := false
    sparse := false, table := 0, tbl := table0, sketchQ := [], keep := (0, 0, 0), selection := 0, scores := [] }
/-- Logical cluster 9 is served by physical cluster 9. -/
def attending : State :=
  flying (run 0x40 []) { stocked with clusters := [(9, { Cluster.fresh with logical := 9 })]
                                      work := { stocked.work with atts := [attOp0] } }
theorem test_attend_events : attRunning R1 attending = some (run 0x40 []) ∧ attOf attending 0 = some attOp0 ∧
    attOp0.deadline.getD 0 - attOp0.guard ≤ now attending ∧ nextAllot attending = some (attOp0, 0) ∧
    attending.taken.find? (·.seq == 0) = some (run 0x40 []) ∧ allotFree attending 9 1 = true ∧ 9 < 160 ∧ attOp0.split = false := by
  decide +kernel
/-- In split-head mode cluster 8 may be the partner of cluster 9. -/
theorem test_attend_split :
    let s := { attending with clusters := [(8, { Cluster.fresh with logical := 8 }), (9, { Cluster.fresh with logical := 9 })]
                              work := { attending.work with atts := [{ attOp0 with split := true }] } }
    (∃ p, nextAllot s = some p ∧ p.1.split = true ∧ s.taken.find? (·.seq == p.1.seq) = some (run 0x40 [])) ∧
    allotFree s 9 1 = true ∧ partners s 9 1 = [8] := by
  refine ⟨⟨({ attOp0 with split := true }, 0), ?_⟩, ?_⟩ <;> decide +kernel
def wsOp0 : WsOp :=
  { seq := 0, layers := [List.replicate 64 1], first := 0, slots := 1, slotSize := 64, ring := 0x10000, stagehand := false, target := 6
    consumed := 0x2000, base := 1000000, period := 0, guard := 0, deadlineMode := true, bitmap := 0, sent := [], delivered := [], missed := []
    lateness := 0, set := 0, last := [] }
theorem test_weights_events : let s := flying (run 0x49 []) { stocked with work := { stocked.work with wstreams := [wsOp0] } }
    findRunning 0x49 R1 s = some (run 0x49 []) ∧ wsOf s 0 = some wsOp0 ∧ 0 < wsOp0.layers.length ∧
    layerDeadline wsOp0 0 - wsOp0.guard ≤ now s := by decide +kernel
/-- A copy of page 0 of scene 0x100 that is being made in Wings. -/
def copy0 (ended : Option ReadOutcome) : PageCopy :=
  { company := 1, what := .scene 0x100 0, stage := false, waiters := [], issued := true, dies := [0], ended := ended, held := false
    background := false, onward := false, allocated := true }
def copying (ended : Option ReadOutcome) (s : State) : State := { s with work := { s.work with staging := [copy0 ended] } }
theorem test_staging : (∃ g ∈ (copying (some .hard) stocked).work.staging, g.company = 1 ∧ g.what = .scene 0x100 0 ∧ g.ended.isSome = true) ∧
    refBytes (copying (some .hard) stocked) 1 (.scene 0x100 0) ≠ 0 ∧ (copy0 none).allocated = true :=
  ⟨⟨copy0 (some .hard), by decide +kernel⟩, by decide +kernel⟩
def sketchOp0 (n : Nat) : SketchOp :=
  { seq := 0, table := 0, tbl := table0, model := 3, layer := 0, rows := [{ handle := 7, start := 0, count := n, chain := [0x100], mode := 0 }]
    sketchQ := List.replicate 32 0, scores := [], addr := 0x6000 }
theorem test_scoring_batch : let s := flying (run 0x42 []) { scoring with work := { scoring.work with sketches := [sketchOp0 16] } }
    bit s.pwr.on 6 = true ∧ findRunning 0x42 R1 s = some (run 0x42 []) ∧ s.work.sketches.find? (·.seq == 0) = some (sketchOp0 16) := by
  decide +kernel

/-! RulesChangeInTurn. -/

def rulesOp (switched recorded : Bool) (k : RuleTable) : RulesOp :=
  { seq := 0, company := 1, table := k, switched := switched, switchAt := 0, newEpoch := 1, recorded := recorded, cut := 0 }
def changing (o : RulesOp) (s : State) : State :=
  flying { run 0x0A [] with queue := 0, company := 1 } { s with work := { s.work with rules := [o] } }
def locked : State :=
  { up with store := { up.store with companies := [(1, { Company.fresh with table := openTable, key := some 1, ruleLock := true })] } }
theorem test_rules_switch : let o := rulesOp false false openTable
    let s := changing o up
    (findRunning 0x0A R0 s).isSome = true ∧ s.work.rules.find? (fun o => o.seq == 0 && !o.switched) = some o ∧
    (∀ u ∈ s.taken, u.opcode = 0x0A → u.company = 1 → 0 ≤ u.seq) ∧ (companyOf s 1).isSome = true ∧ connsOver s 1 openTable = false ∧
    (companyOf s 1).map (·.ruleLock) = some false ∧ { openTable with graceMs := 1 }.graceMs ≠ 0 ∧ (companyOf (changing o locked) 1).map (·.ruleLock) = some true ∧
    companyOf (changing o { up with store := { up.store with companies := [] } }) 1 = none := by decide +kernel
set_option maxRecDepth 20000 in
/-- Too many connections in the new table. -/
theorem test_rules_over : let k := { openTable with conns := List.replicate (maxConns + 1) conn0.entry }
    connsOver (changing (rulesOp false false k) up) 1 k = true := by decide +kernel
theorem test_rules_grace : let o := rulesOp true true openTable
    let s := changing o { up with dev := { up.dev with time := 1000000000000 } }
    s.work.rules.find? (fun o => o.company == 1 && o.switched) = some o ∧ o.switchAt + 1000000 * (tableOf s 1).graceMs ≤ now s ∧
    (findRunning 0x0A R0 s).isSome = true ∧ s.work.rules.find? (fun o => o.seq == 0 && o.switched && o.recorded) = some o ∧
    hasDrained s o = true := by decide +kernel

/-! LoftOperationsComplete and BackgroundWorkCompletes. -/

theorem test_loft_on : loftOn stocked = true ∧ dieWorks stocked 1023 = true ∧ programsHeld stocked = false ∧
    stocked.dev.curUp = true ∧ stocked.loft.roCause ≠ 1 ∧ dieIdle stocked 1023 = true ∧ 1023 ∉ stocked.loft.rebuilding := by decide +kernel
theorem test_write_back : let s := { stocked with loft := { stocked.loft with wbQueue := [(1, 0x100)] } }
    s.loft.roCause ≠ 1 ∧ (s.loft.wbQueue.findSome? (startWriteBack s)).isSome = true := by decide +kernel

/-- Page 0 of scene 0x100 as member 0 of stripe 4 of group 0, which is die 0; the parity is member 1, on die 32. -/
def unit0 (st : UnitSt) : LUnit :=
  { member := 0, parity := false, die := 0, blocks := if st = .done then [0, 1024, 2048, 3072] else [], line := 0, st := st
    spans := [{ obj := .page 1 0x100 0, item := 0, off := 0, len := 64, at_ := 0, home := true }], data := List.replicate 64 7, lost := false }
def parity0 : LUnit :=
  { member := 1, parity := true, die := 32, blocks := [0, 1024, 2048, 3072], line := 0, st := .done, spans := [], data := List.replicate 64 7
    lost := false }
def stripe0 (st : UnitSt) : Stripe := { group := 0, parity := 1, members := [0, 1], openAt := 0, closed := true, units := [unit0 st, parity0] }
/-- `stocked` at time t, lifetime second n, with that stripe and die 0. -/
def medium (st : UnitSt) (x : Die) (t n : Nat) : State :=
  { stocked with loft := { stocked.loft with stripes := [(4, stripe0 st)], dies := [(0, x)] }
                 dev := { stocked.dev with time := BitVec.ofNat 64 t }, health := { stocked.health with lifeS := BitVec.ofNat 64 n } }
def usedBlk : Blk := { Blk.fresh with used := 1 }
/-- A die whose blocks hold the unit. -/
def filled : Die := { Die.fresh with blocks := [(0, usedBlk), (1024, usedBlk), (2048, usedBlk), (3072, usedBlk)] }

theorem test_program : let s := medium .issued { Die.fresh with op := some (.program 4 0) } 0 0
    loftOn s = true ∧ dieWorks s 0 = true ∧ (die s 0).suspended = false ∧ (die s 0).op = some (.program 4 0) ∧
    3072 ∈ targetBlocks s 0 (drawsReserve s 4) ∧ (die (medium .issued { Die.fresh with op := some (.rebuild 4 0) } 0 0) 0).op = some (.rebuild 4 0) ∧
    kget s.loft.stripes 4 = some (stripe0 .issued) ∧ unitOf (stripe0 .issued) 0 = some (unit0 .issued) := by decide +kernel
/-- R279: a failed program takes its block out of service. -/
theorem test_program_failed : (match execLoftProgramComplete { die := 0, block := 3072, failed := true }
      (medium .issued { Die.fresh with op := some (.program 4 0) } 0 0) with
    | .next u => ((die u 0).badBlocks, (blk (die u 0) 3072).bad, (die u 0).failTimes) | _ => (9, false, [])) = (1, true, [0]) := by decide +kernel
/-- R261, R262: the program of the last unit leaves it on four blocks, one in each plane. -/
theorem test_program_lands : (match execLoftProgramComplete { die := 0, block := 0, failed := false }
      (medium .issued { Die.fresh with op := some (.program 4 0) } 0 0) with
    | .next u => (((kget u.loft.stripes 4).bind (unitOf · 0)).map (·.blocks), (die u 0).open_, (die u 0).op)
    | _ => (none, [], none)) = (some [0, 1024, 2048, 3072], [0, 1024, 2048, 3072], none) := by decide +kernel
theorem test_erase : let s := { stocked with loft := { stocked.loft with dies := [(1023, { Die.fresh with op := some (.erase 4095), erases := [4095] })] } }
    dieWorks s 1023 = true ∧ (die s 1023).op = some (.erase 4095) ∧ (die s 1023).suspended = false ∧ (die s 1023).duskHeld = false ∧
    (match execLoftEraseComplete 1023 4095 false s with | .next u => ((blk (die u 1023) 4095).pe, u.loft.peMax) | _ => (9, 9)) = (1, 1) := by
  decide +kernel
theorem test_stripe_timer : let p := { stripe0 .buffered with openAt := 950000000, closed := false, units := [unit0 .buffered] }
    let s := { stocked with loft := { stocked.loft with stripes := [(4, p)], openStripe := [(1, 4)] }, dev := { stocked.dev with time := 1000000000 } }
    kget s.loft.openStripe 1 = some 4 ∧ kget s.loft.stripes 4 = some p ∧ p.units ≠ [] ∧ p.openAt + 50000000 ≤ now s := by decide +kernel
/-- R261: the closing stripe gets its parity, which with one data unit is that unit's ciphertext. -/
theorem test_stripe_closes : let p := { stripe0 .buffered with closed := false, units := [unit0 .buffered] }
    ((kget (closeStripe 4 { stocked with loft := { stocked.loft with stripes := [(4, p)] } }).loft.stripes 4).bind (unitOf · 1)).map
      (fun u => (u.parity, u.data)) = some (true, List.replicate 64 7) := by decide +kernel
theorem test_journal : let s := { stocked with loft := { stocked.loft with journal := [{ kind := .companyDestroy 5, cmd := none }], jprog := 1 } }
    s.loft.jprog ≠ 0 ∧ (match execJournalRecordComplete s with | .next u => (u.loft.journal.length, u.loft.written.length) | _ => (9, 9)) = (0, 1) := by
  decide +kernel
def written0 : Written := { kind := .companyDestroy 5, at_ := 0, chA := 0, chB := 1 }
theorem test_checkpoint_age : let s := { stocked with loft := { stocked.loft with written := [written0] }, dev := { stocked.dev with time := 600000000000 } }
    programsHeld s = false ∧ s.dev.curUp = true ∧ s.loft.written ≠ [] ∧ s.loft.ckptAt + 600000000000 ≤ now s := by decide +kernel
theorem test_checkpoint_count : 2 ^ 24 ≤ (List.replicate (2 ^ 24) written0).length :=
  Nat.le_of_eq List.length_replicate.symm
theorem test_loft_read : let s := copying none (medium .done filled 0 0)
    (∀ o ∈ [ReadOutcome.hard, .retried, .rebuilt, .failed], s.work.staging.find? (fun g => g.company == 1 && g.what == .scene 0x100 0 && g.issued
      && g.ended.isNone && readMayEnd s g o) = some (copy0 none) ∧ refBytes (readEnds (copy0 none) o s) 1 (.scene 0x100 0) ≠ 0) ∧
    pageAbove (readEnds (copy0 none) .failed s) 1 (.scene 0x100 0) = true := by decide +kernel
theorem test_loft_read_failed : let s0 := medium .done filled 0 0
    let s := copying none { s0 with store := { s0.store with scenes := [{ scene0 with wings := [false] }] } }
    let u := readEnds (copy0 none) .failed s
    s.work.staging.find? (fun g => g.company == 1 && g.what == .scene 0x100 0 && g.issued && g.ended.isNone && readMayEnd s g .failed)
      = some (copy0 none) ∧ refBytes u 1 (.scene 0x100 0) ≠ 0 ∧ pageAbove u 1 (.scene 0x100 0) = false ∧
    pageRetired u 1 (.scene 0x100 0) = false := by decide +kernel
/-- R292: without the die of its page and with its peers a read can only end rebuilt, or failed. -/
theorem test_rebuilt_read : let s := medium .done { filled with state := 2 } 0 0
    (readDies s (.page 1 0x100 0), readCanEnd s (.page 1 0x100 0) .hard, readCanEnd s (.page 1 0x100 0) .rebuilt) = ([32], false, true) := by
  decide +kernel

theorem test_suspended : let x := { Die.fresh with op := some (.erase 9), suspended := true, reads := 1, suspendAt := 29999500000 }
    let s := medium .done x 30000000000 0
    (die s 0).suspended = true ∧ (die s 0).suspendAt + 500000 ≤ now s ∧ (die (medium .done { x with reads := 0 } 0 0) 0).reads = 0 := by decide +kernel
theorem test_scrub : let s := medium .done filled 0 604800
    scrubFree s 0 = true ∧ scrubDue s 0 3072 = true ∧ s.dev.roMode = false ∧ (blk (die s 0) 3072).moving = false ∧
    blockRebuilds (modBlk 0 3072 (fun y => { y with scrubAt := s.health.lifeS.toNat }) s) 0 3072 = true ∧
    scrubDue (medium .done filled 0 604799) 0 3072 = false := by decide +kernel
/-- R267: after a power-on every programmed block is due. -/
theorem test_scrub_pass : let s := medium .done filled 0 5
    scrubDue { s with loft := { s.loft with scrubPass := some 5 } } 0 3072 = true := by decide +kernel
theorem test_calibration : let s := medium .done filled 600000000000 0
    (scrubFree s 0 = true ∧ (die s 0).calibAt + calibPeriod s ≤ now s ∧ onHold s 0 = false ∧ dieWorks s 0 = true) ∧
    scrubFree (medium .done filled 0 0) 0 = true ∧ onHold (medium .done { filled with heldAt := some 0 } 999999 0) 0 = true ∧
    onHold (medium .done { filled with heldAt := some 0 } 1000000 0) 0 = false := by decide +kernel
theorem test_calibration_overdue : let s := medium .done { filled with reads := 1, busySince := some 600000000000 } 630000000000 0
    onHold s 0 = false ∧ calibSince s 0 none + 30000000000 ≤ now s ∧ (die s 0).busySince = some 600000000000 ∧
    600000000000 + 30000000000 ≤ now s ∧ calibSince s 0 (some 7) = 7 := by decide +kernel
theorem test_read_disturb : let s := medium .done { filled with blocks := [(3072, { usedBlk with reads := 100000 })] } 0 0
    dieIdle s 0 = true ∧ s.dev.roMode = false ∧ (blk (die s 0) 3072).moving = false ∧ 100000 ≤ (blk (die s 0) 3072).reads := by decide +kernel

/-- 4,060 blocks used once, without valid data. -/
def worn : Die := { Die.fresh with blocks := (upto 4060).map fun b => (b, usedBlk) }
def reclaiming : State := { stocked with loft := { stocked.loft with dies := [(0, worn)] } }
theorem blk_used (l : List (Nat × Blk)) (h : l.all (fun p => decide (p.2.used ≤ 1)) = true) (k : Nat) : (kgetD l k Blk.fresh).used ≤ 1 := by
  induction l with
  | nil => simp [kgetD, kget, Blk.fresh]
  | cons p r ih =>
    obtain ⟨j, v⟩ := p
    simp only [List.all_cons, Bool.and_eq_true, decide_eq_true_eq] at h
    simp only [kgetD, kget]
    split
    · exact h.1
    · exact ih h.2
set_option maxRecDepth 100000 in
theorem test_reclamation : (erasedBlocks reclaiming 0 < 32 ∧ dieIdle reclaiming 0 = true ∧ reclaimable reclaiming 0 0 = true) ∧
    ∀ k, reclaimable reclaiming 0 k = true → staleBytes reclaiming 0 k ≤ staleBytes reclaiming 0 0 := by
  refine ⟨by decide +kernel, fun k _ => ?_⟩
  have h : staleBytes reclaiming 0 0 = unitBytes := by decide +kernel
  have e : staleBytes reclaiming 0 k = (kgetD worn.blocks k Blk.fresh).used * unitBytes := by
    have : unitsOn reclaiming 0 = [] := rfl
    simp only [staleBytes, this, List.filter_nil, List.map_nil, List.sum_nil, Nat.sub_zero]; rfl
  rw [h, e]
  exact Nat.le_trans (Nat.mul_le_mul_right _ (blk_used _ (by decide +kernel) k)) (by simp)
theorem test_wear_levelling : let s := medium .done { filled with blocks := (5, { Blk.fresh with pe := 251 }) :: filled.blocks } 0 0
    dieIdle s 0 = true ∧ programsHeld s = false ∧ 250 < peSpread (die s 0) ∧ isColdest s 0 3072 = true ∧ isMostWorn s 0 5 = true ∧
    ((kget (shiftBlock 0 3072 5 s).loft.stripes 4).bind (unitOf · 0)).map (·.blocks) = some [0, 1024, 2048, 5] := by decide +kernel
theorem test_rebuild : let s := { stocked with loft := { stocked.loft with rebuilding := [7], dies := [(7, { Die.fresh with state := 2 })] } }
    loftOn s = true ∧ s.dev.curUp = true ∧ 7 ∈ s.loft.rebuilding ∧ ∀ r ∈ s.loft.rebuilds, r.die ≠ 7 := by decide +kernel

/-! FailuresAreRepaired. -/

theorem test_failures : upFrom 7 stocked = true ∧ clusterWorks stocked 175 = true ∧ (cluster stocked 175).rowsUsed < 16 ∧
    linkAt 175 0 = some (164, true) ∧ linkAt 175 1 = none ∧ (deadSet stocked).contains (164, true) = false ∧
    failingLanes stocked (164, true) < 19 ∧ (deadSet (steerLanes 175 0 18 stocked)).contains (164, true) = false ∧ hasPrompter stocked = true ∧
    stocked.health.prompterFailed = false ∧ hasStagehand stocked = true ∧ stocked.health.stagehandFailed = false ∧
    stocked.health.wingsRsv ≠ 0 ∧ stocked.health.pprLeft.getD 7 0 ≠ 0 ∧ 7 < stocked.health.pprLeft.length := by decide +kernel
theorem test_stage_row : (let s := { attending with work := Work.reset }
    upFrom 7 s = true ∧ clusterWorks s 9 = true ∧ clusterFree s (cluster s 9).logical.toNat = true ∧ (cluster s 9).rowsUsed < 16) ∧
    (let s := { attending with clusters := [(9, { Cluster.fresh with logical := 9, rowsUsed := 16 })] }
     upFrom 7 s = true ∧ clusterWorks s 9 = true ∧ 16 ≤ (cluster s 9).rowsUsed) := by decide +kernel
theorem test_no_reserve : { stocked.health with wingsRsv := 0 }.wingsRsv = 0 := rfl

end Sys2Proof.Tests
end

-- The reset state, and the owner's registers.
section
/-!
The state after reset, and what the owner's registers do: what a write to each of them runs, and what is read after it.
-/
namespace Sys2Proof.Machine
open Sys2Proof

/-! The state after reset. -/

theorem shaped_reset : Shaped State.reset where
  clusters := rfl
  canonical := rfl
  areas := rfl
  aligned := rfl

theorem route_reset (e : Nat) (h : e < 9) : State.reset.evt.route.getD e 0 = 0x80000000 := by
  change (List.replicate 9 (0x80000000 : BitVec 32)).getD e 0 = _
  rw [List.getD_eq_getElem?_getD, List.getElem?_replicate_of_lt h, Option.getD_some]

theorem agent_reset_company (a : Nat) : (agent State.reset a).company = 0 := rfl

/-- The Prompter's arbiter is the sixth class (R12, R142). -/
theorem classPresent_prompter (s : State) : classPresent s 5 = hasPrompter s := by simp [classPresent]

theorem readReg_arbPrompterCtrl (s : State) (a : Nat) : readReg s a 0x5028 = if hasPrompter s then arbCtrl s 5 else 0 := by
  rw [← classPresent_prompter]
  rfl

theorem readReg_arbPrompterCtrl_absent (s : State) (a : Nat) (h : hasPrompter s = false) : readReg s a 0x5028 = 0 := by
  simp [readReg_arbPrompterCtrl, h]

/-- Settles O6: the registers by evaluating the reset state; what is said of every event, agent and state by its lemma. -/
theorem resetIsShaped : Obligations.ResetIsShaped :=
  ⟨shaped_reset,
    -- nothing is in flight, pending or written, and company 0 is alone
    rfl, rfl, rfl, rfl, rfl, rfl, rfl, rfl, rfl, rfl, rfl,
    -- power, time and thresholds
    rfl, rfl, rfl, rfl, rfl, rfl,
    -- events
    rfl, rfl, rfl, route_reset,
    -- the admin queue, Stagehand and the arbiters
    rfl, rfl, rfl, rfl, rfl, rfl, rfl, rfl,
    fun a _ => agent_reset_company a, readReg_arbPrompterCtrl_absent⟩

/-! Entries of a list and of a map after an update. -/

theorem setAt_eq_set {α : Type} (l : List α) (k : Nat) (x : α) : setAt l k x = l.set k x := by
  induction l generalizing k with
  | nil => rfl
  | cons y r ih => cases k with
    | zero => rfl
    | succ k => simp [setAt, ih]

theorem getD_setAt_same {α : Type} (l : List α) {k : Nat} (x d : α) (h : k < l.length) : (setAt l k x).getD k d = x := by
  simp [setAt_eq_set, List.getD_eq_getElem?_getD, h]

theorem getD_setAt_other {α : Type} (l : List α) {k j : Nat} (x d : α) (h : j ≠ k) :
    (setAt l k x).getD j d = l.getD j d := by
  simp [setAt_eq_set, List.getD_eq_getElem?_getD, List.getElem?_set_ne h.symm]

/-- A map changed throughout, read with a default that the change keeps. -/
theorem kgetD_kmap {α : Type} (m : KMap α) (f : Nat → α → α) (n : Nat) (d : α) (h : f n d = d) :
    kgetD (kmap m f) n d = f n (kgetD m n d) := by
  unfold kgetD
  rw [kget_kmap]
  cases kget m n with
  | none => exact h.symm
  | some x => rfl

/-! What a write by an agent of the owner runs (R77). -/

section OwnerRows
variable {s : State} {a : Nat} {v : BitVec 32} (ha : a < 32) (ho : ownerAgent s a = true)
include ha ho

theorem exec_adminQueueEnable_owner (off : bit s.flash.actrl 31 = false) (on : bit v 31 = true) :
    exec (.adminQueueEnable a v) s
      = .next (restartAdmin { s with flash := { s.flash with actrl := v &&& actrlMask } }) := by
  change execAdminQueueEnable a v s = _
  simp [execAdminQueueEnable, Nat.not_le.2 ha, ho, off, on]

theorem exec_adminQueueDisable_owner (on : bit s.flash.actrl 31 = true) (off : bit v 31 = false) :
    exec (.adminQueueDisable a v) s = .next (modQueue 0 (fun q => { q with enabled := false })
      { s with flash := { s.flash with actrl := s.flash.actrl &&& 0x7FFFFFFF } }) := by
  change execAdminQueueDisable a v s = _
  simp [execAdminQueueDisable, Nat.not_le.2 ha, ho, off, on]

theorem exec_shutdownReq_owner (hv : bit v 0 = true) : exec (.shutdownReq a v) s = .next (writeDevCtrl v s) := by
  change execShutdownReq a v s = _
  simp [execShutdownReq, Nat.not_le.2 ha, ho, hv]

theorem exec_pd6Gate_owner (hv : bit v 0 = true) : exec (.pd6Gate a v) s = .next (writeGate true s) := by
  change execPd6Gate a v s = _
  simp [execPd6Gate, Nat.not_le.2 ha, ho, hv]

theorem exec_pd6Ungate_owner (hv : bit v 0 = false) : exec (.pd6Ungate a v) s = .next (writeGate false s) := by
  change execPd6Ungate a v s = _
  simp [execPd6Ungate, Nat.not_le.2 ha, ho, hv]

theorem exec_epochWrite_owner : exec (.epochWrite a v) s = .next (writeEpoch (v.truncate 8) s) := by
  change execEpochWrite a v s = _
  simp [execEpochWrite, Nat.not_le.2 ha, ho]

theorem exec_arbCtrlWrite_owner {j : Nat} (hj : j < 6) (part : Part) (w : BitVec 64) :
    exec (.arbCtrlWrite a j part w) s = .next (writeArbCtrl j part w s) := by
  change execArbCtrlWrite a j part w s = _
  simp [execArbCtrlWrite, Nat.not_le.2 ha, Nat.not_le.2 hj, ho]

theorem exec_agentMapWrite_owner {b : Nat} (hb : b < 32) : exec (.agentMapWrite a b v) s = .next (writeAgentMap b v s) := by
  change execAgentMapWrite a b v s = _
  simp [execAgentMapWrite, Nat.not_le.2 ha, Nat.not_le.2 hb, ho]

end OwnerRows

/-! Shutdown, PD6 and the beat epoch. -/

theorem writeDevCtrl_of_request {s : State} {v : BitVec 32} (hv : bit v 0 = true) (hf : s.dev.flushed = false)
    (hs : s.pwr.safeOff = false) :
    writeDevCtrl v s = { s with dev := { s.dev with restart := bit v 1, shutdownReq := true } } := by
  simp [writeDevCtrl, hf, hs, hv, beginShutdown, modDev]

theorem writeGate_true {s : State} (hp : hasPrompter s = true) :
    writeGate true s = { s with pwr := { s.pwr with pd6Gate := true } } := by
  simp [writeGate, hp, modPwr]

/-- PD6 comes back on where the domains of CLUSTERS are on (R52, R89, R96). -/
theorem writeGate_false_pwr {s : State} (hp : hasPrompter s = true) :
    (writeGate false s).pwr
      = { s.pwr with pd6Gate := false, on := if pd6Due s then s.pwr.on ||| 0x40 else s.pwr.on } := by
  cases hd : pd6Due s <;> simp [writeGate, hp, hd]

theorem exec_pd6SwitchOff_of_gated {s : State} (hg : s.pwr.pd6Gate = true) (hon : bit s.pwr.on 6 = true)
    (hb : prompterBusy s = false) :
    exec .pd6SwitchOff s
      = .next (refusePrompter (dropPrompter (modPwr (fun p => { p with on := p.on &&& 0x3F }) s))) := by
  change execPd6SwitchOff s = _
  simp [execPd6SwitchOff, hg, hon, hb]

@[simp] theorem refusePrompter_pwr (s : State) : (refusePrompter s).pwr = s.pwr := rfl
@[simp] theorem refusePrompter_store (s : State) : (refusePrompter s).store = s.store := rfl
@[simp] theorem dropPrompter_pwr (s : State) : (dropPrompter s).pwr = s.pwr := rfl
@[simp] theorem dropPrompter_tables (s : State) : (dropPrompter s).store.tables = [] := rfl
@[simp] theorem dropPrompter_fetchBuf (s : State) : (dropPrompter s).store.fetchBuf = none := rfl

theorem writeEpoch_eq (v : BitVec 8) (s : State) :
    writeEpoch v s = if v = s.perf.beatEpoch then s
      else { s with perf := { s.perf with beatEpoch := v, beatMin := s.perf.beatNow, beatMax := s.perf.beatNow } } := by
  by_cases h : v = s.perf.beatEpoch <;> simp [writeEpoch, h, modPerf]

/-! The arbiters' control registers. -/

/-- A write to a control register restarts the grant counts of every instance of its class (R132). -/
def restartGrants (j k : Nat) (x : Arbiter) : Arbiter :=
  if k / 65536 == j then { x with reqs := x.reqs.map fun r => { r with grants := 0 } } else x

theorem restartGrants_fresh (j k : Nat) : restartGrants j k Arbiter.fresh = Arbiter.fresh := by
  unfold restartGrants
  split <;> rfl

theorem restartGrants_instance (j : Nat) {inst : Nat} (h : inst < 65536) (x : Arbiter) :
    restartGrants j (arbKey j inst) x = { x with reqs := x.reqs.map fun r => { r with grants := 0 } } := by
  have key : arbKey j inst / 65536 = j := by
    unfold arbKey
    omega
  simp [restartGrants, key]

theorem writeArbCtrl_arb {s : State} {j : Nat} (hj : classPresent s j = true) (part : Part) (w : BitVec 64) :
    (writeArbCtrl j part w s).arb
      = { s.arb with ctrl := setAt s.arb.ctrl j (mergePart (arbCtrl s j) part w &&& arbMask)
                     arb := kmap s.arb.arb (restartGrants j) } := by
  simp only [writeArbCtrl, hj]
  rfl

theorem arbCtrl_writeArbCtrl_same {s : State} {j : Nat} (hj : classPresent s j = true) (hl : j < s.arb.ctrl.length)
    (part : Part) (w : BitVec 64) : arbCtrl (writeArbCtrl j part w s) j = mergePart (arbCtrl s j) part w &&& arbMask := by
  rw [arbCtrl, writeArbCtrl_arb hj]
  exact getD_setAt_same _ _ _ hl

theorem arbCtrl_writeArbCtrl_other {s : State} {j k : Nat} (hj : classPresent s j = true) (hk : k ≠ j) (part : Part)
    (w : BitVec 64) : arbCtrl (writeArbCtrl j part w s) k = arbCtrl s k := by
  rw [arbCtrl, writeArbCtrl_arb hj]
  exact getD_setAt_other _ _ _ hk

theorem arbiter_writeArbCtrl_reqs {s : State} {j inst : Nat} (hj : classPresent s j = true) (hi : inst < 65536)
    (part : Part) (w : BitVec 64) :
    (arbiter (writeArbCtrl j part w s) j inst).reqs = (arbiter s j inst).reqs.map fun r => { r with grants := 0 } := by
  rw [arbiter, writeArbCtrl_arb hj, kgetD_kmap _ _ _ _ (restartGrants_fresh j _), restartGrants_instance j hi]
  rfl

/-- Instance numbers fit the half of an arbiter's key that holds them. -/
theorem instances_lt {j : Nat} (h : j < 6) : instances j < 65536 :=
  (by decide : ∀ j < 6, instances j < 65536) j h

/-! The agent maps. -/

/-- The map of an agent of company 0 that no queue uses takes the write; the map in effect waits for the ports (R678). -/
theorem writeAgentMap_agent {s : State} {b : Nat} (v : BitVec 32) (hc : (agent s b).company = 0)
    (hq : (s.queues.any fun p => p.2.agent == b && (p.1 != 0 || p.2.enabled)) = false) :
    (agent (writeAgentMap b v s) b).map = v &&& agentMapMask ∧ (agent (writeAgentMap b v s) b).eff = (agent s b).eff := by
  simp [writeAgentMap, hc, hq]

/-- Settles O41: each row by the write that it runs, and each write by what it leaves. -/
theorem ownerRegistersAct : Obligations.OwnerRegistersAct := by
  intro s a v ha ho
  refine ⟨exec_adminQueueEnable_owner ha ho, exec_adminQueueDisable_owner ha ho, ?shutdown, ?gate, ?ungate, ?switchOff,
    ?epoch, ?arbCtrl, ?agentMap⟩
  case shutdown =>
    intro hv hf hs
    rw [exec_shutdownReq_owner ha ho hv, writeDevCtrl_of_request hv hf hs]
  case gate =>
    intro hv hp
    rw [exec_pd6Gate_owner ha ho hv, writeGate_true hp]
  case ungate =>
    intro hv hp
    refine ⟨_, exec_pd6Ungate_owner ha ho hv, ?_⟩
    rw [writeGate_false_pwr hp]
    exact ⟨rfl, rfl⟩
  case switchOff =>
    intro hg hon hb
    refine ⟨_, exec_pd6SwitchOff_of_gated hg hon hb, ?_⟩
    simp
  case epoch => rw [exec_epochWrite_owner ha ho, writeEpoch_eq]
  case arbCtrl =>
    intro j part w hj hp hl
    exact ⟨_, exec_arbCtrlWrite_owner ha ho hj part w, arbCtrl_writeArbCtrl_same hp (hl ▸ hj) part w,
      fun _ hk => arbCtrl_writeArbCtrl_other hp hk part w,
      fun _ hi => arbiter_writeArbCtrl_reqs hp (Nat.lt_trans hi (instances_lt hj)) part w⟩
  case agentMap =>
    intro b hb hc hq
    exact ⟨_, exec_agentMapWrite_owner ha ho hb, writeAgentMap_agent v hc hq⟩

end Sys2Proof.Machine
end

-- The core's scalar registers and predicates, and the division of its ALU.
section
/-!
The control core: what its registers and predicates read after a write, the division of R437, and a row whose encoding is
not legal.
-/
namespace Sys2Proof.Machine
open Sys2Proof

/-! Scalar registers: what a write leaves to be read (R431). -/

@[simp] theorem sreg_zero (k : Core) : sreg k 0 = 0 := rfl

@[simp] theorem setS_zero (v : Word64) (k : Core) : setS 0 v k = k := rfl

theorem setS_of_ne_zero {r : Nat} (h : r ≠ 0) (v : Word64) (k : Core) : setS r v k = { k with s := setAt k.s r v } := by
  simp [setS, h]

theorem sreg_of_ne_zero {r : Nat} (h : r ≠ 0) (k : Core) : sreg k r = k.s.getD r 0 := by simp [sreg, h]

theorem sreg_setS_same {r : Nat} (v : Word64) {k : Core} (h : 0 < r) (hl : r < k.s.length) : sreg (setS r v k) r = v := by
  rw [setS_of_ne_zero (Nat.ne_of_gt h), sreg_of_ne_zero (Nat.ne_of_gt h)]
  exact getD_setAt_same _ _ _ hl

theorem sreg_setS_other {r q : Nat} (v : Word64) (k : Core) (h : q ≠ r) : sreg (setS r v k) q = sreg k q := by
  by_cases hr : r = 0
  · rw [hr, setS_zero]
  by_cases hq : q = 0
  · rw [hq, sreg_zero, sreg_zero]
  rw [setS_of_ne_zero hr, sreg_of_ne_zero hq, sreg_of_ne_zero hq]
  exact getD_setAt_other _ _ _ h

@[simp] theorem setS_p (r : Nat) (v : Word64) (k : Core) : (setS r v k).p = k.p := by unfold setS; split <;> rfl

@[simp] theorem setS_pc (r : Nat) (v : Word64) (k : Core) : (setS r v k).pc = k.pc := by unfold setS; split <;> rfl

@[simp] theorem setS_length (r : Nat) (v : Word64) (k : Core) : (setS r v k).s.length = k.s.length := by
  unfold setS
  split
  · rfl
  · simp [setAt_eq_set]

/-! Predicates (R431). -/

@[simp] theorem preg_zero (k : Core) : preg k 0 = true := rfl

@[simp] theorem setP_zero (b : Bool) (k : Core) : setP 0 b k = k := rfl

theorem preg_of_ne_zero {n : Nat} (h : n ≠ 0) (k : Core) : preg k n = bit k.p n := by simp [preg, h]

theorem setP_p_of_ne_zero {n : Nat} (h : n ≠ 0) (b : Bool) (k : Core) :
    (setP n b k).p = if b then k.p ||| BitVec.ofNat 8 (2 ^ n) else k.p &&& ~~~ (BitVec.ofNat 8 (2 ^ n)) := by
  simp [setP, h]

theorem getLsbD_ofNat_two_pow (w n m : Nat) : (BitVec.ofNat w (2 ^ n)).getLsbD m = (decide (m < w) && decide (n = m)) := by
  rw [BitVec.getLsbD_ofNat, Nat.testBit_two_pow]

/-- A write to a predicate other than p0 sets its own bit of the eight. -/
theorem bit_setP {n : Nat} (hn : n ≠ 0) (m : Nat) (b : Bool) (k : Core) :
    bit (setP n b k).p m = if n = m ∧ m < 8 then b else bit k.p m := by
  rw [setP_p_of_ne_zero hn, bit, bit]
  by_cases hm : m < 8
  · cases b
    case false =>
      rw [if_neg Bool.false_ne_true, BitVec.getLsbD_and, BitVec.getLsbD_not, getLsbD_ofNat_two_pow]
      by_cases h : n = m <;> simp [h, hm]
    case true =>
      rw [if_pos rfl, BitVec.getLsbD_or, getLsbD_ofNat_two_pow]
      by_cases h : n = m <;> simp [h, hm]
  · rw [BitVec.getLsbD_of_ge _ _ (Nat.le_of_not_lt hm), BitVec.getLsbD_of_ge _ _ (Nat.le_of_not_lt hm),
      if_neg fun h => hm h.2]

theorem preg_setP_same {n : Nat} (b : Bool) (k : Core) (h : 0 < n) (h8 : n < 8) : preg (setP n b k) n = b := by
  rw [preg_of_ne_zero (Nat.ne_of_gt h), bit_setP (Nat.ne_of_gt h), if_pos ⟨rfl, h8⟩]

theorem preg_setP_other {n m : Nat} (b : Bool) (k : Core) (h : m ≠ n) : preg (setP n b k) m = preg k m := by
  by_cases hn : n = 0
  · rw [hn, setP_zero]
  by_cases hm : m = 0
  · rw [hm, preg_zero, preg_zero]
  rw [preg_of_ne_zero hm, preg_of_ne_zero hm, bit_setP hn, if_neg fun e => h e.1.symm]

@[simp] theorem setP_s (n : Nat) (b : Bool) (k : Core) : (setP n b k).s = k.s := by unfold setP; split <;> rfl

@[simp] theorem setP_pc (n : Nat) (b : Bool) (k : Core) : (setP n b k).pc = k.pc := by unfold setP; split <;> rfl

/-- Settles O16: what each register and predicate reads after a write, by its lemma. -/
theorem zeroRegistersAndWrites : Obligations.ZeroRegistersAndWrites :=
  fun k r _ v n _ b =>
    ⟨sreg_zero k, preg_zero k, setS_zero v k, setP_zero b k,
      sreg_setS_same v, sreg_setS_other v k, preg_setP_same b k, preg_setP_other b k,
      setS_p r v k, setS_pc r v k, setP_s n b k, setP_pc n b k, setS_length r v k, List.length_replicate⟩

/-! Division (R437). -/

theorem divS_zero {n : Nat} (a : BitVec n) : divS a 0 = BitVec.allOnes n := if_pos (beq_self_eq_true _)

theorem remS_zero {n : Nat} (a : BitVec n) : remS a 0 = a := if_pos (beq_self_eq_true _)

theorem divU_zero (a : Word64) : divU a 0 = BitVec.allOnes 64 := if_pos (beq_self_eq_true _)

theorem remU_zero (a : Word64) : remU a 0 = a := if_pos (beq_self_eq_true _)

theorem toInt_ofInt_neg_one : (BitVec.ofInt 64 (-1)).toInt = -1 := by decide

/-- The quotient by -1 is the negated number, modulo 2^64: that of -2^63 is -2^63 again. -/
theorem divS_neg_one (a : Word64) : divS a (BitVec.ofInt 64 (-1)) = -a := by
  have hd : a.toInt.tdiv (BitVec.ofInt 64 (-1)).toInt = -a.toInt := by
    rw [toInt_ofInt_neg_one, Int.tdiv_neg, Int.tdiv_one]
  rw [divS, if_neg (by decide), hd, BitVec.ofInt_neg, BitVec.ofInt_toInt]

theorem remS_neg_one (a : Word64) : remS a (BitVec.ofInt 64 (-1)) = 0 := by
  have hr : a.toInt.tmod (BitVec.ofInt 64 (-1)).toInt = 0 := by
    rw [toInt_ofInt_neg_one, Int.tmod_neg, Int.tmod_one]
  rw [remS, if_neg (by decide), hr]
  rfl

/-! Core rows. -/

theorem faultWhenClear_of_empty {x : CoreCtx} (h : x.cl.engQ = []) (code info : Nat) (s : State) :
    faultWhenClear x code info s = coreFault x code info x.cl.core.pc.toNat s := by
  simp [faultWhenClear, h]

/-- An encoding that is not legal faults with ILLEGAL whatever its guard (R435), once no engine instruction is left. -/
theorem coreRow_illegal {op c : Nat} {legal : Word32 → Bool} (regs : Word32 → List Nat)
    (body : CoreCtx → State → CoreRes) {s : State} {x : CoreCtx} (hc : c < 160) (hr : running c s = some x)
    (hf : fetched x = true) (ho : opOf x.w = op) (hq : x.cl.engQ = []) (hl : legal x.w = false) :
    coreRow op c legal regs body s = .next (coreFault x 1 0 x.cl.core.pc.toNat s) := by
  unfold coreRow
  rw [if_neg (Nat.not_le.mpr hc), hr]
  simp [hf, ho, hq, hl, faultWhenClear_of_empty hq]

theorem ret_eq (x : CoreCtx) (rd : Nat) (v : Word64) (s : State) :
    ret x rd v s = modCluster x.p (fun cl => { cl with core := { setS rd v cl.core with pc := cl.core.pc + 4 } }) s := by
  simp [ret, setCore, nextPc]

/-! The ALU's row. -/

theorem exec_alu (c : Nat) (s : State) : exec (.alu c) s = execAlu c s := rfl

theorem execAlu_issued {c : Nat} {s : State} {x : CoreCtx} (h : Issues 0x00 c aluLegal regsR s x) :
    execAlu c s =
      .next (ret x (rdOf x.w) (aluFn (fnOf x.w) (sreg x.cl.core (raOf x.w)) (sreg x.cl.core (rbOf x.w))) s) :=
  coreRow_done _ _ _ _ _ _ _ _ h rfl

theorem aluLegal_of_fn_gt {w : Word32} (h : 0x14 < fnOf w) : aluLegal w = false := by
  simp [aluLegal, Nat.not_le.mpr h]

/-- Settles O19: the corner cases by the lemmas of quotient and remainder, the rest by the form of a core row. -/
theorem divisionNeverFaults : Obligations.DivisionNeverFaults := by
  refine ⟨fun a => ⟨divS_zero a, divU_zero a, remS_zero a, remU_zero a⟩, ?_, remS_neg_one _, ?issued, ?reserved⟩
  · exact (divS_neg_one _).trans (by decide)
  case issued =>
    rintro c s x fn - rfl h
    rw [exec_alu, execAlu_issued h, ret_eq]
  case reserved =>
    intro c s x hc hr hf ho hq hn
    rw [exec_alu]
    exact coreRow_illegal regsR _ hc hr hf ho hq (aluLegal_of_fn_gt hn)

end Sys2Proof.Machine
end

-- The rows of the queues: doorbells, fences, waits, completion interrupts and host reads.
section
/-!
The rows of the Paulou queues: doorbells, fenced dispatch, the time limit of a wait, completion interrupts and host reads, and what
one MSI-X message changes.
-/
namespace Sys2Proof.Machine
open Sys2Proof

/-! Doorbells (R539, R541). -/

/-- The count of doorbell values out of range goes up. -/
def countBadDoorbell (s : State) : State := modPerf2 (fun p => { p with badDoorbells := satInc p.badDoorbells }) s

theorem setTail_inRange {s : State} {q : Nat} {x : Queue} (hx : queue s q = some x) {n : Nat} (h : n < x.sqSize) :
    setTail q n s = modQueue q (fun y => { y with sqTail := n }) s := by
  simp [setTail, hx, Nat.not_le.2 h]

theorem setTail_outOfRange {s : State} {q : Nat} {x : Queue} (hx : queue s q = some x) {n : Nat} (h : x.sqSize ≤ n) :
    setTail q n s = countBadDoorbell s := by
  simp [setTail, countBadDoorbell, hx, h]

theorem setCqHead_outOfRange {s : State} {q : Nat} {x : Queue} (hx : queue s q = some x) {n : Nat} (h : x.cqSize ≤ n) :
    setCqHead q n s = countBadDoorbell s := by
  simp [setCqHead, countBadDoorbell, hx, h]

theorem queueAgent_eq {s : State} {q : Nat} {x : Queue} (hx : queue s q = some x) : queueAgent s q = x.agent := by
  simp [queueAgent, hx]

/-- A served doorbell by the queue's own agent moves what its part of the register holds (R540, R571). -/
theorem exec_doorbell_ofAgent {s : State} {a q : Nat} {x : Queue} (ha : a < 32) (hq : q < 4096) (hs : ioServed s a = true)
    (hx : queue s q = some x) (hxa : x.agent = a) (v : BitVec 64) :
    exec (.doorbell a q .full v) s = .next (setCqHead q (fld v 47 32) (setTail q (fld v 15 0) s)) ∧
    exec (.doorbell a q .lo v) s = .next (setTail q (fld v 15 0) s) ∧
    exec (.doorbell a q .hi v) s = .next (setCqHead q (fld v 15 0) s) := by
  have run (part : Part) : exec (.doorbell a q part v) s = execDoorbell a q part v s := rfl
  simp [run, execDoorbell, ha, hq, hs, hx, queueAgent_eq, hxa]

/-! Fenced commands and waits (R547, R557). -/

/-- No command of its queue came before this one. -/
theorem exec_fencedDispatch_earliest {s : State} {r : CmdRef} {t : Taken}
    (ht : s.taken.find? (fun t => t.queue == r.queue && t.tag == r.tag && !t.dispatched) = some t)
    (first : ∀ u ∈ s.taken, u.queue = t.queue → t.seq ≤ u.seq) :
    exec (.fencedDispatch r) s = .next { s with
      taken := s.taken.map fun u => if u.seq == t.seq then { u with dispatched := true } else u } := by
  have noEarlier : (s.taken.any fun u => u.queue == t.queue && decide (u.seq < t.seq)) = false := by
    simpa using first
  change execFencedDispatch r s = _
  simp [execFencedDispatch, ht, noEarlier]

theorem exec_queueWaitTimeout_due {s : State} {r : CmdRef} {t : Taken} {w : QWait} {d : Nat}
    (ht : findRunning 0x53 r s = some t) (hw : (queue s r.queue).bind (·.wait) = some w) (hd : w.until_ = some d)
    (due : d ≤ now s) :
    exec (.queueWaitTimeout r) s = .next (settle (endWait r.queue w
      { status 0x403 with r0 := w64 (((queue s w.target).map (·.compCount)).getD 0) } s)) := by
  change execQueueWaitTimeout r s = _
  simp [execQueueWaitTimeout, ht, hw, hd, Nat.not_lt.2 due]

/-! MSI-X messages (R568). -/

/-- Agent a can be reached, and MSI-X is on for it. -/
def msixOpen (s : State) (a : Nat) : Bool := reachable s a && bit (port s (agentPort s a)).msixOn (agentLd s a)

/-- A mask, of the function or of the vector, holds the messages of vector v back. -/
def msixHeld (s : State) (a v : Nat) : Bool :=
  bit (port s (agentPort s a)).msixMask (agentLd s a) || (msixVec (port s (agentPort s a)) (agentLd s a) v).masked

theorem sendMsix_closed {s : State} {a : Nat} (h : msixOpen s a = false) (v : Nat) : sendMsix a v s = s := by
  rw [msixOpen, Bool.and_eq_false_iff] at h
  simp only [sendMsix]
  exact if_pos (by simpa using h)

theorem sendMsix_open {s : State} {a : Nat} (h : msixOpen s a = true) (v : Nat) :
    sendMsix a v s = if msixHeld s a v then setMsix (agentPort s a) (agentLd s a) v (fun x => { x with pending := true }) s
      else emit (.msix a v) s := by
  rw [msixOpen, Bool.and_eq_true] at h
  simp only [sendMsix]
  exact if_neg (by simp [h])

theorem queue_sendMsix (a v : Nat) (s : State) (j : Nat) : queue (sendMsix a v s) j = queue s j := by
  cases h : msixOpen s a with
  | false => rw [sendMsix_closed h]
  | true => rw [sendMsix_open h]; split <;> rfl

theorem sendMsix_out (a v : Nat) (s : State) :
    (sendMsix a v s).out = if msixOpen s a && !msixHeld s a v then .msix a v :: s.out else s.out := by
  cases h : msixOpen s a with
  | false => simp [sendMsix_closed h]
  | true => cases hm : msixHeld s a v <;> simp [sendMsix_open h, hm, setMsix]

theorem sendMsix_ports {a v : Nat} {s : State} (h : (msixOpen s a && msixHeld s a v) = false) :
    (sendMsix a v s).ports = s.ports := by
  cases ho : msixOpen s a with
  | false => rw [sendMsix_closed ho]
  | true =>
    have hm : msixHeld s a v = false := by simpa [ho] using h
    simp [sendMsix_open ho, hm]

/-- A message held back is kept as the pending bit of its vector. -/
theorem sendMsix_pending {a v : Nat} {s : State} (ho : msixOpen s a = true) (hm : msixHeld s a v = true) :
    (msixVec (port (sendMsix a v s) (agentPort s a)) (agentLd s a) v).pending = true := by
  simp [sendMsix_open ho, hm, setMsix, msixVec]

/-! Completion interrupts (R567, R568). -/

/-- The queue counts afresh toward its next interrupt. -/
def restartCount (x : Queue) : Queue := { x with intCount := 0, intFirst := none, intDue := false }

theorem exec_completionInterrupt_due {s : State} {q : Nat} {x : Queue} (hx : queue s q = some x)
    (due : interruptDue s x = true) :
    exec (.completionInterrupt q) s = .next (sendMsix x.agent x.vector (modQueue q restartCount s)) := by
  change execCompletionInterrupt q s = _
  rw [execCompletionInterrupt, hx]
  exact if_neg (by simp [due])

/-! Host reads (R325, R706; notes/assumptions/18.md, 27.md). -/

section HostReads
variable {s : State} {r : CmdRef} {t : Taken}

theorem exec_hostReadCompletion_reading {arrays : List (List Byte)} (ht : reading r s = some t)
    (hl : arrays.map (·.length) = t.want.map (·.2)) :
    exec (.hostReadCompletion r arrays) s = .next (startReads { t with arrays := t.arrays ++ arrays } s) := by
  change execHostReadCompletion r arrays s = _
  simp [execHostReadCompletion, ht, hl]

theorem exec_hostReadTimeout_reading (ht : reading r s = some t) (due : t.readAt + 50000000 ≤ now s) :
    exec (.hostReadTimeout r) s
      = .next (settle (abortUnrun 0x602 t (readTimedOut (agentPort s (queueAgent s t.queue)) s))) := by
  change execHostReadTimeout r s = _
  simp [execHostReadTimeout, ht, Nat.not_lt.2 due]

theorem exec_hostReadCompletion_closing {c : Completion} {agents : List Nat} {arrays : List (List Byte)}
    (hn : reading r s = none) (ht : closing r s = some (t, c, agents)) (hl : arrays.map (·.length) = t.want.map (·.2)) :
    exec (.hostReadCompletion r arrays) s = .next (finish t c (dropDelivery t.seq s)) := by
  change execHostReadCompletion r arrays s = _
  simp [execHostReadCompletion, hn, ht, hl]

theorem exec_hostReadTimeout_closing {c : Completion} {agents : List Nat} (hn : reading r s = none)
    (ht : closing r s = some (t, c, agents)) (due : t.readAt + 50000000 ≤ now s) :
    exec (.hostReadTimeout r) s = .next (settle (abortOne 0x602 t (readTimedOut (agentPort s (agents.headD 0)) s))) := by
  change execHostReadTimeout r s = _
  simp [execHostReadTimeout, hn, ht, Nat.not_lt.2 due]

end HostReads

/-- Settles O38: each row by what it does when it comes about; an interrupt by what one message changes. -/
theorem queueRowsComplete : Obligations.QueueRowsComplete := by
  intro s r
  refine ⟨?doorbell, fun _ => exec_fencedDispatch_earliest, fun _ _ _ => exec_queueWaitTimeout_due, ?interrupt,
    fun _ _ => exec_hostReadCompletion_reading, fun _ => exec_hostReadTimeout_reading, ?closing⟩
  case doorbell =>
    intro a q x v ha hq hs hx hxa
    obtain ⟨full, lo, hi⟩ := exec_doorbell_ofAgent ha hq hs hx hxa v
    exact ⟨full, lo, hi, fun _ => ⟨setTail_inRange hx, setTail_outOfRange hx, setCqHead_outOfRange hx⟩⟩
  case interrupt =>
    intro q x hx due
    have count : queue (modQueue q restartCount s) q = some (restartCount x) := by rw [queue_modQueue_same, hx]; rfl
    exact ⟨_, exec_completionInterrupt_due hx due, (queue_sendMsix ..).trans count, sendMsix_out ..,
      sendMsix_pending (s := modQueue q restartCount s), sendMsix_ports (s := modQueue q restartCount s)⟩
  case closing =>
    intro t c agents hn ht
    exact ⟨fun _ => exec_hostReadCompletion_closing hn ht, exec_hostReadTimeout_closing hn ht⟩

end Sys2Proof.Machine
end

-- The administration commands: what each leaves and answers once its checks pass.
section
/-!
The commands NOP, IDENTIFY, GET_LOG, SET_FEATURE, GET_FEATURE, HEALTH and QUIESCE (R587 to R596, R658 to R660), once every check
passes.
-/
namespace Sys2Proof.Machine
open Sys2Proof

/-- A row whose command passes its checks has the effect that follows them. -/
theorem runRow_passes {op : Nat} {r : CmdRef} {s : State} {t : Taken} {checks : Taken → State → List Chk}
    (h : Passes op r s t checks) (go : Taken → State → State → State) :
    runRow op r s (fun t s => checked t (checks t s) s (go t s)) = .next (go t s s) := by
  obtain ⟨found, passed⟩ := h
  rw [runRow_found _ _ _ _ _ found, checked_passes _ _ _ _ passed]

section AdminCommands
variable {r : CmdRef} {s : State} {t : Taken}

/-- The command comes from the admin queue or is of company 0, so that it sees what all companies own. -/
def seesAll (t : Taken) : Bool := t.queue == 0 || t.company == 0

theorem execNop_passes (h : Passes 0x01 r s t nopChecks) : execNop r s = .next (finish t okay s) := by
  simp only [execNop, runRow_passes h]

/-! IDENTIFY and GET_LOG (R588 to R592). -/

/-- The structure that IDENTIFY writes, by its cns; a handle that is not open fails the checks before (R589). -/
def identified (t : Taken) (s : State) : List Byte :=
  let cns := fld (word t 0) 63 48
  let h := low (word t 2)
  if cns == 0 then identifyDevice s (seesAll t) (s.dev.fwSlot == 3)
  else if cns == 1 then identifyCompany s t.company
  else if cns == 2 then (upto 64).flatMap fun k => identifyModel s (fun c => seesAll t || c == t.company) k
  else ((openStream s t.company h).map (identifyStream h)).getD (leBytes 4096 0)

theorem execIdentify_passes (h : Passes 0x02 r s t identifyChecks) :
    execIdentify r s
      = .next (finish t (okWith (w64 (capUnits s)) 0 0) (toHost t (word t 1).toNat (identified t s) s)) := by
  simp only [execIdentify, runRow_passes h, identified, seesAll, low]
  cases openStream s t.company (fld (word t 2) 31 0) with
  | none => rfl
  | some x => rfl

theorem execGetLog_passes (h : Passes 0x03 r s t getLogChecks) :
    let all := logBytes s (seesAll t) t.company (fld (word t 0) 63 48)
    let off := (word t 3).toNat
    execGetLog r s = .next (finish t (okWith (w64 (min (low (word t 2)) (all.length - off))) (w64 all.length) 0)
      (toHost t (word t 1).toNat (slice all off (low (word t 2))) s)) := by
  simp only [execGetLog, runRow_passes h, seesAll, low]

/-! SET_FEATURE and GET_FEATURE (R593 to R596). -/

/-- The state that a SET_FEATURE leaves. -/
def featureSet (t : Taken) (s : State) : State :=
  applyFeature t.company (fld (word t 0) 63 48) (word t 1) (bit (word t 3) 63) (hostArray t 0) s

theorem execSetFeature_passes (h : Passes 0x04 r s t setFeatureChecks) :
    execSetFeature r s = .next
      (finish t (okWith (featureValue (featureSet t s) t.company (fld (word t 0) 63 48)) 0 0) (featureSet t s)) := by
  simp only [execSetFeature, runRow_passes h, featureCompany, featureSet]

theorem execGetFeature_passes (h : Passes 0x05 r s t getFeatureChecks) :
    execGetFeature r s = .next (finish t (okWith (featureValue s t.company (fld (word t 0) 63 48)) 0 0) s) := by
  simp only [execGetFeature, runRow_passes h, featureCompany]

/-! HEALTH and QUIESCE (R658 to R660). -/

theorem execHealth_passes (h : Passes 0x7F r s t healthChecks) :
    execHealth r s = .next
      (finish t (okWith (healthWord s) (w64 s.loft.spareLeft.toNat) (w64 s.loft.pctUsed.toNat)) s) := by
  simp only [execHealth, runRow_passes h]

/-- The state that a QUIESCE leaves: quiesce asked for or given up, and a change of DEV_STATUS.quiesced reported. -/
def quiesceSet (t : Taken) (s : State) : State :=
  reportQuiesce (quiesced s) { s with dev := { s.dev with quiesceCmd := !bit (word t 1) 0 } }

/-- A QUIESCE with drain set is kept among the drains with its completion; one without it completes. -/
theorem execQuiesce_passes (h : Passes 0x7E r s t quiesceChecks) :
    let s' := quiesceSet t s
    let done := okWith (w64 (b2n (quiesced s'))) 0 0
    execQuiesce r s = .next
      (if bit (word t 1) 8 then
        settle (modWork (fun w => { w with drains := kset w.drains t.seq done }) (setRunning t.seq s'))
       else finish t done s') := by
  simp only [execQuiesce, runRow_passes h, quiesceSet, modDev]

end AdminCommands

/-- Settles O8: each command by what its row does once the checks pass. -/
theorem adminCommandsComplete : Obligations.AdminCommandsComplete := fun _ _ _ =>
  ⟨execNop_passes, execIdentify_passes, execGetLog_passes, execSetFeature_passes, execGetFeature_passes, execHealth_passes,
    execQuiesce_passes⟩

end Sys2Proof.Machine
end

-- The atomic window: AtomicOps on the counters of the agent's own region.
section
/-!
The AtomicOps FETCHADD, SWAP and CAS: which bits of the addressed counters an operand of each size reads and replaces, and when
the window refuses an operation (R690 to R692).
-/
namespace Sys2Proof.Machine
open Sys2Proof

/-! Halves of a register and of a counter (R838). -/

theorem getElem_lowHalf : ∀ i, (hi : i < 64) → (0xFFFFFFFF#64)[i] = decide (i < 32) := by decide

theorem getElem_highHalf : ∀ i, (hi : i < 64) → (0xFFFFFFFF00000000#64)[i] = decide (32 ≤ i) := by decide

theorem getElem_mergePart_lo (old v : Word64) {i : Nat} (hi : i < 64) :
    (mergePart old .lo v)[i] = if i < 32 then v[i] else old[i] := by
  by_cases h : i < 32
  · simp [mergePart, getElem_lowHalf, getElem_highHalf, h, Nat.not_le.2 h]
  · simp [mergePart, getElem_lowHalf, getElem_highHalf, h, Nat.le_of_not_lt h]

theorem getElem_mergePart_hi (old v : Word64) {i : Nat} (hi : i < 64) :
    (mergePart old .hi v)[i] = if i < 32 then old[i] else v[i - 32] := by
  by_cases h : i < 32 <;> simp [mergePart, getElem_lowHalf, h]

/-- The half of its counter that a window offset of 4 bytes names. -/
def partAt (w : Nat) : Part := if w % 8 = 0 then .lo else .hi

/-- The 32 bits of that half. -/
def halfOf (old : Word64) (w : Nat) : BitVec 32 := if w % 8 = 0 then old.truncate 32 else (old >>> 32).truncate 32

theorem mergePart_halfOf (old : Word64) (w : Nat) : mergePart old (partAt w) ((halfOf old w).zeroExtend 64) = old := by
  ext i hi
  by_cases low : w % 8 = 0 <;> by_cases h : i < 32
  · simp [partAt, halfOf, low, getElem_mergePart_lo, h, BitVec.getLsbD_eq_getElem hi]
  · simp [partAt, halfOf, low, getElem_mergePart_lo, h]
  · simp [partAt, halfOf, low, getElem_mergePart_hi, h]
  · have back : 32 + (i - 32) = i := by omega
    have top : i - 32 < 32 := by omega
    simp [partAt, halfOf, low, getElem_mergePart_hi, h, back, top, hi]

/-! The bits of an operand of n bytes, which begins at bit sh of two adjacent counters. -/

/-- The low n bytes of 128 bits. -/
def byteMask (n : Nat) : BitVec 128 := BitVec.ofNat 128 (2 ^ (8 * n) - 1)

/-- The n bytes from bit sh. -/
def bytesAt (b : BitVec 128) (sh n : Nat) : BitVec 128 := (b >>> sh) &&& byteMask n

/-- The n bytes from bit sh replaced by the low bytes of x. -/
def replaceBytes (b : BitVec 128) (sh n : Nat) (x : BitVec 128) : BitVec 128 :=
  (b &&& ~~~(byteMask n <<< sh)) ||| ((x &&& byteMask n) <<< sh)

theorem getElem_byteMask (n i : Nat) (hi : i < 128) : (byteMask n)[i] = decide (i < 8 * n) := by
  rw [← BitVec.getLsbD_eq_getElem hi, byteMask, BitVec.getLsbD_ofNat, Nat.testBit_two_pow_sub_one]
  simp [hi]

theorem and_byteMask (x : BitVec 128) (n : Nat) : x &&& byteMask n = (x.truncate (8 * n)).zeroExtend 128 := by
  ext i hi
  simp [getElem_byteMask, hi, Bool.and_comm]

theorem getElem_replaceBytes (b x : BitVec 128) (sh n : Nat) {i : Nat} (hi : i < 128) :
    (replaceBytes b sh n x)[i] = if sh ≤ i ∧ i < sh + 8 * n then x[i - sh] else b[i] := by
  by_cases h : sh ≤ i
  · have inside : i - sh < 8 * n ↔ i < sh + 8 * n := by omega
    by_cases h' : i < sh + 8 * n <;> simp [replaceBytes, getElem_byteMask, h, h', inside, Nat.not_lt.2 h]
  · simp [replaceBytes, h, Nat.lt_of_not_le h]

theorem replaceBytes_sixteen (b x : BitVec 128) : replaceBytes b 0 16 x = x := by
  ext i hi
  simp [getElem_replaceBytes, hi]

theorem replaceBytes_eight (old : Word64) (x : BitVec 128) :
    (replaceBytes (old.zeroExtend 128) 0 8 x).truncate 64 = x.truncate 64 := by
  ext i hi
  have hi' : i < 128 := by omega
  simp [getElem_replaceBytes, hi, hi']

theorem replaceBytes_lo (old : Word64) (x : BitVec 128) :
    (replaceBytes (old.zeroExtend 128) 0 4 x).truncate 64 = mergePart old .lo ((x.truncate 32).zeroExtend 64) := by
  ext i hi
  have hi' : i < 128 := by omega
  by_cases h : i < 32 <;> simp [getElem_replaceBytes, getElem_mergePart_lo, hi', h, BitVec.getLsbD_eq_getElem hi]

theorem replaceBytes_hi (old : Word64) (x : BitVec 128) :
    (replaceBytes (old.zeroExtend 128) 32 4 x).truncate 64 = mergePart old .hi ((x.truncate 32).zeroExtend 64) := by
  ext i hi
  have hi' : i < 128 := by omega
  have high : i - 32 < 32 ∧ i - 32 < 128 := by omega
  by_cases h : i < 32
  · simp [getElem_replaceBytes, getElem_mergePart_hi, hi', h, Nat.not_le.2 h, BitVec.getLsbD_eq_getElem hi]
  · simp [getElem_replaceBytes, getElem_mergePart_hi, hi, hi', h, Nat.le_of_not_lt h, high]

theorem append_truncate {m k : Nat} (b : BitVec (m + k)) : (b >>> k).truncate m ++ b.truncate k = b := by
  ext i hi
  by_cases h : i < k
  · simp [BitVec.getElem_append, h, BitVec.getLsbD_eq_getElem hi]
  · have back : k + (i - k) = i := by omega
    simp [BitVec.getElem_append, h, back, BitVec.getLsbD_eq_getElem hi]

/-- The bit of its counter at which an operand of n bytes begins. -/
def startBit (w n : Nat) : Nat := if n == 4 then 8 * (w % 8) else 0

theorem bytesAt_half (old : Word64) {w : Nat} (aligned : w % 4 = 0) :
    bytesAt (old.zeroExtend 128) (startBit w 4) 4 = (halfOf old w).zeroExtend 128 := by
  obtain low | high : w % 8 = 0 ∨ w % 8 = 4 := by omega
  · simp [bytesAt, startBit, low, halfOf, and_byteMask]
  · rw [bytesAt, and_byteMask]
    ext i hi
    by_cases h : i < 32
    · simp [startBit, high, halfOf, h, show 32 + i < 128 by omega]
    · simp [startBit, high, halfOf, h]

theorem replaceBytes_half (old : Word64) {w : Nat} (aligned : w % 4 = 0) (x : BitVec 128) :
    (replaceBytes (old.zeroExtend 128) (startBit w 4) 4 x).truncate 64
      = mergePart old (partAt w) ((x.truncate 32).zeroExtend 64) := by
  obtain low | high : w % 8 = 0 ∨ w % 8 = 4 := by omega
  · simpa [startBit, low, partAt] using replaceBytes_lo old x
  · simpa [startBit, high, partAt] using replaceBytes_hi old x

/-! One AtomicOp. -/

theorem counterAt_setCounter (w j : Nat) (v : Word64) (s : State) :
    counterAt (setCounter w v s) j = if j / 8 = w / 8 then v else counterAt s j := by
  simp only [counterAt, setCounter, kgetD, kget_kset]
  split <;> rfl

@[simp] theorem counterAt_emit (o : Out) (s : State) (j : Nat) : counterAt (emit o s) j = counterAt s j := rfl

/-- The window serves agent a an operation of n bytes at window offset w (R690 to R692). -/
structure AtomicServed (s : State) (a w n : Nat) : Prop where
  hostAgent : a < 32
  inWindow : w < 0x80000
  io : ioServed s a = true
  own : ownCounter (agent s a).company w = true
  aligned : (0x80000 + w) % n = 0
  allowed : (rangeRefused s (agent s a).company 2 1 4 a w n).isSome = false

/-- The counter at w, and for 16 bytes the next one above it. -/
def windowBits (s : State) (w n : Nat) : BitVec 128 :=
  BitVec.ofNat 128 ((counterAt s w).toNat + (if n == 16 then (counterAt s (w + 8)).toNat * 2 ^ 64 else 0))

/-- The state with these bits in their place. -/
def setWindow (w n : Nat) (b : BitVec 128) (s : State) : State :=
  let s := setCounter w (b.truncate 64) s
  if n == 16 then setCounter (w + 8) ((b >>> 64).truncate 64) s else s

section AtomicOps
variable {s : State} {a w n : Nat}

theorem reachable_of_ioServed (hs : ioServed s a = true) : reachable s a = true := by
  simp only [ioServed, Bool.and_eq_true] at hs
  obtain ⟨⟨reach, -⟩, -⟩ := hs
  exact reach

theorem atomicOp_served (h : AtomicServed s a w n) (f : BitVec 128 → BitVec 128) :
    atomicOp a (0x80000 + w) n f s =
      let old := bytesAt (windowBits s w n) (startBit w n) n
      .next (emit (.atomicValue a old) (setWindow w n (replaceBytes (windowBits s w n) (startBit w n) n (f old)) s)) := by
  obtain ⟨ha, hw, hs, own, aligned, allowed⟩ := h
  have inBar : 0x80000 + w < 0x100000 := by omega
  simp only [atomicOp, Nat.add_sub_cancel_left]
  rw [if_neg (by simpa [ha] using inBar), if_neg (by simp [reachable_of_ioServed hs]), if_neg (by simp [hs, aligned, own]),
    if_neg (by simp [allowed])]
  rfl

theorem atomicOp_unsupported {off : Nat} (ha : a < 32) (hs : ioServed s a = true) (inBar : off < 0x100000)
    (bad : off < 0x80000 ∨ off % n ≠ 0 ∨ ownCounter (agent s a).company (off - 0x80000) = false) (f : BitVec 128 → BitVec 128) :
    atomicOp a off n f s = .next (emit (.unsupported a) s) := by
  simp only [atomicOp]
  rw [if_neg (by simpa [ha] using inBar), if_neg (by simp [reachable_of_ioServed hs]), if_pos (by simpa [hs, or_assoc] using bad)]

theorem windowBits_narrow (hn : n ≠ 16) : windowBits s w n = (counterAt s w).zeroExtend 128 := by
  simp [windowBits, hn, BitVec.ofNat_toNat]

theorem windowBits_sixteen : windowBits s w 16 = counterAt s (w + 8) ++ counterAt s w := by
  apply BitVec.eq_of_toNat_eq
  have lo := (counterAt s w).isLt
  have hi := (counterAt s (w + 8)).isLt
  have fits : (counterAt s w).toNat + (counterAt s (w + 8)).toNat * 2 ^ 64 < 2 ^ 128 := by omega
  simp only [windowBits, beq_self_eq_true, if_true, BitVec.toNat_ofNat, Nat.mod_eq_of_lt fits]
  rw [BitVec.toNat_append, ← Nat.shiftLeft_add_eq_or_of_lt lo, Nat.shiftLeft_eq, Nat.add_comm]

/-! What an operation of each size answers and leaves. -/

theorem atomicOp_eight (h : AtomicServed s a w 8) (f : BitVec 128 → BitVec 128) :
    atomicOp a (0x80000 + w) 8 f s = .next (emit (.atomicValue a ((counterAt s w).zeroExtend 128))
      (setCounter w ((f ((counterAt s w).zeroExtend 128)).truncate 64) s)) := by
  have old : bytesAt ((counterAt s w).zeroExtend 128) 0 8 = (counterAt s w).zeroExtend 128 := by simp [bytesAt, and_byteMask]
  have start : startBit w 8 = 0 := rfl
  simp only [atomicOp_served h, windowBits_narrow (show 8 ≠ 16 by decide), start, old]
  exact congrArg (fun v => Host.Outcome.next (emit _ (setCounter w v s))) (replaceBytes_eight _ _)

theorem atomicOp_four (h : AtomicServed s a w 4) (f : BitVec 128 → BitVec 128) :
    atomicOp a (0x80000 + w) 4 f s = .next (emit (.atomicValue a ((halfOf (counterAt s w) w).zeroExtend 128))
      (setCounter w (mergePart (counterAt s w) (partAt w)
        (((f ((halfOf (counterAt s w) w).zeroExtend 128)).truncate 32).zeroExtend 64)) s)) := by
  have aligned : w % 4 = 0 := by have := h.aligned; omega
  simp only [atomicOp_served h, windowBits_narrow (show 4 ≠ 16 by decide), bytesAt_half _ aligned]
  exact congrArg (fun v => Host.Outcome.next (emit _ (setCounter w v s))) (replaceBytes_half _ aligned _)

/-- Two adjacent counters are read and replaced as one. -/
theorem atomicOp_sixteen (h : AtomicServed s a w 16) (f : BitVec 128 → BitVec 128) :
    let old := counterAt s (w + 8) ++ counterAt s w
    atomicOp a (0x80000 + w) 16 f s = .next (emit (.atomicValue a old) (setWindow w 16 (f old) s)) := by
  have old (b : BitVec 128) : bytesAt b 0 16 = b := by simp [bytesAt, and_byteMask]
  have start : startBit w 16 = 0 := rfl
  simp only [atomicOp_served h, windowBits_sixteen, start, old, replaceBytes_sixteen]

/-! The rows. -/

/-- The new value of a CAS of n bytes. -/
def casValue (n : Nat) (x y old : BitVec 128) : BitVec 128 := if old == x &&& byteMask n then y else old

theorem truncate_casValue {k : Nat} (hk : k = 8 * n) (fits : n ≤ 16) (x y : BitVec 128) (old : BitVec k) :
    (casValue n x y (old.zeroExtend 128)).truncate k = if old = x.truncate k then y.truncate k else old := by
  subst hk
  have back (z : BitVec (8 * n)) : (z.zeroExtend 128).truncate (8 * n) = z := by
    simp [BitVec.setWidth_setWidth_of_le, show 8 * n ≤ 128 by omega]
  have same : old.zeroExtend 128 = x &&& byteMask n ↔ old = x.truncate (8 * n) := by
    rw [and_byteMask]
    exact ⟨fun e => by rw [← back old, e, back], congrArg _⟩
  simp only [casValue, beq_iff_eq, same]
  split
  · rfl
  · exact back old

theorem exec_fetchAdd_eq (hn : n ∈ [4, 8]) (off : Nat) (v : BitVec 64) :
    exec (.fetchAdd a off n v) s = atomicOp a off n (fun old => old + v.zeroExtend 128) s := by
  change execFetchAdd a off n v s = _
  exact if_neg (by simpa [Decidable.or_iff_not_imp_left] using hn)

theorem exec_swap_eq (hn : n ∈ [4, 8]) (off : Nat) (v : BitVec 64) :
    exec (.swap a off n v) s = atomicOp a off n (fun _ => v.zeroExtend 128) s := by
  change execSwap a off n v s = _
  exact if_neg (by simpa [Decidable.or_iff_not_imp_left] using hn)

theorem exec_cas_eq (hn : n ∈ [4, 8, 16]) (off : Nat) (x y : BitVec 128) :
    exec (.cas a off n x y) s = atomicOp a off n (casValue n x y) s := by
  change execCas a off n x y s = _
  exact if_neg (by simpa [Decidable.or_iff_not_imp_left] using hn)

/-- Row i answers with `gives` and leaves `new` in the counter at w; nothing else changes. -/
def ActsOn (s : State) (a w : Nat) (i : Instr) (gives : BitVec 128) (new : Word64) : Prop :=
  ∃ u, exec i s = .next u ∧ u.out = .atomicValue a gives :: s.out ∧ counterAt u w = new ∧
    (∀ j, j / 8 ≠ w / 8 → counterAt u j = counterAt s j) ∧ { u with atomics := s.atomics, out := s.out } = s

theorem actsOn_of_setCounter {i : Instr} {gives : BitVec 128} {v new : Word64}
    (h : exec i s = .next (emit (.atomicValue a gives) (setCounter w v s))) (hv : v = new) : ActsOn s a w i gives new :=
  ⟨_, h, rfl, by simp [counterAt_setCounter, hv], fun j hj => by simp [counterAt_setCounter, hj], rfl⟩

theorem atomics_eight (h : AtomicServed s a w 8) (v : BitVec 64) (x y : BitVec 128) :
    let old := counterAt s w
    ActsOn s a w (.fetchAdd a (0x80000 + w) 8 v) (old.zeroExtend 128) (old + v) ∧
    ActsOn s a w (.swap a (0x80000 + w) 8 v) (old.zeroExtend 128) v ∧
    ActsOn s a w (.cas a (0x80000 + w) 8 x y) (old.zeroExtend 128) (if old = x.truncate 64 then y.truncate 64 else old) :=
  ⟨actsOn_of_setCounter ((exec_fetchAdd_eq (by decide) ..).trans (atomicOp_eight h _)) (by simp [BitVec.setWidth_add]),
    actsOn_of_setCounter ((exec_swap_eq (by decide) ..).trans (atomicOp_eight h _)) (by simp),
    actsOn_of_setCounter ((exec_cas_eq (by decide) ..).trans (atomicOp_eight h _)) (truncate_casValue (n := 8) rfl (by decide) ..)⟩

theorem atomics_four (h : AtomicServed s a w 4) (v : BitVec 64) (x y : BitVec 128) :
    let old := counterAt s w
    let half := halfOf old w
    ActsOn s a w (.fetchAdd a (0x80000 + w) 4 v) (half.zeroExtend 128)
      (mergePart old (partAt w) ((half + v.truncate 32).zeroExtend 64)) ∧
    ActsOn s a w (.swap a (0x80000 + w) 4 v) (half.zeroExtend 128)
      (mergePart old (partAt w) ((v.truncate 32).zeroExtend 64)) ∧
    ActsOn s a w (.cas a (0x80000 + w) 4 x y) (half.zeroExtend 128)
      (if half = x.truncate 32 then mergePart old (partAt w) ((y.truncate 32).zeroExtend 64) else old) := by
  refine ⟨actsOn_of_setCounter ((exec_fetchAdd_eq (by decide) ..).trans (atomicOp_four h _)) ?add,
    actsOn_of_setCounter ((exec_swap_eq (by decide) ..).trans (atomicOp_four h _)) ?swap,
    actsOn_of_setCounter ((exec_cas_eq (by decide) ..).trans (atomicOp_four h _)) ?cas⟩
  case add => simp [BitVec.setWidth_add]
  case swap => simp
  case cas =>
    rw [truncate_casValue (n := 4) rfl (by decide)]
    split
    · rfl
    · exact mergePart_halfOf ..

theorem cas_sixteen (h : AtomicServed s a w 16) (x y : BitVec 128) :
    let old := counterAt s (w + 8) ++ counterAt s w
    ∃ u, exec (.cas a (0x80000 + w) 16 x y) s = .next u ∧ u.out = .atomicValue a old :: s.out ∧
      counterAt u (w + 8) ++ counterAt u w = (if old = x then y else old) ∧
      (∀ j, j / 8 ≠ w / 8 → j / 8 ≠ w / 8 + 1 → counterAt u j = counterAt s j) ∧
      { u with atomics := s.atomics, out := s.out } = s := by
  have next : (w + 8) / 8 = w / 8 + 1 := by omega
  have new (old : BitVec 128) : casValue 16 x y old = if old = x then y else old := by
    simpa using truncate_casValue (n := 16) rfl (by decide) x y old
  have joined (b : BitVec 128) : (b >>> 64).truncate 64 ++ b.truncate 64 = b := append_truncate (m := 64) (k := 64) b
  refine ⟨_, (exec_cas_eq (by decide) ..).trans (atomicOp_sixteen h _), rfl, ?_, ?_, rfl⟩
  · simp [setWindow, counterAt_setCounter, next, new, joined]
  · intro j here above
    simp [setWindow, counterAt_setCounter, next, here, above]

end AtomicOps

/-- Settles O49: each size by the bits that its operand reads and replaces, a refusal by the checks of the window. -/
theorem atomicsActOnOwnCounters : Obligations.AtomicsActOnOwnCounters := by
  intro s a w v x y ha hw hs
  have served (n : Nat) (aligned : (0x80000 + w) % n = 0) (own : ownCounter (agent s a).company w = true)
      (allowed : (rangeRefused s (agent s a).company 2 1 4 a w n).isSome = false) : AtomicServed s a w n :=
    ⟨ha, hw, hs, own, aligned, allowed⟩
  refine ⟨fun al own ok => atomics_eight (served 8 (by omega) own ok) v x y,
    fun al own ok => atomics_four (served 4 (by omega) own ok) v x y,
    fun al own ok => cas_sixteen (served 16 (by omega) own ok) x y, fun off n inBar bad => ⟨fun hn => ⟨?_, ?_⟩, fun hn => ?_⟩⟩
  · exact (exec_fetchAdd_eq hn ..).trans (atomicOp_unsupported ha hs inBar bad _)
  · exact (exec_swap_eq hn ..).trans (atomicOp_unsupported ha hs inBar bad _)
  · exact (exec_cas_eq hn ..).trans (atomicOp_unsupported ha hs inBar bad _)

end Sys2Proof.Machine
end

-- The block and its queue: the command at the front, and the tick of an idle block.
section
/-!
One step of the block: the command at the front of the queue, or one tick of the crystal where none waits.
-/
namespace Sys2Proof.Machine
open Sys2Proof

theorem step_of_cons {s : State} {c : Instr} {r : List Instr} (h : s.pending = c :: r) :
    step s = exec c { s with pending := r } := by
  rw [step, h]

theorem step_of_empty {s : State} (h : s.pending = []) : step s = .next (tick s) := by
  rw [step, h]

/-- Settles O1: what lies behind the front command is the queue that was there. -/
theorem stepRunsFrontCommand : Obligations.StepRunsFrontCommand := fun _ _ => step_of_cons rfl

/-! The tick of the crystal (R112). -/

theorem tick_off {s : State} (h : s.pwr.on.getLsbD 0 = false) : tick s = s := by
  rw [tick, h]; rfl

theorem tick_on {s : State} (h : s.pwr.on.getLsbD 0 = true) :
    tick s = { s with
      dev := { s.dev with time := s.dev.time + 40 }
      health := { s.health with lifeS := s.health.lifeS + BitVec.ofNat 64 ((s.health.lifeNs + 40) / 1000000000)
                                lifeNs := (s.health.lifeNs + 40) % 1000000000 } } := by
  rw [tick, h]; rfl

theorem toNat_add_ofNat (x : BitVec 64) (n : Nat) : (x + BitVec.ofNat 64 n).toNat = (x.toNat + n) % 2 ^ 64 := by
  simp [BitVec.toNat_add, BitVec.toNat_ofNat]

/-- Settles O2: an empty queue is a tick, which moves the time and the lifetime by 40 ns where PD0 is on. -/
theorem emptyQueueTicks : Obligations.EmptyQueueTicks := by
  intro s empty
  refine ⟨tick s, step_of_empty empty, tick_off, fun on => ?_⟩
  rw [tick_on on]
  exact ⟨rfl, by rw [toNat_add_ofNat], rfl⟩

end Sys2Proof.Machine
end

-- Commands that name things the device has go on: the forms of rows, then each row by its guard.
section
/-!
A meaning faults only where an operand names a thing that no BZ160 has, and none refuses (notes/assumptions/33.md).
-/
namespace Sys2Proof.Machine
open Sys2Proof

/-- The answer is a next state. -/
def GoesOn (r : Res) : Prop := ∃ t, r = .next t

theorem goesOn_next (t : State) : GoesOn (.next t) := ⟨t, rfl⟩

theorem goesOn_ite {b : Prop} [Decidable b] {r r' : Res} (h : GoesOn r) (h' : GoesOn r') : GoesOn (if b then r else r') := by
  split <;> assumption

/-- A row behind the check of its operands. -/
theorem goesOn_unless {b : Prop} [Decidable b] {r : Res} (hb : ¬b) (h : GoesOn r) :
    GoesOn (if b then .fault .noSuchThing else r) := by
  rwa [if_neg hb]

/-! Forms of rows. -/

theorem runRow_goesOn (op : Nat) (r : CmdRef) (s : State) (body : Taken → State → State) : GoesOn (runRow op r s body) := by
  unfold runRow; split <;> exact goesOn_next _

theorem engRow_goesOn (op : Nat) {c : Nat} (legal : Word32 → Bool) (regs : Word32 → List Nat) (body : EngCtx → EngRes)
    (s : State) (h : c < 160) : GoesOn (engRow op c legal regs body s) := by
  refine goesOn_unless (Nat.not_le.2 h) ?_
  split
  · exact goesOn_next _
  · refine goesOn_ite (goesOn_next _) (goesOn_ite (goesOn_next _) (goesOn_ite (goesOn_next _) (goesOn_ite (goesOn_next _) ?_)))
    simp only
    split <;> exact goesOn_next _

theorem shRow_goesOn {p : ShPacket} (s : State) (go : Nat → Conn → State → State) (h : frameOk p.port = true) :
    GoesOn (shRow p s go) := by
  refine goesOn_unless (by simp [h]) (goesOn_ite (goesOn_next _) ?_)
  split <;> exact goesOn_next _

theorem resolution_goesOn {k : Nat} (v6 request : Bool) (kind target sender : Nat) (s : State) (h : frameOk k = true) :
    GoesOn (resolution k v6 request kind target sender s) := by
  refine goesOn_unless (by simp [h]) (goesOn_ite (goesOn_next _) ?_)
  repeat' apply goesOn_ite
  all_goals exact goesOn_next _

theorem fmRow_goesOn {k : Nat} (s : State) (go : State → State) (h : portOk k = true) : GoesOn (fmRow k s go) :=
  goesOn_unless (by simp [h]) (goesOn_ite (goesOn_next _) (goesOn_next _))

theorem smbusRow_goesOn (s : State) (go : State → State) : GoesOn (smbusRow s go) :=
  goesOn_ite (goesOn_next _) (goesOn_next _)

theorem epOk_eq (ep : Endpoint) : epOk ep = okEndpoint ep := by cases ep <;> rfl

theorem spdmRow_goesOn {ep : Endpoint} (level : Nat) (s : State) (go : State → State) (h : okEndpoint ep = true) :
    GoesOn (spdmRow ep level s go) :=
  goesOn_unless (by simp [epOk_eq, h]) (goesOn_ite (goesOn_next _) (goesOn_ite (goesOn_next _) (goesOn_next _)))

theorem ideRow_goesOn {ep : Endpoint} (session code : Nat) (ok : Nat → State → Bool) (go : Nat → State → State) (s : State)
    (h : okEndpoint ep = true) : GoesOn (ideRow ep session code ok go s) := by
  refine goesOn_unless (by simp [epOk_eq, h]) (goesOn_ite (goesOn_next _) ?_)
  split
  · exact goesOn_next _
  · exact goesOn_ite (goesOn_next _) (goesOn_next _)

theorem atomicOp_goesOn {a off : Nat} (n : Nat) (f : BitVec 128 → BitVec 128) (s : State) (ha : a < 32) (ho : off < 2 ^ 20) :
    GoesOn (atomicOp a off n f s) := by
  refine goesOn_unless (by simp; omega) (goesOn_ite (goesOn_next _) ?_)
  exact goesOn_ite (goesOn_next _) (goesOn_ite (goesOn_next _) (goesOn_next _))

theorem linkAt_isSome {p dir : Nat} (h : okLink p dir = true) : ∃ k, linkAt p dir = some k := by
  simp only [okLink, okPhysical, Bool.and_eq_true, Bool.or_eq_true, decide_eq_true_eq, beq_iff_eq, bne_iff_ne] at h
  obtain ⟨hp, ((⟨rfl, h⟩ | ⟨rfl, h⟩) | ⟨rfl, h⟩) | ⟨rfl, h⟩⟩ := h
  · have : ¬p / 11 = 0 := by omega
    simp [linkAt, Nat.not_le.2 hp, this]
  · simp [linkAt, Nat.not_le.2 hp, h]
  · have : ¬p / 11 = 15 := by omega
    simp [linkAt, Nat.not_le.2 hp, this]
  · simp [linkAt, Nat.not_le.2 hp, h]

theorem execLinkDeath_goesOn {p dir failing : Nat} (s : State) (h : okLink p dir = true) (hf : failing ≤ 34) :
    GoesOn (execLinkDeath p dir failing s) := by
  obtain ⟨k, hk⟩ := linkAt_isSome h
  unfold execLinkDeath
  rw [hk]
  exact goesOn_unless (Nat.not_lt.2 hf) (goesOn_ite (goesOn_next _) (goesOn_next _))

/-! Rows whose check of their operands comes late. -/

/-- A packet read whole has the words that its header says. -/
theorem execPacketIntake_goesOn {q : Nat} {words : List Word64} (s : State)
    (h : words.length = 8 * (fld (words.headD 0) 9 8 + 1)) : GoesOn (execPacketIntake q words s) := by
  unfold execPacketIntake
  simp only
  split
  · exact goesOn_next _
  · refine goesOn_unless (by omega) (goesOn_ite (goesOn_next _) (goesOn_ite (goesOn_next _) (goesOn_unless (by simp [h]) ?_)))
    split <;> exact goesOn_next _

theorem okPacket_length {words : List Word64} (h : okPacket words = true) :
    words.length = 8 * (fld (words.headD 0) 9 8 + 1) := by
  rw [okPacket, beq_iff_eq] at h
  exact h

/-- The outcome of a phase names dies, stacks, clusters and links that exist. -/
theorem outcomeOk_of_okPhase (s : State) {o : PhaseOutcome} (h : okPhase o = true) : outcomeOk s o = true := by
  simp only [okPhase, Bool.and_eq_true] at h
  obtain ⟨⟨⟨⟨beats, dies⟩, wings⟩, stage⟩, lanes⟩ := h
  unfold outcomeOk
  split
  · exact beats
  · exact wings
  · exact dies
  · refine Bool.and_eq_true _ _ |>.mpr ⟨?_, stage⟩
    refine List.all_eq_true.mpr fun x hx => ?_
    obtain ⟨hl, hn⟩ := Bool.and_eq_true _ _ |>.mp (List.all_eq_true.mp lanes x hx)
    obtain ⟨k, hk⟩ := linkAt_isSome hl
    rw [hk]
    exact hn
  · rfl

theorem execDawnPhaseComplete_goesOn {o : PhaseOutcome} (s : State) (h : okPhase o = true) :
    GoesOn (execDawnPhaseComplete o s) := by
  refine goesOn_ite (goesOn_next _) (goesOn_unless (by simp [outcomeOk_of_okPhase s h]) (goesOn_ite (goesOn_next _)
    (goesOn_ite (goesOn_next _) ?_)))
  split <;> exact goesOn_next _

/-- The instances of a class are the same numbers on both sides. -/
theorem okArbiter_eq (cls inst : Nat) : okArbiter cls inst = arbOk cls inst := by
  have all : ∀ c : Fin 6, arbInstances c.val = instances c.val := by decide
  have same (h : cls < 6) : arbInstances cls = instances cls := all ⟨cls, h⟩
  by_cases h : cls < 6
  · simp [okArbiter, arbOk, okArbClass, same h]
  · simp [okArbiter, arbOk, okArbClass, h]

/-- Settles O3: each row by its form, or by the check of its operands. -/
theorem wellFormedCommandsGoOn : Obligations.WellFormedCommandsGoOn := by
  intro c s h
  change GoesOn (exec c s)
  cases c
  -- rows whose operands always name something
  case nop | identify | getLog | setFeature | getFeature | companyCreate | companyDestroy | companyRules | admitCompany |
    release | modelRegister | streamOpen | streamClose | streamFork | findPrefix | appendScenes | sealTail | trim | pin |
    unpin | place | migrate | cancelCue | sketchQuery | weightsLoad | weightsStream | queueCreate | queueDelete |
    queueFlush | queueWait | xfer | atomic | clusterLoad | clusterRun | clusterHalt | scrubNow | selftest | fwDownload |
    fwCommit | quiesce | healthCmd | cue | deliver | attend | attendSparse =>
    simp only [exec, execNop, execIdentify, execGetLog, execSetFeature, execGetFeature, execCompanyCreate,
      execCompanyDestroy, execCompanyRules, execAdmit, execRelease, execModelRegister, execStreamOpen, execStreamClose,
      execStreamFork, execFindPrefix, execAppendScenes, execSeal, execTrim, execPin, execUnpin, execPlace, execMigrate,
      execCancelCue, execSketchQuery, execWeightsLoad, execWeightsStream, execQueueCreate, execQueueDelete, execQueueFlush,
      execQueueWait, execXfer, execAtomic, execClusterLoad, execClusterRun, execClusterHalt, execScrubNow, execSelftest,
      execFwDownload, execFwCommit, execQuiesce, execHealth, execCue, execDeliver, execAttend, execAttendSparse, runCue,
      runAttend]
    exact runRow_goesOn ..
  case setEndpointId | getEndpointId | getMctpVersionSupport | getMessageTypeSupport | setEventReceiver |
    pollForPlatformEventMessage | pldmSensorRead | pldmBaseRequest =>
    simp only [exec, execSetEndpointId, execGetEndpointId, execGetMctpVersionSupport, execGetMessageTypeSupport,
      execSetEventReceiver, execPollForPlatformEventMessage, execPldmSensorRead, execPldmBaseRequest]
    exact smbusRow_goesOn ..
  case modelRetire | repair | runStart | runTimeLimit | runEnd | midnightScan | fencedDispatch | completionInterrupt |
    queueWaitTimeout | safeOff | pd6SwitchOff | powerOn | dawn | dawnPhaseTimeout | duskEnter | duskExit | holdupFlush |
    pd0HoldupExpiry | supplyRecovery | houseWatchdog | holdupMeasurement | thermalRestart | powerReading | quiesceNChange |
    forceRoChange | pinHoldoffExpiry | unifiedLoftFill | unifiedLoadTimeout | hostReadTimeout | syncTimer | ackTimer |
    stagehandSend | retransmitTimeout | entropyRestore | peerSilenceTimeout | connectionWaitTimeout | cueNotBefore |
    cueCutoff | attendCutoff | weightsLayerCutoff | weightsSlotFree | stagingComplete | writeBackStart |
    journalRecordComplete | indexCheckpoint | loftReadComplete | rulesSwitch | rulesGraceExpiry | rulesDrainComplete |
    unitFailure | hostReadCompletion | scoringBatchComplete =>
    simp only [exec, execModelRetire, execRepair, execRunStart, execRunTimeLimit, execRunEnd, execMidnightScan,
      execFencedDispatch, execCompletionInterrupt, execQueueWaitTimeout, execSafeOff, execPd6SwitchOff, execPowerOn,
      execDawn, execDawnPhaseTimeout, execDuskEnter, execDuskExit, execHoldupFlush, execPd0HoldupExpiry, execSupplyRecovery,
      execHouseWatchdog, execHoldupMeasurement, execThermalRestart, execPowerReading, execQuiesceNChange, execForceRoChange,
      execPinHoldoffExpiry, execUnifiedLoftFill, execUnifiedLoadTimeout, execHostReadTimeout, execSyncTimer, execAckTimer,
      execStagehandSend, execRetransmitTimeout, execEntropyRestore, execPeerSilenceTimeout, execConnectionWaitTimeout,
      execCueNotBefore, execCueCutoff, execAttendCutoff, execWeightsLayerCutoff, execWeightsSlotFree, execStagingComplete,
      execWriteBackStart, execJournalRecordComplete, execIndexCheckpoint, execLoftReadComplete, execRulesSwitch,
      execRulesGraceExpiry, execRulesDrainComplete, execUnitFailure, execHostReadCompletion, execScoringBatchComplete]
    repeat' first | exact goesOn_next _ | split
  -- rows of a cluster
  case alu | shi | movi | ldpc | cmp | cmpi | pred | br | call | jr | csrr | csrw | send | recv | sig | waitc | move | page |
    fence | halt | trap | addi | andi | ori | xori | ldd | ldw | ldwu | ldh | ldhu | ldb | ldbu | std | stw | sth | stb |
    put | get =>
    simp only [exec, execAlu, execShi, execMovi, execLdpc, execCmp, execCmpi, execPred, execBr, execCall, execJr, execCsrr,
      execCsrw, execSend, execRecv, execSig, execWaitc, execMove, execPage, execFence, execHalt, execTrap, execAddi,
      execAndi, execOri, execXori, execLdd, execLdw, execLdwu, execLdh, execLdhu, execLdb, execLdbu, execStd, execStw,
      execSth, execStb, execPut, execGet, immRow, loadRow, storeRow, remoteRow]
    exact coreRow_next _ _ _ _ _ _ (of_decide_eq_true h)
  case vsetvl | vop | vops | vun | vcmp | vmisc | vld | vst | vscan | tls | tmac | tred | tbc | tmov | vchain | vlane =>
    simp only [exec, execVsetvl, execVop, execVops, execVun, execVcmp, execVmisc, execVld, execVst, execVscan, execTls,
      execTmac, execTred, execTbc, execTmov, execVchain, execVlane]
    exact engRow_goesOn _ _ _ _ _ (of_decide_eq_true h)
  case sendAck | waitcTimeout | transferComplete | engineCommit | illegalInstruction | fetchFault | allotmentDispatch =>
    simp only [exec, execSendAck, execWaitcTimeout, execTransferComplete, execEngineCommit, execIllegalInstruction,
      execFetchFault, execAllotmentDispatch]
    refine goesOn_unless (by simpa [Instr.wf, okCluster] using h) ?_
    repeat' first | exact goesOn_next _ | split
  case mailboxArrival | signalArrival | clusterScrub | clusSignal | mailboxFlush =>
    simp only [exec, execMailboxArrival, execSignalArrival, execClusterScrub, execClusSignal, execMailboxFlush]
    refine goesOn_unless (by simpa [Instr.wf, okCluster, okMailbox, okCompany, okAgent, okPhysical] using h) ?_
    repeat' first | exact goesOn_next _ | split
  -- rows of queues, registers, arbiters and events
  case doorbell | adminQueueEnable | adminQueueDisable | shutdownReq | pd6Gate | pd6Ungate | epochWrite | arbCtrlWrite |
    agentMapWrite | lockWrite | sanitize | tokenBucketRelease =>
    simp only [exec, execDoorbell, execAdminQueueEnable, execAdminQueueDisable, execShutdownReq, execPd6Gate, execPd6Ungate,
      execEpochWrite, execArbCtrlWrite, execAgentMapWrite, execLockWrite, execSanitize, execTokenBucketRelease]
    refine goesOn_unless (by simpa [Instr.wf, okAgent, okQueue, okArbClass, okOffset] using h) ?_
    repeat' first | exact goesOn_next _ | split
  case registerWrite a off size v =>
    simp only [Instr.wf, okAgent, okRegister, Bool.and_eq_true, decide_eq_true_eq] at h
    have inBar : ¬bar2 + 65536 ≤ off := Nat.not_le.2 h.2
    simp only [exec, execRegisterWrite]
    refine goesOn_unless (by simp [h.1, inBar]) ?_
    repeat' first | exact goesOn_next _ | split
  case packetIntake q words =>
    exact execPacketIntake_goesOn s (okPacket_length (Bool.and_eq_true _ _ |>.mp h).2)
  case backoffExpiry | quotaWindowEnd | starvationFlag =>
    simp only [exec, execBackoffExpiry, execQuotaWindowEnd, execStarvationFlag]
    refine goesOn_unless (by simp_all [Instr.wf, okArbiter_eq, okRequester, okItem]) ?_
    repeat' first | exact goesOn_next _ | split
  case hbmRefresh =>
    exact ⟨_, if_pos (by simpa [Instr.wf, okStack, okPseudoChannel] using h)⟩
  case eventInterrupt =>
    simp only [exec, execEventInterrupt]
    refine goesOn_unless (by simpa [Instr.wf, okEvent] using h) ?_
    repeat' first | exact goesOn_next _ | split
  -- rows of the ports and of memory
  case cxlPortReset | cxlLinkUp | linkRetrain | configRequest | memoryInfoValid | ideCheckFailure | ptmDialogue |
    ptmValidTimeout | doeDiscovery | cdatRead =>
    simp only [exec, execCxlPortReset, execCxlLinkUp, execLinkRetrain, execConfigRequest, execMemoryInfoValid,
      execIdeCheckFailure, execPtmDialogue, execPtmValidTimeout, execDoeDiscovery, execCdatRead]
    refine goesOn_unless (by simpa [Instr.wf, okPort, okLd, okConfig, portOk, and_assoc] using h) ?_
    repeat' first | exact goesOn_next _ | split
  case cxlMemRead | cxlMemWrite | biSnoopTimeout =>
    simp only [exec, execCxlMemRead, execCxlMemWrite, execBiSnoopTimeout]
    refine goesOn_unless (by simpa [Instr.wf, okAgent, okLineAddress, okLineData, okWindowLine, memOk, lineOk] using h) ?_
    repeat' first | exact goesOn_next _ | split
  case birsp a line dirty =>
    simp only [Instr.wf, okAgent, okWindowLine, Bool.and_eq_true, decide_eq_true_eq] at h
    obtain ⟨⟨ha, hl⟩, hd⟩ := h
    simp only [exec, execBirsp]
    refine goesOn_unless (by cases dirty <;> simp_all [lineOk, okLineData]) ?_
    repeat' first | exact goesOn_next _ | split
  case fetchAdd | swap | cas =>
    simp only [Instr.wf, okAgent, okOffset, okAtomicSize, okCasSize, Bool.and_eq_true, decide_eq_true_eq] at h
    obtain ⟨⟨ha, ho⟩, hn⟩ := h
    exact goesOn_unless (by simp [hn]) (atomicOp_goesOn _ _ _ ha ho)
  case getLdInfo | getLdAllocations | getQosControl | getQosStatus | getQosAllocatedBw | getQosBwLimit | setLdAllocations |
    setQosControl | setQosAllocatedBw | setQosBwLimit =>
    simp only [exec, execGetLdInfo, execGetLdAllocations, execGetQosControl, execGetQosStatus, execGetQosAllocatedBw,
      execGetQosBwLimit, execSetLdAllocations, execSetQosControl, execSetQosAllocatedBw, execSetQosBwLimit, fmRefuse]
    exact fmRow_goesOn _ _ h
  case getVersion | getCapabilities | negotiateAlgorithms | getDigests | getCertificate | challenge | getMeasurements |
    keyExchange | finish | keyUpdate | endSession =>
    simp only [exec, execGetVersion, execGetCapabilities, execNegotiateAlgorithms, execGetDigests, execGetCertificate,
      execChallenge, execGetMeasurements, execKeyExchange, execFinish, execKeyUpdate, execEndSession]
    exact spdmRow_goesOn _ _ _ h
  case ideKmKeyProg | kSetGo | kSetStop =>
    simp only [exec, execIdeKmKeyProg, execKSetGo, execKSetStop]
    exact ideRow_goesOn _ _ _ _ _ h
  case spdmUnsupportedRequest =>
    simp only [Instr.wf, Bool.and_eq_true] at h
    exact goesOn_unless (by simpa [okUnsupported, spdmRequests] using h.2) (spdmRow_goesOn _ _ _ h.1)
  case shWrite | readReq | readResp | atomicResp | nak | atomicAdd | atomicCas | ack | sync | syncAck =>
    simp only [exec, execShWrite, execReadReq, execReadResp, execAtomicResp, execNak, execAtomicAdd, execAtomicCas, execAck,
      execSync, execSyncAck, inboundAtomic, dataRow]
    exact shRow_goesOn _ _ h
  case arp | neighborDiscovery =>
    simp only [exec, execArp, execNeighborDiscovery]
    exact resolution_goesOn _ _ _ _ _ _ h
  case ethLinkChange | icmpEcho | droppedFrame =>
    simp only [exec, execEthLinkChange, execIcmpEcho, execDroppedFrame]
    refine goesOn_unless (by simpa [Instr.wf, okEthPort, frameOk] using h) ?_
    repeat' first | exact goesOn_next _ | split
  -- rows of the Loft, of power and of failures
  case loftProgramComplete | stripeCloseTimer | suspendExpiry | patrolScrub | readRetryCalibration | calibrationOverdue |
    readDisturbRefresh | reclamation | staticWearLevelling | dieFailure | rebuildComplete | loftEraseComplete =>
    simp only [exec, execLoftProgramComplete, execStripeCloseTimer, execSuspendExpiry, execPatrolScrub,
      execReadRetryCalibration, execCalibrationOverdue, execReadDisturbRefresh, execReclamation, execStaticWearLevelling,
      execDieFailure, execRebuildComplete, execLoftEraseComplete]
    refine goesOn_unless (by simpa [Instr.wf, okProgram, okDie, okBlock, okHalf, dieOk, blockOk] using h) ?_
    repeat' first | exact goesOn_next _ | split
  case railReading | temperatureReading | monitorFailure =>
    simp only [exec, execRailReading, execTemperatureReading, execMonitorFailure]
    refine goesOn_unless (by simpa [Instr.wf, okReadings, okRegion] using h) ?_
    repeat' first | exact goesOn_next _ | split
  case clusterFailure | stageRowRepair | wingsRowRepair =>
    simp only [exec, execClusterFailure, execStageRowRepair, execWingsRowRepair]
    refine goesOn_unless (by simpa [Instr.wf, okPhysical, okStageRow, okStack, stageRowOk] using h) ?_
    repeat' first | exact goesOn_next _ | split
  case linkDeath =>
    simp only [Instr.wf, okLanes, Bool.and_eq_true, decide_eq_true_eq] at h
    exact execLinkDeath_goesOn s h.1 h.2
  case dawnPhaseComplete =>
    exact execDawnPhaseComplete_goesOn s h

end Sys2Proof.Machine
end

-- Commands that fail a check: the completion of the first one that fails, and nothing else.
section
/-!
The order of the checks of a command (R583, R551), and the rows of commands that fail one.
-/
namespace Sys2Proof.Machine
open Sys2Proof

/-! Fields that fail one check (R551). -/

/-- A field that offends is named, or one that lies lower. -/
theorem minBad_ne_none {l : List Bad} {off reason : Nat} (h : (true, off, reason) ∈ l) : minBad l ≠ none := by
  induction l with
  | nil => cases h
  | cons p r ih =>
    obtain ⟨b, o, re⟩ := p
    cases b with
    | false => simpa [minBad] using ih (by simpa using h)
    | true =>
      simp only [minBad]
      cases minBad r with
      | none => simp
      | some m => simp only; split <;> simp

theorem minBad_least {l : List Bad} {off reason : Nat} (h : minBad l = some (off, reason)) :
    (true, off, reason) ∈ l ∧ ∀ o r, (true, o, r) ∈ l → off ≤ o := by
  induction l generalizing off reason with
  | nil => cases h
  | cons p r ih =>
    obtain ⟨b, o, re⟩ := p
    simp only [minBad] at h
    split at h
    · next h' =>
      obtain ⟨mem, least⟩ := ih h
      exact ⟨List.mem_cons_of_mem _ mem, by simpa using least⟩
    · next none_ =>
      cases h
      refine ⟨List.mem_cons_self, fun o' re' mem => ?_⟩
      rcases List.mem_cons.mp mem with same | rest
      · cases same; exact Nat.le_refl _
      · exact absurd none_ (minBad_ne_none rest)
    · next o' re' some_ =>
      obtain ⟨mem, least⟩ := ih some_
      split at h
      · next lower =>
        cases h
        refine ⟨List.mem_cons_of_mem _ mem, fun o'' re'' m => ?_⟩
        rcases List.mem_cons.mp m with same | rest
        · cases same; exact Nat.le_of_lt lower
        · exact least _ _ rest
      · next higher =>
        cases h
        refine ⟨List.mem_cons_self, fun o'' re'' m => ?_⟩
        rcases List.mem_cons.mp m with same | rest
        · cases same; exact Nat.le_refl _
        · exact Nat.le_trans (Nat.not_lt.mp higher) (least _ _ rest)

theorem badFields_least {l : List Bad} {c : Completion} (h : badFields l = some c) :
    ∃ off reason, (true, off, reason) ∈ l ∧ c = badAt off reason ∧ ∀ o r, (true, o, r) ∈ l → off ≤ o := by
  obtain ⟨⟨off, reason⟩, hm, rfl⟩ := Option.map_eq_some_iff.mp h
  obtain ⟨mem, least⟩ := minBad_least hm
  exact ⟨off, reason, mem, rfl, least⟩

/-! The rows of commands. -/

/-- A row whose command fails a check ends it with the first that fails. -/
theorem runRow_fails {op : Nat} {r : CmdRef} {s : State} {t : Taken} {checks : Taken → State → List Chk} {c : Completion}
    (found : findRun op r s = some t) (failed : firstOf (checks t s) = some c) (go : Taken → State → State → State) :
    runRow op r s (fun t s => checked t (checks t s) s (go t s)) = .next (finish t c s) := by
  rw [runRow_found _ _ _ _ _ found, checked_fails _ _ _ _ _ failed]

theorem commandRow_outcome (i : Instr) (op : Nat) (r : CmdRef) (checks : Taken → State → List Chk) (s : State)
    (h : commandRow i = some (op, r, checks)) :
    (∀ t c, findRun op r s = some t → firstOf (checks t s) = some c →
      exec i s = .next (if op == 0x53 then settle (completeWait t (bit (word t 1) 32) c s) else finish t c s)) ∧
    (findRun op r s = none → findRunning op r s = none → exec i s = .next s) := by
  cases i
  case nop | identify | getLog | setFeature | getFeature | companyCreate | companyDestroy | companyRules | admitCompany |
    release | modelRegister | streamOpen | streamClose | streamFork | findPrefix | appendScenes | sealTail | trim | pin |
    unpin | place | migrate | cancelCue | sketchQuery | weightsLoad | weightsStream | queueCreate | queueDelete |
    queueFlush | xfer | atomic | clusterLoad | clusterRun | clusterHalt | scrubNow | selftest | fwDownload | fwCommit |
    quiesce | healthCmd | cue | deliver | attend | attendSparse =>
    cases h
    simp only [exec, execNop, execIdentify, execGetLog, execSetFeature, execGetFeature, execCompanyCreate,
      execCompanyDestroy, execCompanyRules, execAdmit, execRelease, execModelRegister, execStreamOpen, execStreamClose,
      execStreamFork, execFindPrefix, execAppendScenes, execSeal, execTrim, execPin, execUnpin, execPlace, execMigrate,
      execCancelCue, execSketchQuery, execWeightsLoad, execWeightsStream, execQueueCreate, execQueueDelete, execQueueFlush,
      execXfer, execAtomic, execClusterLoad, execClusterRun, execClusterHalt, execScrubNow, execSelftest, execFwDownload,
      execFwCommit, execQuiesce, execHealth, execCue, execDeliver, execAttend, execAttendSparse, runCue, runAttend]
    exact ⟨fun _ _ found failed => runRow_fails found failed _, fun absent _ => runRow_absent _ _ _ _ absent⟩
  case queueWait =>
    cases h
    simp only [exec, execQueueWait]
    refine ⟨fun t c found failed => ?_, fun absent _ => runRow_absent _ _ _ _ absent⟩
    simp only [runRow_found _ _ _ _ _ found, failed]
    rfl
  case modelRetire =>
    cases h
    refine ⟨fun t c found failed => ?_, fun absent waits => ?_⟩
    · simp only [exec, execModelRetire, found, checked_fails _ _ _ _ _ failed]
      rfl
    · simp only [exec, execModelRetire, absent, waits]
  case repair =>
    cases h
    refine ⟨fun t c found failed => ?_, fun absent waits => ?_⟩
    · simp only [exec, execRepair, found, checked_fails _ _ _ _ _ failed]
      rfl
    · simp only [exec, execRepair, absent, waits]
  all_goals cases h

/-- Settles O7: the form of a command's row, and the field of least offset among those that offend. -/
theorem failedCheckEndsCommand : Obligations.FailedCheckEndsCommand :=
  ⟨commandRow_outcome, fun _ _ => badFields_least⟩

end Sys2Proof.Machine
end

-- The store commands: companies, admission, models, streams and prefixes.
section
/-!
What the checks of a command establish once they pass, and the effects of the company, admission, model, stream and chain
commands.
-/
namespace Sys2Proof.Machine
open Sys2Proof

/-! What passed checks establish. -/

theorem firstOf_eq_none {l : List Chk} : firstOf l = none ↔ ∀ c ∈ l, c = none := by
  induction l with
  | nil => simp [firstOf]
  | cons c r ih => cases c <;> simp [firstOf, ih]

/-- A field of a packet that passes does not offend. -/
theorem field_passes {l : List Bad} (h : badFields l = none) {b : Bool} {p : Nat × Nat} (mem : (b, p) ∈ l) : b = false := by
  cases b with
  | false => rfl
  | true => exact absurd (Option.map_eq_none_iff.mp h) (minBad_ne_none mem)

/-- A field that names something where it counts. -/
theorem isSome_of_not_isNone {α : Type} {o : Option α} (h : (true && o.isNone) = false) : ∃ x, o = some x := by
  cases o with
  | none => cases h
  | some x => exact ⟨x, rfl⟩

theorem isSome_of_isNone_check {α : Type} {o : Option α} {c : Completion}
    (h : (if o.isNone then some c else none) = none) : ∃ x, o = some x := by
  cases o with
  | none => cases h
  | some x => exact ⟨x, rfl⟩

theorem isSome_of_isSome_check {α : Type} {o : Option α} {c : Completion}
    (h : (if o.isSome then none else some c) = none) : ∃ x, o = some x := by
  cases o with
  | none => cases h
  | some x => exact ⟨x, rfl⟩

/-- Room that a check beside another one has found. -/
theorem room_of_check {α : Type} {b : Bool} {o : Option α} {c : Completion}
    (h : (if b || o.isNone then some c else none) = none) : ∃ x, o = some x := by
  cases o with
  | none => simp at h
  | some x => exact ⟨x, rfl⟩

theorem lt_of_limit_check {n k : Nat} {c : Completion} (h : (if n ≤ k then some c else none) = none) : k < n := by
  simpa using h

theorem exists_key_of_khas {α : Type} {m : KMap α} {n : Nat} (h : khas m n = true) : n ∈ m.map (·.1) := by
  induction m with
  | nil => cases h
  | cons p r ih =>
    obtain ⟨k, v⟩ := p
    simp only [khas, kget] at h ih
    split at h
    · next hk => exact hk ▸ List.mem_cons_self
    · exact List.mem_cons_of_mem _ (ih h)

/-- A map of fewer than n entries has a free number below n. -/
theorem kfree_isSome {α : Type} {m : KMap α} {n : Nat} (h : m.length < n) : ∃ k, kfree m n = some k := by
  rw [← Option.isSome_iff_exists, kfree, List.find?_isSome]
  refine Classical.byContradiction fun full => ?_
  have taken : List.range n ⊆ m.map (·.1) := fun k hk => exists_key_of_khas (by
    refine Classical.byContradiction fun free => full ⟨k, hk, ?_⟩
    rw [Bool.not_eq_true] at free
    rw [free]
    rfl)
  have most := List.nodup_range.length_le_of_subset taken
  rw [List.length_range, List.length_map] at most
  exact Nat.not_lt.mpr most h

/-- Settles O9: each command by what its row does once the checks pass; ADMIT's and MODEL_REGISTER's checks find the room. -/
theorem companyCommandsComplete : Obligations.CompanyCommandsComplete := by
  intro r s t c
  refine ⟨fun h => ?create, fun h => ?destroy, fun h => ?rules, fun h => ?admitted, fun h idle => ?release, fun h => ?register,
    fun h => ?retire⟩
  case create =>
    simp only [exec, execCompanyCreate, runRow_passes h]
    rfl
  case destroy =>
    simp only [exec, execCompanyDestroy, runRow_passes h]
    rfl
  case rules => simp only [exec, execCompanyRules, runRow_passes h]; rfl
  case admitted =>
    have passed := h.2
    simp only [firstOf_eq_none, admitChecks, List.forall_mem_cons] at passed
    obtain ⟨-, -, -, -, room, -⟩ := passed
    obtain ⟨s1, hs⟩ := room_of_check room
    refine ⟨s1, hs, ?_⟩
    simp only [exec, execAdmit, runRow_passes h, hs]
    rfl
  case release =>
    simp only [exec, execRelease, runRow_passes h]
    rw [if_neg (by simpa using idle)]
    rfl
  case register =>
    have passed := h.2
    simp only [firstOf_eq_none, modelRegisterChecks, List.forall_mem_cons] at passed
    obtain ⟨-, -, -, -, -, -, -, -, -, room, -⟩ := passed
    obtain ⟨k, hk⟩ := kfree_isSome (lt_of_limit_check room)
    refine ⟨k, hk, ?_⟩
    simp only [exec, execModelRegister, runRow_passes h, hk]
    rfl
  case retire =>
    obtain ⟨found, passed⟩ := h
    simp only [exec, execModelRetire, found, checked_passes _ _ _ _ passed]
    rfl

end Sys2Proof.Machine
end

-- The commands of streams, prefixes and their tails.
section
/-!
The effects of the commands of streams and chains once their checks pass (R607 to R623).
-/
namespace Sys2Proof.Machine
open Sys2Proof

/-- Settles O10: each command by its row; the checks find the streams, scenes and room that the effect speaks of. -/
theorem streamCommandsComplete : Obligations.StreamCommandsComplete := by
  intro r s t
  dsimp only
  refine ⟨fun p => ?open_, fun p => ?close, fun p whole => ?fork, fun p prefix_ => ?rooted, fun p => ?find, fun p => ?append,
    fun p => ?sealed, fun p => ?trim⟩
  case open_ =>
    have passed := p.2
    simp only [firstOf_eq_none, streamOpenChecks, List.forall_mem_cons] at passed
    obtain ⟨-, -, -, -, room, -⟩ := passed
    obtain ⟨s1, hs⟩ := isSome_of_isSome_check room
    refine ⟨s1, hs, ?_⟩
    simp only [exec, execStreamOpen, runRow_passes p]
    rw [hs]
    rfl
  case close => simp only [exec, execStreamClose, runRow_passes p]
  case fork =>
    have passed := p.2
    simp only [firstOf_eq_none, streamForkChecks, whole, List.forall_mem_cons] at passed
    obtain ⟨-, fields, -, room, -⟩ := passed
    have present := field_passes fields (b := true && (openStream s t.company (low (word t 2))).isNone) (p := (128, 4))
      (List.mem_append_right _ (by simp [bads]))
    obtain ⟨u, hu⟩ := isSome_of_not_isNone present
    obtain ⟨s1, hs⟩ := isSome_of_isNone_check room
    rw [hu] at hs
    refine ⟨u, s1, hu, hs, ?_⟩
    simp only [exec, execStreamFork, runRow_passes p, hu, whole, hs]
    rfl
  case rooted =>
    have passed := p.2
    simp only [firstOf_eq_none, streamForkChecks, prefix_, List.forall_mem_cons] at passed
    obtain ⟨-, fields, -, room, -⟩ := passed
    generalize hid : BitVec.ofNat 128 ((word t 2).toNat + (word t 3).toNat * 2 ^ 64) = id at fields ⊢
    have present := field_passes fields
      (b := !false && ((findScene s t.company id).filter fun x => !x.retired && id != 0).isNone)
      (p := (128, 2)) (List.mem_append_right _ (by simp [bads]))
    obtain ⟨x, hf⟩ := isSome_of_not_isNone present
    obtain ⟨hx, live⟩ := Option.filter_eq_some_iff.mp hf
    obtain ⟨s1, hs⟩ := isSome_of_isNone_check room
    have live : x.retired = false := by simpa using (Bool.and_eq_true _ _ |>.mp live).1
    -- whatever the source field holds, no tail is copied
    cases hu : openStream s t.company (low (word t 2)) with
    | none | some u =>
      simp only [hu, Bool.false_and, Bool.false_eq_true, if_false] at hs
      refine ⟨x, s1, hx, live, hs, ?_⟩
      simp only [exec, execStreamFork, runRow_passes p, hu, prefix_, hid, hf, Bool.false_and, Bool.false_eq_true, if_false, hs]
      rfl
  case find => simp only [exec, execFindPrefix, runRow_passes p]
  case append =>
    have passed := p.2
    simp only [firstOf_eq_none, appendScenesChecks, List.forall_mem_cons] at passed
    obtain ⟨-, fields, -, -, room, -⟩ := passed
    obtain ⟨s1, hs⟩ := isSome_of_isNone_check room
    have present := field_passes fields (p := (64, 3)) (List.mem_append_right _ (List.mem_cons_self))
    obtain ⟨u, hu⟩ := isSome_of_not_isNone present
    rw [hu] at hs
    refine ⟨u, s1, hu, hs, ?_⟩
    simp only [exec, execAppendScenes, runRow_passes p, hu]
    rw [hs]
    rfl
  case sealed =>
    simp only [exec, execSeal, runRow_passes p] <;> rfl
  case trim => simp only [exec, execTrim, runRow_passes p]

end Sys2Proof.Machine
end

-- The commands of placement, delivery, attention, cluster runs, queues and maintenance.
section
/-!
The effects of the other commands of the Paulou queues once their checks pass.
-/
namespace Sys2Proof.Machine
open Sys2Proof

/-- PLACE and MIGRATE that pass have made their room: in the Loft, none is made before they act. -/
theorem moveRoom_of_check {t : Taken} {o : PlaceObj} {tier : Nat} {s : State} (h : moveRoomCheck t o tier s = none) :
    ∃ u, moveRoom t o tier s = some u := by
  unfold moveRoomCheck at h
  split at h
  · next loft => exact ⟨s, by rw [moveRoom, beq_iff_eq.mp loft]; rfl⟩
  · exact isSome_of_isSome_check h

/-- Settles O11: each command by its row; the checks find the room, and an object to create has no page to lose. -/
theorem placementCommandsComplete : Obligations.PlacementCommandsComplete := by
  intro r s t
  dsimp only
  refine ⟨fun p => ?pin, fun p => ?unpin, fun p new keep => ?create, fun p gone => ?free, fun p old keep whole => ?place,
    fun p whole => ?migrate, fun q lost => ⟨fun p keep => ?placeLost, fun p => ?migrateLost⟩, fun p none_ => ?unload,
    fun p some_ => ?load, fun p => ?image⟩
  case pin => simp only [exec, execPin, runRow_passes p]
  case unpin => simp only [exec, execUnpin, runRow_passes p]
  case create =>
    have passed := p.2
    simp only [firstOf_eq_none, placeChecks, List.forall_mem_cons] at passed
    obtain ⟨-, -, -, room, -⟩ := passed
    simp only [keep, Bool.false_eq_true, if_false] at room
    obtain ⟨s1, hs⟩ := moveRoom_of_check room
    refine ⟨s1, hs, ?_⟩
    rw [new] at hs
    have stays : moveLost t .create (fld (word t 1) 57 56) s = none := by simp [moveLost, movePages, objScenes, objSets]
    simp only [exec, execPlace, runRow_passes p, keep, new, stays, hs]
    rfl
  case free =>
    simp only [exec, execPlace, runRow_passes p, gone]
    rfl
  case place =>
    have passed := p.2
    simp only [firstOf_eq_none, placeChecks, List.forall_mem_cons] at passed
    obtain ⟨-, -, -, room, -⟩ := passed
    simp only [keep, Bool.false_eq_true, if_false] at room
    obtain ⟨s1, hs⟩ := moveRoom_of_check room
    refine ⟨s1, hs, ?_⟩
    simp only [exec, execPlace, runRow_passes p, keep, whole, hs]
    cases ho : placeObj t s with
    | create => exact absurd ho old
    | _ => rfl
  case migrate =>
    have passed := p.2
    simp only [firstOf_eq_none, migrateChecks, List.forall_mem_cons] at passed
    obtain ⟨-, -, -, room, -⟩ := passed
    obtain ⟨s1, hs⟩ := moveRoom_of_check room
    refine ⟨s1, hs, ?_⟩
    simp only [exec, execMigrate, runRow_passes p, whole, hs]
    rfl
  case placeLost =>
    simp only [exec, execPlace, runRow_passes p, keep, lost]
    rfl
  case migrateLost =>
    simp only [exec, execMigrate, runRow_passes p, lost]
  case unload =>
    simp only [exec, execWeightsLoad, runRow_passes p, none_]
    rfl
  case load =>
    have passed := p.2
    simp only [firstOf_eq_none, weightsLoadChecks, List.forall_mem_cons] at passed
    obtain ⟨-, -, -, -, -, -, room, -⟩ := passed
    obtain ⟨s1, hs⟩ := isSome_of_isNone_check room
    refine ⟨s1, hs, ?_⟩
    simp only [exec, execWeightsLoad, runRow_passes p, hs]
    rw [if_neg (by simpa using some_)]
    rfl
  case image => simp only [exec, execClusterLoad, runRow_passes p]

/-- Settles O12: each command by its row; no item of a CUE that may go on is retired. -/
theorem deliveryCommandsComplete : Obligations.DeliveryCommandsComplete := by
  intro r s t
  dsimp only
  refine ⟨fun isCue p whole => ?cue, fun p => ?cancel, fun p whole => ?stream, fun p => ?xfer, fun p => ?atomic⟩
  case cue =>
    have stays : (if bit (word t 2) 50 || t.cancelled then none
        else indexWhere (fun i : CueItem => isRetired s t.company i.scene) ((parseList t s).entries.flatMap entryItems)) = none := by
      rcases whole with h | h | h <;> simp [h]
    cases isCue with
    | true | false =>
      simp only [exec, execCue, execDeliver, runCue, if_true, if_false, Bool.false_eq_true] at p ⊢
      rw [runRow_passes p]
      simp only [stays]
  case cancel => simp only [exec, execCancelCue, runRow_passes p] <;> rfl
  case stream =>
    simp only [exec, execWeightsStream, runRow_passes p, whole]
    rfl
  case xfer => simp only [exec, execXfer, runRow_passes p]
  case atomic => simp only [exec, execAtomic, runRow_passes p]

/-- Settles O13: each command by its row. -/
theorem computeCommandsComplete : Obligations.ComputeCommandsComplete := by
  intro r s t
  refine ⟨fun p fits => ?attend, fun p fits => ?sparse, fun p => ?sketch, fun p => ?run, fun p => ?halt⟩
  case attend =>
    simp only [exec, execAttend, runAttend, runRow_passes p]
    rw [if_neg (Nat.not_lt.2 fits)]
    rfl
  case sparse =>
    simp only [exec, execAttendSparse, runAttend, runRow_passes p]
    rw [if_neg (Nat.not_lt.2 fits)]
    rfl
  case sketch => simp only [exec, execSketchQuery, runRow_passes p]
  case run => simp only [exec, execClusterRun, runRow_passes p]
  case halt => simp only [exec, execClusterHalt, runRow_passes p] <;> rfl

/-- Settles O14: each command by its row; company 0 needs no room for an overflow area. -/
theorem queueCommandsComplete : Obligations.QueueCommandsComplete := by
  intro r s t
  dsimp only
  refine ⟨fun p => ?create, fun p => ?delete, fun p => ?flush, fun p => ?wait⟩
  case create =>
    have passed := p.2
    simp only [firstOf_eq_none, queueCreateChecks, List.forall_mem_cons] at passed
    obtain ⟨-, -, -, -, -, room, -⟩ := passed
    simp only [exec, execQueueCreate, runRow_passes p]
    by_cases hc : t.company = 0
    · exact ⟨s, by simp [hc], by simp [hc, inRoomMade]⟩
    · rw [if_neg (by simpa using hc)] at room
      obtain ⟨s1, hs⟩ := isSome_of_isSome_check room
      exact ⟨s1, by simp [hc, hs], by simp [hc, hs, inRoomMade]⟩
  case delete =>
    simp only [exec, execQueueDelete, runRow_passes p]
  case flush =>
    simp only [exec, execQueueFlush, runRow_passes p]
  case wait =>
    obtain ⟨found, passed⟩ := p
    simp only [exec, execQueueWait, runRow_found _ _ _ _ _ found, passed]

/-- Settles O15: each command by its row; FW_COMMIT by the verdict on its slot and the lock. -/
theorem maintenanceCommandsComplete : Obligations.MaintenanceCommandsComplete := by
  intro r o s t
  dsimp only
  refine ⟨fun p => ?scrub, fun p => ?repair, fun p => ?selftest, fun p => ?download, fun p => ?commit⟩
  case scrub => simp only [exec, execScrubNow, runRow_passes p]
  case repair =>
    obtain ⟨found, passed⟩ := p
    simp only [exec, execRepair, found, checked_passes _ _ _ _ passed]
  case selftest => simp only [exec, execSelftest, runRow_passes p]
  case download => simp only [exec, execFwDownload, runRow_passes p]
  case commit =>
    simp only [exec, execFwCommit, runRow_passes p]
    refine ⟨fun good free => ?_, fun good act locked => ?_, fun bad => ?_⟩
    · rw [if_neg (by simp [good]), if_neg (by rcases free with h | h <;> simp [h])]
      rfl
    · rw [if_neg (by simp [good]), if_pos (by simp [act, locked])]
    · rw [if_pos (by simp [bad])]
end Sys2Proof.Machine
end

-- The core's rows: what each form of outcome is, and the instructions that stay in the core.
section
/-!
The form of a core row said once, outcome by outcome (R434 to R436, R440, R468, R512), and the arithmetic, predicate, branch and CSR
instructions.
-/
namespace Sys2Proof.Machine
open Sys2Proof

/-! The outcomes of a core row. -/

section CoreRow
variable {op c : Nat} {legal : Word32 → Bool} {regs : Word32 → List Nat} {body : CoreCtx → State → CoreRes} {s : State}
  {x : CoreCtx}

theorem coreRow_absent (hc : c < 160) (hr : running c s = none) : coreRow op c legal regs body s = .next s := by
  rw [coreRow, if_neg (Nat.not_le.mpr hc), hr]

theorem coreRow_otherOpcode (hc : c < 160) (hr : running c s = some x) (ho : opOf x.w ≠ op) :
    coreRow op c legal regs body s = .next s := by
  rw [coreRow, if_neg (Nat.not_le.mpr hc), hr]
  simp [ho]

theorem coreRow_unguarded (hc : c < 160) (hr : running c s = some x) (hf : fetched x = true) (ho : opOf x.w = op)
    (hq : x.cl.engQ = []) (hl : legal x.w = true) (hg : guardOf x = false) :
    coreRow op c legal regs body s = .next (setCore x nextPc s) := by
  rw [coreRow, if_neg (Nat.not_le.mpr hc), hr]
  simp [hf, ho, hq, hl, hg]

theorem coreRow_unsettled (hc : c < 160) (hr : running c s = some x) (hf : fetched x = true) (ho : opOf x.w = op)
    (hq : x.cl.engQ = []) (hl : legal x.w = true) (hg : guardOf x = true)
    (hp : (regs x.w).any (fun r => x.cl.core.pendRd.contains r) = true) : coreRow op c legal regs body s = .next s := by
  rw [coreRow, if_neg (Nat.not_le.mpr hc), hr]
  simp only [hf, ho, hq, hl, hg, hp]
  simp

/-- An instruction that issues and faults, with no engine instruction before it. -/
theorem coreRow_fault (h : Issues op c legal regs s x) (hq : x.cl.engQ = []) {code info : Nat}
    (hb : body x s = .fault code info) :
    coreRow op c legal regs body s = .next (coreFault x code info x.cl.core.pc.toNat s) := by
  rw [coreRow, if_neg (Nat.not_le.mpr h.inRange), h.runs]
  simp only [h.inImage, h.opcode, h.noFault, h.isLegal, h.guarded, h.settled, hb]
  simp [faultWhenClear_of_empty hq]

end CoreRow

/-! A cluster in a run. -/

/-- What the context of a core says: the physical cluster, its run, and the word at its pc. -/
structure Context (c : Nat) (s : State) (x : CoreCtx) : Prop where
  phys    : physOf s c = some x.p
  logical : x.c = c
  cluster : cluster s x.p = x.cl
  inRun   : ∃ seq, x.cl.run = some seq ∧ runOf s seq = some x.run
  word    : x.w = x.cl.imem.getD (x.cl.core.pc.toNat / 4) 0

theorem clusterIn_some {c : Nat} {s : State} {x : CoreCtx} (h : clusterIn c s = some x) : Context c s x := by
  unfold clusterIn at h
  split at h
  · cases h
  next p hp =>
    simp only at h
    split at h
    · cases h
    next r hr =>
      cases h
      obtain ⟨seq, hseq, hrun⟩ := Option.bind_eq_some_iff.mp hr
      exact ⟨hp, rfl, rfl, ⟨seq, hseq, hrun⟩, rfl⟩

theorem running_clusterIn {c : Nat} {s : State} {x : CoreCtx} (h : running c s = some x) : clusterIn c s = some x :=
  (Option.filter_eq_some_iff.mp h).1

/-- Two changes of a cluster that agree on it as it stands leave the same state. -/
theorem modCluster_congr {p : Nat} {f g : Cluster → Cluster} {s : State} (h : f (cluster s p) = g (cluster s p)) :
    modCluster p f s = modCluster p g s := by
  simp only [modCluster, kmodD]
  exact congrArg (fun y => { s with clusters := kset s.clusters p y }) h

/-- Every core instruction is a core row of its opcode, its legal encodings and the registers it names. -/
theorem exec_coreInstr {i : Instr} {op c : Nat} {legal : Word32 → Bool} {regs : Word32 → List Nat}
    (h : coreInstr i = some (op, c, legal, regs)) : ∃ body, ∀ s, exec i s = coreRow op c legal regs body s := by
  cases i
  case alu | addi | andi | ori | xori | shi | movi | ldpc | cmp | cmpi | pred | ldd | ldw | ldwu | ldh | ldhu | ldb | ldbu |
    std | stw | sth | stb | br | call | jr | csrr | csrw | send | recv | put | get | sig | waitc | move | page | fence |
    halt | trap =>
    cases h
    simp only [exec, execAlu, execAddi, execAndi, execOri, execXori, immRow, execShi, execMovi, execLdpc, execCmp, execCmpi, execPred,
      execLdd, execLdw, execLdwu, execLdh, execLdhu, execLdb, execLdbu, loadRow, execStd, execStw, execSth, execStb, storeRow,
      execBr, execCall, execJr, execCsrr, execCsrw, execSend, execRecv, execPut, execGet, execSig, execWaitc, execMove,
      execPage, execFence, execHalt, execTrap]
    exact ⟨_, fun _ => rfl⟩
  all_goals cases h

/-- Settles O17: by the outcomes of a core row. -/
theorem guardsAndIllegalEncodings : Obligations.GuardsAndIllegalEncodings := by
  intro i op c legal regs s x h hc
  obtain ⟨body, he⟩ := exec_coreInstr h
  rw [he]
  exact ⟨coreRow_absent hc, coreRow_otherOpcode hc, fun hr hf ho hq =>
    ⟨coreRow_illegal regs body hc hr hf ho hq, coreRow_unguarded hc hr hf ho hq, coreRow_unsettled hc hr hf ho hq⟩⟩

/-! Arithmetic (R434 to R437). -/

/-- Settles O18: each instruction by its row; SHI by the kind of its shift. -/
theorem arithmeticWritesRd : Obligations.ArithmeticWritesRd := by
  intro c s x
  refine ⟨fun h => ?alu, fun h => ?addi, fun h => ?andi, fun h => ?ori, fun h => ?xori, fun h => ?shi, fun h => ?movi,
    fun h within => ?ldpc⟩
  case shi =>
    simp only [exec, execShi]
    exact coreRow_done _ _ _ _ _ _ _ _ h (by simp only [beq_iff_eq, ret_eq])
  case ldpc =>
    simp only [exec, execLdpc, imm17]
    rw [← ret_eq]
    exact coreRow_done _ _ _ _ _ _ _ _ h ((if_neg Bool.false_ne_true).trans (if_pos within))
  all_goals
    simp only [exec, execAlu, execAddi, execAndi, execOri, execXori, immRow, execMovi]
    rw [← ret_eq]
    exact coreRow_done _ _ _ _ _ _ _ _ h rfl

/-- Going on after a change of the core that leaves its pc. -/
theorem setCore_nextPc {f : Core → Core} (hf : ∀ k, (f k).pc = k.pc) (x : CoreCtx) (s : State) :
    setCore x (fun k => nextPc (f k)) s
      = modCluster x.p (fun cl => { cl with core := { f cl.core with pc := cl.core.pc + 4 } }) s := by
  simp [setCore, nextPc, hf]

/-! Predicates (R438, R439). -/

/-- Settles O20: CMP and CMPI by their rows, PRED by its function. -/
theorem predicatesAreWritten : Obligations.PredicatesAreWritten := by
  intro c s x
  refine ⟨fun h => ?cmp, fun h => ?cmpi, fun h => ⟨fun hf => ?combine, fun hf => ?get, fun hf => ?set⟩⟩
  case cmp | cmpi =>
    simp only [exec, execCmp, execCmpi]
    rw [← setCore_nextPc (setP_pc _ _)]
    exact coreRow_done _ _ _ _ _ _ _ _ h rfl
  case combine =>
    have h4 : ¬ (fnOf x.w == 4) = true := by simp; omega
    have h5 : ¬ (fnOf x.w == 5) = true := by simp; omega
    simp only [exec, execPred]
    rw [← setCore_nextPc (setP_pc _ _)]
    refine coreRow_done _ _ _ _ _ _ _ _ h ((if_neg h4).trans ((if_neg h5).trans (congrArg _ (modCluster_congr ?_))))
    rw [(clusterIn_some (running_clusterIn h.runs)).cluster]
  case get =>
    have h4 : (fnOf x.w == 4) = true := by simp [hf]
    simp only [exec, execPred]
    rw [← ret_eq]
    exact coreRow_done _ _ _ _ _ _ _ _ h (if_pos h4)
  case set =>
    have h4 : ¬ (fnOf x.w == 4) = true := by simp [hf]
    have h5 : (fnOf x.w == 5) = true := by simp [hf]
    simp only [exec, execPred]
    exact coreRow_done _ _ _ _ _ _ _ _ h ((if_neg h4).trans (if_pos h5))

/-! Branches, fences and the exceptions (R436, R468, R469, R514, R515). -/

/-- Settles O24: each by its row, and the two exceptions by their definitions. -/
theorem branchesFencesAndTraps : Obligations.BranchesFencesAndTraps := by
  intro c s x
  refine ⟨fun h => ?br, fun h => ?call, fun h => ⟨fun word => ?jump, fun word hq => ?align⟩, fun h clear => ?fence,
    fun h clear hq => ?halt, fun h hq => ?trap, fun hc hr hf hu hq => ?illegal, fun hc hr hf hq => ?fetch⟩
  case br | call =>
    simp only [exec, execBr, execCall]
    exact coreRow_done _ _ _ _ _ _ _ _ h rfl
  case jump =>
    simp only [exec, execJr]
    exact coreRow_done _ _ _ _ _ _ _ _ h (if_neg (by simp [word]))
  case align =>
    simp only [exec, execJr]
    exact coreRow_fault h hq (if_pos (by simp [word]))
  case fence =>
    simp only [exec, execFence]
    exact coreRow_done _ _ _ _ _ _ _ _ h (if_pos clear)
  case halt =>
    simp only [exec, execHalt]
    exact coreRow_done _ _ _ _ _ _ _ _ h (if_pos (by simp [clear, hq]))
  case trap =>
    simp only [exec, execTrap]
    exact coreRow_fault h hq rfl
  case illegal =>
    rw [exec, execIllegalInstruction, if_neg (Nat.not_le.mpr hc), hr]
    simp [hf, hu, hq, faultWhenClear_of_empty hq]
  case fetch =>
    rw [exec, execFetchFault, if_neg (Nat.not_le.mpr hc), hr]
    simp [hf, hq, faultWhenClear_of_empty hq]

/-! The CSRs (R442, R443, R518). -/

/-- Settles O25: by the range the CSR's number lies in. -/
theorem csrsAreReadAndWritten : Obligations.CsrsAreReadAndWritten := by
  intro c s x
  refine ⟨fun h clear => ?read, fun h => ⟨fun lo hi => ?mbxCfg, fun lo hi inside low => ?cntSrc,
    fun lo hi hq lo' hi' => ?reserved, fun lo hi hq low out => ?remote, fun lo hi => ?cnt, fun e lo hq he => ?engine⟩⟩
  case read =>
    have ready : ¬ (engineCsr (fw x.w 11 0) && !x.cl.engQ.isEmpty) = true := by
      intro hn
      obtain ⟨he, hq⟩ := Bool.and_eq_true_iff.mp hn
      simp [clear he] at hq
    simp only [exec, execCsrr]
    exact coreRow_done _ _ _ _ _ _ _ _ h (if_neg ready)
  all_goals simp only [exec, execCsrw]
  case mbxCfg => exact coreRow_done _ _ _ _ _ _ _ _ h (if_pos hi)
  case cntSrc =>
    refine coreRow_done _ _ _ _ _ _ _ _ h ((if_neg (by omega)).trans ((if_pos hi).trans ((if_neg ?_).trans (if_neg ?_))))
    · simp; omega
    · simpa using inside
  case reserved =>
    exact coreRow_fault h hq ((if_neg (by omega)).trans ((if_pos hi).trans (if_pos (by simp [lo', hi']))))
  case remote =>
    exact coreRow_fault h hq ((if_neg (by omega)).trans ((if_pos hi).trans ((if_neg (by simp; omega)).trans
      (if_pos (by simp [low, out])))))
  case cnt =>
    exact coreRow_done _ _ _ _ _ _ _ _ h ((if_neg (by omega)).trans ((if_neg (by omega)).trans (if_pos hi)))
  case engine =>
    refine coreRow_done _ _ _ _ _ _ _ _ h ((if_neg (by omega)).trans ((if_neg (by omega)).trans ((if_neg (by omega)).trans
      ((if_neg (by simp [hq])).trans ?_))))
    rw [he]
    rfl

/-! Loads (R441). -/

theorem drop_leBytes (k : Nat) : ∀ j w, (leBytes j w).drop k = leBytes (j - k) (w / 256 ^ k) := by
  induction k with
  | zero => intro j w; simp
  | succ k ih =>
    intro j w
    cases j with
    | zero => simp [leBytes]
    | succ j =>
      simp only [leBytes, List.drop_succ_cons, ih, Nat.add_sub_add_right, Nat.div_div_eq_div_mul]
      rw [Nat.pow_succ']

theorem take_leBytes (n : Nat) : ∀ j w, n ≤ j → (leBytes j w).take n = leBytes n w := by
  induction n with
  | zero => intro j w _; simp [leBytes]
  | succ n ih =>
    intro j w h
    cases j with
    | zero => omega
    | succ j => simp [leBytes, ih j (w / 256) (by omega)]

theorem leNat_leBytes (n : Nat) : ∀ w, leNat (leBytes n w) = w % 256 ^ n := by
  induction n with
  | zero => intro w; simp [leNat, leBytes, Nat.mod_one]
  | succ n ih =>
    intro w
    simp only [leBytes, leNat, ih]
    rw [Nat.pow_succ', Nat.mod_mul, BitVec.toNat_ofNat, Nat.mod_mod]

/-- The bytes of an aligned part of a word, as a number. -/
theorem leNat_part {n k j : Nat} (h : k + n ≤ j) (w : Nat) :
    leNat (((leBytes j w).drop k).take n) = w / 256 ^ k % 256 ^ n := by
  rw [drop_leBytes, take_leBytes _ _ _ (by omega), leNat_leBytes]

theorem areaLoad_of_settled {c : Cluster} {a n : Nat} (h : ∀ k, k < n → landing c (a + k) = false) (f : Nat) :
    areaLoad c f a n = (upto n).map fun k => areaByte c (a + k) :=
  List.map_congr_left fun k hk => by simp [h k (List.mem_range.mp hk)]

/-- The size of a load or store divides 8. -/
def accessSize (n : Nat) : Prop := n = 1 ∨ n = 2 ∨ n = 4 ∨ n = 8

theorem aligned_fits {a n : Nat} (hn : accessSize n) (h : a % n = 0) : a % 8 + n ≤ 8 := by
  obtain rfl | rfl | rfl | rfl := hn <;> omega

/-- What a load does, of whichever opcode. -/
theorem loadRow_cases {c op n : Nat} {signed : Bool} {s : State} {x : CoreCtx} (hn : accessSize n)
    (h : Issues op c always regsI s x) :
    let a := (sreg x.cl.core (raOf x.w) + imm12 x.w).toNat
    (a % n = 0 → a + n ≤ x.cl.wlimit → storesDone x = true → (∀ k, k < n → landing x.cl (a + k) = false) →
      let v := leNat ((upto n).map fun k => areaByte x.cl (a + k))
      loadRow op c n signed false s = .next (ret x (rdOf x.w) (if signed then sext (8 * n) v else w64 v) (spend s))) ∧
    (a % n = 0 → x.cl.wlimit < a + n → 0x1000000 ≤ a → a + n ≤ 0x1010000 →
      let v := (imemWord x.cl ((a - 0x1000000) / 8 * 8)).toNat / 256 ^ (a % 8) % 256 ^ n
      loadRow op c n signed false s = .next (ret x (rdOf x.w) (if signed then sext (8 * n) v else w64 v) s)) ∧
    (x.cl.engQ = [] → a % n = 0 → storesDone x = true →
      (a + n ≤ x.cl.wlimit ∨ (0x1000000 ≤ a ∧ a + n ≤ 0x1010000)) →
      loadRow op c n signed true s = .next (coreFault x 10 0 x.cl.core.pc.toNat s)) ∧
    (∀ e, x.cl.engQ = [] → a % n ≠ 0 → loadRow op c n signed e s = .next (coreFault x 3 0 x.cl.core.pc.toNat s)) ∧
    (∀ e, x.cl.engQ = [] → a % n = 0 → x.cl.wlimit < a + n → (a < 0x1000000 ∨ 0x1010000 < a + n) →
      loadRow op c n signed e s = .next (coreFault x 5 0 x.cl.core.pc.toNat s)) := by
  intro a
  have isWord (h : a % n = 0) : ¬ (a % n != 0) = true := by rw [bne_iff_ne]; exact not_not_intro h
  have inImage (lo : 0x1000000 ≤ a) (hi : a + n ≤ 0x1010000) : (decide (imemBase ≤ a) && decide (a + n ≤ imemBase + 65536)) = true :=
    Bool.and_eq_true_iff.mpr ⟨decide_eq_true lo, decide_eq_true hi⟩
  refine ⟨fun word low done settled => ?area, fun word high lo hi => ?image, fun hq word done inside => ?ecc,
    fun e hq odd => ?align, fun e hq word high out => ?range⟩
  case area =>
    refine coreRow_done _ _ _ _ _ _ _ _ h ((if_neg (isWord word)).trans ((if_pos low).trans
      ((if_neg (by simp [done])).trans ((if_neg Bool.false_ne_true).trans ?_))))
    rw [areaLoad_of_settled settled]
    rfl
  case image =>
    refine coreRow_done _ _ _ _ _ _ _ _ h ((if_neg (isWord word)).trans ((if_neg (Nat.not_le.mpr high)).trans
      ((if_pos (inImage lo hi)).trans ((if_neg Bool.false_ne_true).trans ?_))))
    dsimp only
    rw [leNat_part (aligned_fits hn word)]
    rfl
  case ecc =>
    refine coreRow_fault h hq ((if_neg (isWord word)).trans ?_)
    by_cases low : a + n ≤ x.cl.wlimit
    · exact (if_pos low).trans ((if_neg (by simp [done])).trans (if_pos rfl))
    · obtain ⟨lo, hi⟩ := inside.resolve_left low
      exact (if_neg low).trans ((if_pos (inImage lo hi)).trans (if_pos rfl))
  case align => exact coreRow_fault h hq (if_pos (bne_iff_ne.mpr odd))
  case range =>
    refine coreRow_fault h hq ((if_neg (isWord word)).trans ((if_neg (Nat.not_le.mpr high)).trans (if_neg fun within => ?_)))
    obtain ⟨lo, hi⟩ := Bool.and_eq_true_iff.mp within
    have lo : 0x1000000 ≤ a := of_decide_eq_true lo
    have hi : a + n ≤ 0x1010000 := of_decide_eq_true hi
    omega

/-- Settles O21: the seven loads differ in size and sign alone. -/
theorem loadsReadTheWorkingArea : Obligations.LoadsReadTheWorkingArea := by
  intro c op n signed row s x hmem h
  simp only [← ret_eq]
  simp only [List.mem_cons, Prod.mk.injEq, List.not_mem_nil, or_false] at hmem
  obtain ⟨rfl, rfl, rfl, rfl⟩ | ⟨rfl, rfl, rfl, rfl⟩ | ⟨rfl, rfl, rfl, rfl⟩ | ⟨rfl, rfl, rfl, rfl⟩ | ⟨rfl, rfl, rfl, rfl⟩ |
    ⟨rfl, rfl, rfl, rfl⟩ | ⟨rfl, rfl, rfl, rfl⟩ := hmem
  all_goals
    simp only [exec, execLdd, execLdw, execLdwu, execLdh, execLdhu, execLdb, execLdbu]
    exact loadRow_cases (by simp [accessSize]) h

end Sys2Proof.Machine
end

-- The working area, the frame of the core's instructions, and faults.
section
/-!
What a byte of a working area reads after a store (R441, R456, R463), what an instruction of the core leaves alone, and what a
fault does (R464, R468, R478).
-/
namespace Sys2Proof.Machine
open Sys2Proof

/-! Bytes of a memory with rising addresses. -/

theorem rising_cons {k : Nat} {v : Byte} {r : Memory} :
    rising ((k, v) :: r) = true ↔ rising r = true ∧ ∀ p ∈ r.head?, k < p.1 := by
  cases r with
  | nil => simp [rising]
  | cons q r => obtain ⟨j, u⟩ := q; simp [rising, and_comm]

theorem rising_bound {k : Nat} {v : Byte} {r : Memory} (h : rising ((k, v) :: r) = true) : ∀ p ∈ r, k < p.1 := by
  induction r generalizing k v with
  | nil => simp
  | cons q r ih =>
    obtain ⟨j, u⟩ := q
    obtain ⟨hr, hj⟩ := rising_cons.mp h
    have hkj : k < j := hj (j, u) rfl
    intro p hp
    obtain rfl | hp := List.mem_cons.mp hp
    · exact hkj
    · exact Nat.lt_trans hkj (ih hr p hp)

theorem rising_of_bound {k : Nat} {v : Byte} {r : Memory} (hr : rising r = true) (h : ∀ p ∈ r, k < p.1) :
    rising ((k, v) :: r) = true :=
  rising_cons.mpr ⟨hr, fun p hp => h p (List.mem_of_mem_head? hp)⟩

theorem mem_insert {m : Memory} {a : Nat} {b : Byte} {p : Nat × Byte} (h : p ∈ Memory.insert m a b) : p = (a, b) ∨ p ∈ m := by
  induction m with
  | nil => simpa [Memory.insert] using h
  | cons q r ih =>
    obtain ⟨k, v⟩ := q
    simp only [Memory.insert] at h
    split at h
    · exact List.mem_cons.mp h
    · split at h
      · exact (List.mem_cons.mp h).imp_right (List.mem_cons_of_mem _)
      · obtain rfl | h := List.mem_cons.mp h
        · exact .inr List.mem_cons_self
        · exact (ih h).imp_right (List.mem_cons_of_mem _)

theorem mem_erase {m : Memory} {a : Nat} {p : Nat × Byte} (h : p ∈ Memory.erase m a) : p ∈ m := by
  induction m with
  | nil => simp [Memory.erase] at h
  | cons q r ih =>
    obtain ⟨k, v⟩ := q
    simp only [Memory.erase] at h
    split at h
    · exact List.mem_cons_of_mem _ h
    · obtain rfl | h := List.mem_cons.mp h
      · exact List.mem_cons_self
      · exact List.mem_cons_of_mem _ (ih h)

theorem rising_insert {m : Memory} (a : Nat) (b : Byte) (h : rising m = true) : rising (Memory.insert m a b) = true := by
  induction m with
  | nil => rfl
  | cons q r ih =>
    obtain ⟨k, v⟩ := q
    have hr := (rising_cons.mp h).1
    simp only [Memory.insert]
    split
    next hak => exact rising_cons.mpr ⟨h, fun p hp => by cases hp; exact hak⟩
    next hak =>
      split
      next e => subst e; exact rising_of_bound hr (rising_bound h)
      next ne =>
        refine rising_of_bound (ih hr) fun p hp => ?_
        obtain rfl | hp := mem_insert hp
        · exact Nat.lt_of_le_of_ne (Nat.le_of_not_lt hak) (Ne.symm ne)
        · exact rising_bound h p hp

theorem rising_erase {m : Memory} (a : Nat) (h : rising m = true) : rising (Memory.erase m a) = true := by
  induction m with
  | nil => rfl
  | cons q r ih =>
    obtain ⟨k, v⟩ := q
    have hr := (rising_cons.mp h).1
    simp only [Memory.erase]
    split
    · exact hr
    · exact rising_of_bound (ih hr) fun p hp => rising_bound h p (mem_erase hp)

theorem rising_write {m : Memory} (a : Nat) (b : Byte) (h : rising m = true) : rising (Memory.write m a b) = true := by
  unfold Memory.write
  split
  · exact rising_erase a h
  · exact rising_insert a b h

theorem read_erase_other {m : Memory} {a j : Nat} (h : j ≠ a) : Memory.read (Memory.erase m a) j = Memory.read m j := by
  induction m with
  | nil => rfl
  | cons q r ih =>
    obtain ⟨k, v⟩ := q
    simp only [Memory.erase]
    split
    next e => rw [Memory.read, if_neg (by omega)]
    next => simp only [Memory.read, ih]

theorem read_erase_same {m : Memory} (a : Nat) (h : rising m = true) : Memory.read (Memory.erase m a) a = 0 := by
  induction m with
  | nil => rfl
  | cons q r ih =>
    obtain ⟨k, v⟩ := q
    simp only [Memory.erase]
    split
    next e => subst e; exact read_absent r _ fun p hp => Nat.ne_of_gt (rising_bound h p hp)
    next ne => rw [Memory.read, if_neg ne]; exact ih (rising_cons.mp h).1

theorem kget_insert (m : Memory) (a j : Nat) (b : Byte) :
    kget (Memory.insert m a b) j = if j = a then some b else kget m j := by
  induction m with
  | nil => simp [Memory.insert, kget, eq_comm]
  | cons q r ih =>
    obtain ⟨k, v⟩ := q
    simp only [Memory.insert]
    split
    · simp only [kget]; grind
    · split
      · simp only [kget]; grind
      · simp only [kget, ih]; grind

/-! Bytes of a working area. -/

theorem areaByte_areaPut_other {a j : Nat} (h : j ≠ a) (c : Cluster) (b : Byte) :
    areaByte (areaPut c a b) j = areaByte c j := by
  unfold areaPut areaByte
  cases c.workFree with
  | none =>
    simp only [Memory.write]
    split
    · exact read_erase_other h
    · rw [read_insert, if_neg h]
  | some k => simp only [kget_insert, if_neg h]

theorem areaByte_areaPut_same {c : Cluster} (h : rising c.work = true) (a : Nat) (b : Byte) :
    areaByte (areaPut c a b) a = b := by
  unfold areaPut areaByte
  cases c.workFree with
  | none =>
    simp only [Memory.write]
    split
    next e => rw [read_erase_same a h, e]
    · rw [read_insert, if_pos rfl]
  | some k => simp only [kget_insert, if_pos, Option.getD_some]

theorem rising_areaPut {c : Cluster} (h : rising c.work = true) (a : Nat) (b : Byte) : rising (areaPut c a b).work = true := by
  unfold areaPut
  cases c.workFree with
  | none => exact rising_write a b h
  | some k => exact rising_insert a b h

theorem areaByte_areaPuts_outside {a j : Nat} {d : List Byte} (h : j < a ∨ a + d.length ≤ j) (c : Cluster) :
    areaByte (areaPuts c a d) j = areaByte c j := by
  induction d generalizing a c with
  | nil => rfl
  | cons b r ih =>
    simp only [List.length_cons] at h
    rw [areaPuts, ih (by omega), areaByte_areaPut_other (by omega)]

theorem areaByte_areaPuts_inside {c : Cluster} (hr : rising c.work = true) (a : Nat) {k : Nat} {d : List Byte} (h : k < d.length) :
    areaByte (areaPuts c a d) (a + k) = d.getD k 0 := by
  induction d generalizing a c k with
  | nil => simp at h
  | cons b r ih =>
    rw [areaPuts]
    cases k with
    | zero => rw [areaByte_areaPuts_outside (by omega), Nat.add_zero, areaByte_areaPut_same hr]; rfl
    | succ k =>
      have := ih (rising_areaPut hr a b) (a + 1) (k := k) (by simpa using h)
      rw [show a + (k + 1) = a + 1 + k by omega, this]
      rfl

theorem areaByte_areaStore (a : Nat) (d : List Byte) (c : Cluster) (j : Nat) :
    areaByte (areaStore a d c) j = areaByte (areaPuts c a d) j := rfl

theorem areaPut_core (c : Cluster) (a : Nat) (b : Byte) : (areaPut c a b).core = c.core := by
  unfold areaPut
  split <;> rfl

theorem areaPuts_core (d : List Byte) : ∀ (c : Cluster) (a : Nat), (areaPuts c a d).core = c.core := by
  induction d with
  | nil => intro c a; rfl
  | cons b r ih => intro c a; rw [areaPuts, ih, areaPut_core]

theorem areaStore_core (a : Nat) (d : List Byte) (c : Cluster) : (areaStore a d c).core = c.core := areaPuts_core d c a

@[simp] theorem length_leBytes (n : Nat) : ∀ w, (leBytes n w).length = n := by
  induction n with
  | zero => intro w; rfl
  | succ n ih => intro w; simp [leBytes, ih]

theorem getD_leBytes {n k : Nat} (h : k < n) (w : Nat) : (leBytes n w).getD k 0 = BitVec.ofNat 8 (w / 256 ^ k) := by
  induction k generalizing n w with
  | zero =>
    cases n with
    | zero => omega
    | succ n => exact BitVec.eq_of_toNat_eq (by simp [leBytes])
  | succ k ih =>
    cases n with
    | zero => omega
    | succ n => rw [leBytes, List.getD_cons_succ, ih (by omega), Nat.div_div_eq_div_mul, Nat.pow_succ']

/-! Faults (R464, R468, R478). -/

/-- A run's fault halts a cluster that runs or waits in it. -/
def halted (seq : Nat) (c : Cluster) : Cluster :=
  if c.run == some seq && (c.st == 2 || c.st == 3) then { c with st := 4, engQ := [] } else c

theorem cluster_haltRun (seq : Nat) (s : State) (p : Nat) : cluster (haltRun seq s) p = halted seq (cluster s p) :=
  kgetD_kmap s.clusters (fun _ => halted seq) p Cluster.fresh rfl

/-- The faulting cluster itself. -/
def faulted (code info pc : Nat) (c : Cluster) : Cluster :=
  { c with st := 5, faultPc := BitVec.ofNat 16 pc, faultInfo := BitVec.ofNat 12 info, faultCode := BitVec.ofNat 8 code, engQ := [] }

/-- The run keeps its first fault. -/
def recorded (f : Nat × Nat × Nat × Nat × Nat) (r : RunOp) : RunOp := { r with fault := some (firstFault f r.fault) }

theorem coreFault_eq (x : CoreCtx) (code info pc : Nat) (s : State) :
    coreFault x code info pc s = haltRun x.run.seq (modRun x.run.seq (recorded (now s, x.c, code, pc, info))
      (modCluster x.p (faulted code info pc) s)) := rfl

theorem cluster_coreFault (x : CoreCtx) (code info pc : Nat) (s : State) (p : Nat) :
    cluster (coreFault x code info pc s) p
      = halted x.run.seq (if p = x.p then faulted code info pc (cluster s x.p) else cluster s p) := by
  rw [coreFault_eq, cluster_haltRun]
  exact congrArg _ (cluster_modCluster x.p p (faulted code info pc) s)

theorem halted_of_st {seq : Nat} {c : Cluster} (h : c.st = 5) : halted seq c = c := by simp [halted, h]

theorem cluster_coreFault_same (x : CoreCtx) (code info pc : Nat) (s : State) :
    cluster (coreFault x code info pc s) x.p = faulted code info pc (cluster s x.p) := by
  rw [cluster_coreFault, if_pos rfl, halted_of_st rfl]

theorem cluster_coreFault_other {x : CoreCtx} {p : Nat} (h : p ≠ x.p) (code info pc : Nat) (s : State) :
    cluster (coreFault x code info pc s) p = halted x.run.seq (cluster s p) := by
  rw [cluster_coreFault, if_neg h]

/-- What a fault leaves of a cluster: all but its state, its fault record and its engine queue. -/
theorem cluster_coreFault_keeps (x : CoreCtx) (code info pc : Nat) (s : State) (p : Nat) :
    ∃ st fp fi fc q, cluster (coreFault x code info pc s) p
      = { cluster s p with st := st, faultPc := fp, faultInfo := fi, faultCode := fc, engQ := q } := by
  by_cases hp : p = x.p
  · subst hp
    exact ⟨_, _, _, _, _, cluster_coreFault_same x code info pc s⟩
  · rw [cluster_coreFault_other hp, halted]
    split
    · exact ⟨_, _, _, _, _, rfl⟩
    · exact ⟨_, _, _, _, _, rfl⟩

theorem runOf_seq {s : State} {seq : Nat} {r : RunOp} (h : runOf s seq = some r) : r.seq = seq := by
  simpa using List.find?_some h

/-- A run is found again after a change that keeps its number. -/
theorem runOf_modRun {s : State} {seq : Nat} {r : RunOp} {f : RunOp → RunOp} (hf : ∀ r, (f r).seq = r.seq)
    (h : runOf s seq = some r) : runOf (modRun seq f s) seq = some (f r) := by
  have hs := runOf_seq h
  have kept (q : RunOp) : (if q.seq == seq then f q else q).seq = q.seq := by split <;> simp [hf]
  unfold runOf at h ⊢
  simp only [modRun, modWork, List.find?_map, Function.comp_def, kept, h]
  simp [hs]

/-- Settles O29: by the clusters and the run after a fault. -/
theorem faultsArePrecise : Obligations.FaultsArePrecise := by
  intro c code info pc s x hx t
  obtain ⟨seq, -, hrun⟩ := (clusterIn_some hx).inRun
  obtain rfl := runOf_seq hrun
  have same : cluster t x.p = faulted code info pc (cluster s x.p) := cluster_coreFault_same x code info pc s
  refine ⟨congrArg _ same, congrArg _ same, congrArg _ same, congrArg _ same, congrArg _ same, fun p => ?keeps,
    fun p hp hr hs => ?halts, fun p hp hr => ?others, ⟨recorded (now s, x.c, code, pc, info) x.run, ?found, ?first, ?later⟩,
    rfl, rfl, rfl⟩
  case keeps =>
    obtain ⟨_, _, _, _, _, e⟩ := cluster_coreFault_keeps x code info pc s p
    simp only [t, e, and_self]
  case halts =>
    rw [cluster_coreFault_other hp, halted, if_pos]
    simpa [hr] using hs
  case others =>
    rw [cluster_coreFault_other hp, halted, if_neg (by simp [hr])]
  case found => exact runOf_modRun (s := modCluster x.p (faulted code info pc) s) (fun _ => rfl) hrun
  case first =>
    intro h
    rw [recorded, h, firstFault]
  case later =>
    intro g h
    simp only [recorded, h, firstFault, Bool.and_eq_true, beq_iff_eq, decide_eq_true_eq]

/-! The frame of a core row. -/

/-- What holds of every outcome of a core row holds of the state it leaves. -/
theorem coreRow_induct {P : State → Prop} {op c : Nat} {legal : Word32 → Bool} {regs : Word32 → List Nat}
    {body : CoreCtx → State → CoreRes} {s t : State} (h : coreRow op c legal regs body s = .next t) (same : P s)
    (skip : ∀ x, running c s = some x → P (setCore x nextPc s))
    (fault : ∀ x code info pc, running c s = some x → P (coreFault x code info pc s))
    (done : ∀ x u, running c s = some x → body x s = .done u → P u) : P t := by
  have clear (x : CoreCtx) (hx : running c s = some x) (code info : Nat) : P (faultWhenClear x code info s) := by
    unfold faultWhenClear
    split
    · exact fault x _ _ _ hx
    · exact same
  unfold coreRow at h
  split at h
  · cases h
  split at h
  · cases h; exact same
  next x hx =>
    split at h
    · cases h; exact same
    split at h
    · cases h; exact clear x hx _ _
    split at h
    · cases h; exact skip x hx
    split at h
    · cases h; exact same
    split at h
    · cases h; exact same
    · cases h; exact clear x hx _ _
    next hu => cases h; exact done x _ hx hu

/-! Stores (R441). -/

/-- What a store does, of whichever opcode. -/
theorem storeRow_cases {c op n : Nat} {s : State} {x : CoreCtx} (h : Issues op c always regsI s x) :
    let a := (sreg x.cl.core (raOf x.w) + imm12 x.w).toNat
    (x.cl.engQ = [] → a % n ≠ 0 → storeRow op c n s = .next (coreFault x 3 0 x.cl.core.pc.toNat s)) ∧
    (x.cl.engQ = [] → a % n = 0 → x.cl.wlimit < a + n →
      storeRow op c n s = .next (coreFault x 5 0 x.cl.core.pc.toNat s)) ∧
    (a % n = 0 → a + n ≤ x.cl.wlimit → storesDone x = true → storeRow op c n s = .next
      (setCore x nextPc (modCluster x.p (areaStore a (leBytes n (sreg x.cl.core (rdOf x.w)).toNat)) s))) := by
  intro a
  have isWord (h : a % n = 0) : ¬ (a % n != 0) = true := by rw [bne_iff_ne]; exact not_not_intro h
  exact ⟨fun hq odd => coreRow_fault h hq (if_pos (bne_iff_ne.mpr odd)),
    fun hq word high => coreRow_fault h hq ((if_neg (isWord word)).trans (if_pos high)),
    fun word low done => coreRow_done _ _ _ _ _ _ _ _ h ((if_neg (isWord word)).trans ((if_neg (Nat.not_lt.mpr low)).trans
      (if_neg (by simp [done]))))⟩

/-- The cluster after a store that goes on. -/
theorem cluster_stored (x : CoreCtx) (a : Nat) (d : List Byte) (s : State) :
    cluster (setCore x nextPc (modCluster x.p (areaStore a d) s)) x.p
      = { areaStore a d (cluster s x.p) with core := nextPc (cluster s x.p).core } := by
  simp [setCore, areaStore_core]

/-- A store leaves alone the memories outside the clusters, and the bytes of a working area that it does not name. -/
structure StoreFrame (within : Nat → Nat → Prop) (s t : State) : Prop where
  store    : t.store = s.store
  coherent : t.coherent = s.coherent
  fw       : t.fw = s.fw
  bytes    : ∀ p b, ¬ within p b → areaByte (cluster t p) b = areaByte (cluster s p) b

theorem storeFrame_modCluster {within : Nat → Nat → Prop} {s : State} {p : Nat} {g : Cluster → Cluster}
    (h : ∀ b, ¬ within p b → areaByte (g (cluster s p)) b = areaByte (cluster s p) b) : StoreFrame within s (modCluster p g s) := by
  refine ⟨rfl, rfl, rfl, fun q b hb => ?_⟩
  rw [cluster_modCluster]
  split
  next e => subst e; exact h b hb
  · rfl

theorem storeFrame_setCore {within : Nat → Nat → Prop} {s t : State} (h : StoreFrame within s t) (x : CoreCtx) (f : Core → Core) :
    StoreFrame within s (setCore x f t) := by
  refine ⟨h.store, h.coherent, h.fw, fun p b hb => ?_⟩
  rw [← h.bytes p b hb, setCore, cluster_modCluster]
  split
  next e => subst e; rfl
  · rfl

theorem storeFrame_coreFault (within : Nat → Nat → Prop) (s : State) (x : CoreCtx) (code info pc : Nat) :
    StoreFrame within s (coreFault x code info pc s) := by
  refine ⟨rfl, rfl, rfl, fun p b _ => ?_⟩
  obtain ⟨_, _, _, _, _, e⟩ := cluster_coreFault_keeps x code info pc s p
  rw [e]
  rfl

theorem storeFrame_refl (within : Nat → Nat → Prop) (s : State) : StoreFrame within s s := ⟨rfl, rfl, rfl, fun _ _ _ => rfl⟩

/-- The bytes that a store of n bytes by logical cluster c may change. -/
def storeReaches (c n : Nat) (s : State) (p b : Nat) : Prop :=
  ∃ x, running c s = some x ∧ p = x.p ∧
    let a := (sreg x.cl.core (raOf x.w) + imm12 x.w).toNat
    ¬ (b < a ∨ a + n ≤ b)

theorem storeRow_frame {c op n : Nat} {s t : State} (h : storeRow op c n s = .next t) :
    StoreFrame (storeReaches c n s) s t := by
  refine coreRow_induct h (storeFrame_refl _ s) (fun x _ => storeFrame_setCore (storeFrame_refl _ s) x _)
    (fun x code info pc _ => storeFrame_coreFault _ s x code info pc) fun x u hx hu => ?_
  simp only at hu
  split at hu
  · cases hu
  split at hu
  · cases hu
  split at hu
  · cases hu
  obtain rfl := CoreRes.done.inj hu
  refine storeFrame_setCore (storeFrame_modCluster fun b hb => ?_) x _
  rw [areaByte_areaStore, areaByte_areaPuts_outside]
  rw [length_leBytes]
  exact Decidable.byContradiction fun hn => hb ⟨x, hx, rfl, hn⟩

theorem exec_store {c op n : Nat} {row : Instr}
    (h : (op, n, row) ∈ [(0x12, 8, Instr.std c), (0x13, 4, Instr.stw c), (0x14, 2, Instr.sth c), (0x15, 1, Instr.stb c)])
    (s : State) : exec row s = storeRow op c n s := by
  simp only [List.mem_cons, Prod.mk.injEq, List.not_mem_nil, or_false] at h
  obtain ⟨rfl, rfl, rfl⟩ | ⟨rfl, rfl, rfl⟩ | ⟨rfl, rfl, rfl⟩ | ⟨rfl, rfl, rfl⟩ := h <;> rfl

/-- Settles O22: the four stores differ in size alone. -/
theorem storesWriteTheWorkingArea : Obligations.StoresWriteTheWorkingArea := by
  constructor
  · intro c op n row s x hmem h a
    rw [exec_store hmem]
    obtain ⟨align, range, stored⟩ := storeRow_cases (n := n) h
    refine ⟨align, range, fun hr word low done => ⟨_, stored word low done, ?_, fun k hk => ?_, fun b hb => ?_,
      fun p hp => ?_, rfl⟩⟩
    all_goals have same := (clusterIn_some (running_clusterIn h.runs)).cluster
    · rw [cluster_stored, same]
      rfl
    · rw [cluster_stored, same, ← getD_leBytes hk]
      exact areaByte_areaPuts_inside hr _ (by simpa using hk)
    · rw [cluster_stored, same]
      exact areaByte_areaPuts_outside (by rw [length_leBytes]; exact hb) _
    · rw [setCore, cluster_modCluster, if_neg hp, cluster_modCluster, if_neg hp]
  · intro c op n row s t hmem h
    have frame := storeRow_frame ((exec_store hmem s).symm.trans h)
    exact ⟨frame.store, frame.coherent, frame.fw, fun p b hout => frame.bytes p b
      fun ⟨x, hx, hp, hin⟩ => hin (hout x hx hp)⟩

/-! The frame of the instructions that stay in a core. -/

/-- What an instruction of logical cluster c leaves alone. -/
structure CoreFrame (c : Nat) (s t : State) : Prop where
  outside  : { t with clusters := s.clusters, work := s.work, free := s.free } = s
  runs     : { t.work with runs := s.work.runs } = s.work
  clusters : ∀ p, (cluster t p).work = (cluster s p).work ∧ (cluster t p).workFree = (cluster s p).workFree ∧
    (cluster t p).xfers = (cluster s p).xfers ∧ (cluster t p).imem = (cluster s p).imem ∧
    (cluster t p).eng = (cluster s p).eng ∧ (cluster t p).core.cnt = (cluster s p).core.cnt ∧
    (cluster t p).core.mbx = (cluster s p).core.mbx ∧ (physOf s c ≠ some p → (cluster t p).core = (cluster s p).core)

theorem coreFrame_refl (c : Nat) (s : State) : CoreFrame c s s :=
  ⟨rfl, rfl, fun _ => ⟨rfl, rfl, rfl, rfl, rfl, rfl, rfl, fun _ => rfl⟩⟩

/-- A fault changes clusters and runs alone. -/
theorem coreFault_only (x : CoreCtx) (code info pc : Nat) (s : State) :
    ∃ cs rs, coreFault x code info pc s = { s with clusters := cs, work := { s.work with runs := rs } } := by
  simp only [coreFault_eq, haltRun, modRun, modWork, modCluster]
  exact ⟨_, _, rfl⟩

theorem coreFrame_coreFault (c : Nat) (s : State) (x : CoreCtx) (code info pc : Nat) :
    CoreFrame c s (coreFault x code info pc s) := by
  obtain ⟨cs, rs, only⟩ := coreFault_only x code info pc s
  refine ⟨by rw [only], by rw [only], fun p => ?_⟩
  obtain ⟨_, _, _, _, _, e⟩ := cluster_coreFault_keeps x code info pc s p
  rw [e]
  exact ⟨rfl, rfl, rfl, rfl, rfl, rfl, rfl, fun _ => rfl⟩

/-- A change of a cluster that keeps its memories, its engine, and its core's counters and mailboxes. -/
structure KeepsMemory (c d : Cluster) : Prop where
  work     : d.work = c.work
  workFree : d.workFree = c.workFree
  xfers    : d.xfers = c.xfers
  imem     : d.imem = c.imem
  eng      : d.eng = c.eng
  cnt      : d.core.cnt = c.core.cnt
  mbx      : d.core.mbx = c.core.mbx

theorem coreFrame_modCluster {c : Nat} {s : State} {x : CoreCtx} {g : Cluster → Cluster} (hx : running c s = some x)
    (hg : ∀ cl, KeepsMemory cl (g cl)) : CoreFrame c s (modCluster x.p g s) := by
  refine ⟨rfl, rfl, fun p => ?_⟩
  rw [cluster_modCluster]
  by_cases hp : p = x.p
  · subst hp
    obtain ⟨work, workFree, xfers, imem, eng, cnt, mbx⟩ := hg (cluster s x.p)
    rw [if_pos rfl]
    exact ⟨work, workFree, xfers, imem, eng, cnt, mbx, fun h => absurd (clusterIn_some (running_clusterIn hx)).phys h⟩
  · rw [if_neg hp]
    exact ⟨rfl, rfl, rfl, rfl, rfl, rfl, rfl, fun _ => rfl⟩

theorem coreFrame_free {c : Nat} {s t : State} (h : CoreFrame c s t) (n : Nat) : CoreFrame c s { t with free := n } := by
  obtain ⟨outside, runs, clusters⟩ := h
  exact ⟨outside, runs, clusters⟩

theorem setS_cnt (r : Nat) (v : Word64) (k : Core) : (setS r v k).cnt = k.cnt := by
  unfold setS
  split <;> rfl

theorem setS_mbx (r : Nat) (v : Word64) (k : Core) : (setS r v k).mbx = k.mbx := by
  unfold setS
  split <;> rfl

theorem setP_cnt (n : Nat) (b : Bool) (k : Core) : (setP n b k).cnt = k.cnt := by
  unfold setP
  split <;> rfl

theorem setP_mbx (n : Nat) (b : Bool) (k : Core) : (setP n b k).mbx = k.mbx := by
  unfold setP
  split <;> rfl

theorem coreFrame_setCore {c : Nat} {s : State} {x : CoreCtx} {f : Core → Core} (hx : running c s = some x)
    (cnt : ∀ k, (f k).cnt = k.cnt) (mbx : ∀ k, (f k).mbx = k.mbx) : CoreFrame c s (setCore x f s) :=
  coreFrame_modCluster hx fun cl => ⟨rfl, rfl, rfl, rfl, rfl, cnt cl.core, mbx cl.core⟩

theorem coreFrame_ret {c : Nat} {s : State} {x : CoreCtx} (hx : running c s = some x) (rd : Nat) (v : Word64) :
    CoreFrame c s (ret x rd v s) :=
  coreFrame_setCore hx (fun _ => setS_cnt _ _ _) (fun _ => setS_mbx _ _ _)

theorem coreFrame_csrRead {c n : Nat} {s : State} {x : CoreCtx} (hx : running c s = some x) (rd : Nat) :
    CoreFrame c s (ret x rd (csrRead x n s).1 (csrRead x n s).2) := by
  have kept : (csrRead x n s).2 = s ∨ (csrRead x n s).2 = spend s := by
    simp only [csrRead, takeFree, spend, apply_ite Prod.snd, ite_self]
    grind
  obtain h | h := kept
  · rw [h]; exact coreFrame_ret hx rd _
  · rw [h]; exact coreFrame_free (coreFrame_ret hx rd _) _

/-- The frame of a core row from that of its body. -/
theorem coreRow_frame {op c : Nat} {legal : Word32 → Bool} {regs : Word32 → List Nat} {body : CoreCtx → State → CoreRes}
    {s t : State} (h : coreRow op c legal regs body s = .next t)
    (done : ∀ x u, running c s = some x → body x s = .done u → CoreFrame c s u) : CoreFrame c s t :=
  coreRow_induct h (coreFrame_refl c s) (fun _ hx => coreFrame_setCore hx (fun _ => rfl) fun _ => rfl)
    (fun x code info pc _ => coreFrame_coreFault c s x code info pc) done

theorem loadRow_frame {op c n : Nat} {signed ecc : Bool} {s t : State} (h : loadRow op c n signed ecc s = .next t) :
    CoreFrame c s t := by
  refine coreRow_frame h fun x u hx hu => ?_
  simp only at hu
  split at hu
  · cases hu
  split at hu
  · split at hu
    · cases hu
    split at hu
    · cases hu
    cases hu
    exact coreFrame_free (coreFrame_ret hx _ _) _
  split at hu
  · split at hu
    · cases hu
    cases hu
    exact coreFrame_ret hx _ _
  · cases hu

theorem immRow_frame {op c : Nat} {f : Word64 → Word32 → Word64} {s t : State} (h : immRow op c f s = .next t) :
    CoreFrame c s t :=
  coreRow_frame h fun x u hx hu => by cases hu; exact coreFrame_ret hx _ _

theorem faultWhenClear_frame (c : Nat) (s : State) (x : CoreCtx) (code info : Nat) : CoreFrame c s (faultWhenClear x code info s) := by
  unfold faultWhenClear
  split
  · exact coreFrame_coreFault c s x code info _
  · exact coreFrame_refl c s

/-- Settles O23: each body writes a register, a predicate or the pc of its own core, or ends the cluster's part of the run. -/
theorem coreInstructionsKeepMemory : Obligations.CoreInstructionsKeepMemory := by
  intro i c s t hi h
  suffices frame : CoreFrame c s t from ⟨frame.outside, frame.runs, frame.clusters⟩
  cases i
  case ldd | ldw | ldwu | ldh | ldhu | ldb | ldbu =>
    cases hi
    simp only [exec, execLdd, execLdw, execLdwu, execLdh, execLdhu, execLdb, execLdbu] at h
    exact loadRow_frame h
  case addi | andi | ori | xori =>
    cases hi
    simp only [exec, execAddi, execAndi, execOri, execXori] at h
    exact immRow_frame h
  case alu | shi | movi =>
    cases hi
    simp only [exec, execAlu, execShi, execMovi] at h
    exact coreRow_frame h fun x u hx hu => by cases hu; exact coreFrame_ret hx _ _
  case ldpc ecc =>
    cases hi
    simp only [exec, execLdpc] at h
    refine coreRow_frame h fun x u hx hu => ?_
    split at hu
    · cases hu
    split at hu
    · cases hu; exact coreFrame_ret hx _ _
    · cases hu; exact coreFrame_free (coreFrame_ret hx _ _) _
  case cmp | cmpi =>
    cases hi
    simp only [exec, execCmp, execCmpi] at h
    exact coreRow_frame h fun x u hx hu => by
      cases hu
      exact coreFrame_setCore hx (fun _ => setP_cnt _ _ _) fun _ => setP_mbx _ _ _
  case pred =>
    cases hi
    simp only [exec, execPred] at h
    refine coreRow_frame h fun x u hx hu => ?_
    split at hu
    · cases hu; exact coreFrame_ret hx _ _
    split at hu
    · cases hu; exact coreFrame_setCore hx (fun _ => rfl) fun _ => rfl
    · cases hu; exact coreFrame_setCore hx (fun _ => setP_cnt _ _ _) fun _ => setP_mbx _ _ _
  case br =>
    cases hi
    simp only [exec, execBr] at h
    exact coreRow_frame h fun x u hx hu => by cases hu; exact coreFrame_setCore hx (fun _ => rfl) fun _ => rfl
  case call =>
    cases hi
    simp only [exec, execCall] at h
    exact coreRow_frame h fun x u hx hu => by
      cases hu
      exact coreFrame_setCore hx (fun _ => setS_cnt _ _ _) fun _ => setS_mbx _ _ _
  case jr =>
    cases hi
    simp only [exec, execJr] at h
    refine coreRow_frame h fun x u hx hu => ?_
    split at hu
    · cases hu
    · cases hu; exact coreFrame_setCore hx (fun _ => setS_cnt _ _ _) fun _ => setS_mbx _ _ _
  case csrr =>
    cases hi
    simp only [exec, execCsrr] at h
    refine coreRow_frame h fun x u hx hu => ?_
    split at hu
    · cases hu
    · cases hu; exact coreFrame_csrRead hx _
  case waitc =>
    cases hi
    simp only [exec, execWaitc] at h
    refine coreRow_frame h fun x u hx hu => ?_
    split at hu
    · cases hu; exact coreFrame_ret hx _ _
    · cases hu; exact coreFrame_modCluster hx fun _ => ⟨rfl, rfl, rfl, rfl, rfl, rfl, rfl⟩
  case fence =>
    cases hi
    simp only [exec, execFence] at h
    refine coreRow_frame h fun x u hx hu => ?_
    split at hu
    · cases hu; exact coreFrame_setCore hx (fun _ => rfl) fun _ => rfl
    · cases hu
  case halt =>
    cases hi
    simp only [exec, execHalt] at h
    refine coreRow_frame h fun x u hx hu => ?_
    split at hu
    · cases hu; exact coreFrame_modCluster hx fun _ => ⟨rfl, rfl, rfl, rfl, rfl, rfl, rfl⟩
    · cases hu
  case trap =>
    cases hi
    simp only [exec, execTrap] at h
    exact coreRow_frame h fun x u hx hu => by cases hu
  case illegalInstruction =>
    cases hi
    simp only [exec, execIllegalInstruction] at h
    split at h
    · cases h
    split at h
    · cases h; exact coreFrame_refl _ _
    split at h
    · cases h; exact faultWhenClear_frame _ _ _ _ _
    · cases h; exact coreFrame_refl _ _
  case fetchFault =>
    cases hi
    simp only [exec, execFetchFault] at h
    split at h
    · cases h
    split at h
    · cases h; exact coreFrame_refl _ _
    split at h
    · cases h; exact coreFrame_refl _ _
    · cases h; exact faultWhenClear_frame _ _ _ _ _
  all_goals cases hi

end Sys2Proof.Machine
end

-- Mailboxes, counters and transfers.
section
/-!
The messages, signals and transfers of the mesh (R444 to R459).
-/
namespace Sys2Proof.Machine
open Sys2Proof

/-! Mailboxes (R448 to R451). -/

/-- A run that holds cluster 0 alone. -/
def loneRun : RunOp :=
  { seq := 0, company := 1, image := [], row0 := 0, rows := 1, col0 := 0, cols := 1, args := [], bufs := [], limit := 1000,
    translate := 1, started := some 0, timedOut := false, halted := false, aborted := none, fault := none, internal := false }

/-- A message on its way to a mailbox of core 0 from cluster 5, which no run holds. -/
def stray : State :=
  { State.reset with
    clusters := [(0, { Cluster.fresh with logical := 0, run := some 0 })]
    work := { State.reset.work with runs := [loneRun], mesh := [.mail 5 0 0 [] 0] } }

/-- Core 0 of that state. -/
def loneCore : CoreCtx := { p := 0, c := 0, cl := { Cluster.fresh with logical := 0, run := some 0 }, run := loneRun, w := 0 }

/-- What is on the mesh after a step that goes on. -/
def meshAfter (r : Res) : Option (List MeshItem) :=
  match r with
  | .next t => some t.work.mesh
  | _ => none

theorem stray_arrives_unanswered : meshAfter (exec (.mailboxArrival 5 0 0) stray) = some [] := by decide +kernel

/-- Refutes O26: a message whose sender's run no longer holds the sender (`sameRun`) is stored without an acknowledgement. The
state has core 0 in a run, and one message to it from cluster 5, which no run holds; MAILBOX_ARRIVAL leaves the mesh empty. -/
theorem not_mailboxesDeliver : ¬ Obligations.MailboxesDeliver := by
  intro h
  obtain ⟨-, arrives, -⟩ := h 5 stray loneCore
  have here : clusterIn 0 stray = some loneCore := rfl
  obtain ⟨t, ht, answered, -⟩ := arrives 0 0 [] 0 [] (by decide) (by decide) (by decide) here rfl
  have none := stray_arrives_unanswered
  rw [ht, meshAfter, answered] at none
  simp at none

/-! Counters (R444 to R446, R455). -/

theorem cluster_bump (p k : Nat) (v : Word64) (s : State) :
    let cl := cluster s p
    let core := { cl.core with cnt := setAt cl.core.cnt k (cl.core.cnt.getD k 0 + v) }
    cluster (bump p k v s) p =
      if cl.st = 3 ∧ cl.waitCnt.toNat = k ∧ cl.core.waitFor.toNat ≤ (cl.core.cnt.getD k 0 + v).toNat then
        { cl with st := 2, core := nextPc (setS core.waitRd 0 core) }
      else { cl with core := core } := by
  simp only [bump, cluster_modCluster_same, Bool.and_eq_true, beq_iff_eq, decide_eq_true_eq, and_assoc]

/-- Settles O28: the signal and the wait by their rows, a rise of the counter by `cluster_bump`. -/
theorem countersSignalAndWait : Obligations.CountersSignalAndWait := by
  intro c s x
  refine ⟨fun h hd hr => ?signal, fun dst k upTo v rest hc hd hx hi landed => ?arrival,
    fun h => ⟨fun reached => ?met, fun short => ?waits⟩, fun p k v hk => ⟨?sum, ?ends⟩, fun d hc hx hu hs hd => ?timeout⟩
  case signal =>
    simp only [exec, execSig]
    exact coreRow_done _ _ _ _ _ _ _ _ h (if_neg (by simp [hd, hr]))
  case arrival =>
    have named : ¬ (!(decide (c < 160) && decide (dst < 160))) = true := by simp [hc, hd]
    simp only [exec, execSignalArrival]
    rw [if_neg named]
    split
    next found here =>
      cases hi.symm.trans found
      cases hx.symm.trans here
      rw [if_neg (by simp [landed])]
      rfl
    next missing => exact (missing _ _ _ _ _ _ _ hi hx).elim
  case met =>
    simp only [exec, execWaitc]
    exact coreRow_done _ _ _ _ _ _ _ _ h (if_pos reached)
  case waits =>
    simp only [exec, execWaitc]
    exact coreRow_done _ _ _ _ _ _ _ _ h (if_neg (Nat.not_le.mpr short))
  case sum =>
    rw [cluster_bump]
    split
    · rw [nextPc, setS_cnt]
      exact getD_setAt_same _ _ _ hk
    · exact getD_setAt_same _ _ _ hk
  case ends =>
    rw [cluster_bump]
    split
    next met => exact ⟨fun _ => met, fun _ same => absurd (same.trans met.1) (show (2 : BitVec 4) ≠ 3 by decide)⟩
    next unmet => exact ⟨fun changed => absurd rfl changed, fun met => absurd met unmet⟩
  case timeout =>
    rw [exec, execWaitcTimeout, if_neg (Nat.not_le.mpr hc), hx]
    simp [hu, hs, hd, endWaitc]

/-! Transfers (R444, R452 to R459). -/

/-- What only the medium may change leaves the clusters. -/
theorem clusters_of_medium {s u : State} (h : Only mediumFields s u) : u.clusters = s.clusters := by
  have kept := congrArg State.clusters (show mediumFields u s = s from h)
  exact kept

theorem issueRead_clusters (g : PageCopy) (s : State) : (issueRead g s).clusters = s.clusters := by
  unfold issueRead
  simp only
  split
  · rfl
  split
  · rfl
  · refine (clusters_of_medium
      (Only.foldl mediumFields_putsBack (fun s d => reachDie d s) (fun s d => reachDie_only d s) _ _)).trans ?_
    rfl

/-- A fold of steps that leave the clusters leaves them. -/
theorem foldl_clusters {α : Type} {f : State → α → State} (h : ∀ s x, (f s x).clusters = s.clusters) (l : List α) (s : State) :
    (l.foldl f s).clusters = s.clusters := by
  induction l generalizing s with
  | nil => rfl
  | cons x r ih => exact (ih (f s x)).trans (h s x)

theorem askPage_clusters (q : Option Nat) (c : Nat) (what : PageRef) (stage background onward allocated : Bool) (s : State) :
    (askPage q c what stage background onward allocated s).clusters = s.clusters := by
  unfold askPage
  simp only
  split
  · exact foldl_clusters (fun s g => issueRead_clusters g s) _ _
  · exact issueRead_clusters _ _

theorem wantPage_clusters (q c : Nat) (what : PageRef) (s : State) : (wantPage q c what s).clusters = s.clusters := by
  unfold wantPage
  split
  · rfl
  · exact askPage_clusters ..

theorem usherLookup_clusters (unit c : Nat) (id : SceneId) (s : State) : (usherLookup unit c id s).clusters = s.clusters := by
  unfold usherLookup
  simp only
  split <;> rfl

theorem translate_clusters (mode unit c : Nat) (ids : List SceneId) (s : State) :
    (translate mode unit c ids s).clusters = s.clusters := by
  unfold translate
  split
  · rfl
  · exact foldl_clusters (fun s i => usherLookup_clusters unit c i s) _ _

theorem dma_clusters (a n : Nat) (s : State) : (dma a n s).clusters = s.clusters := by
  unfold dma
  split <;> rfl

theorem cluster_of_clusters {s u : State} (h : u.clusters = s.clusters) (p : Nat) : cluster u p = cluster s p := by
  rw [cluster, cluster, h]

/-- The cluster after it issues a transfer. -/
theorem cluster_issue (x : CoreCtx) (t : Transfer) (s : State) :
    cluster (issue x t s) x.p = { cluster s x.p with
      xfers := (cluster s x.p).xfers ++ [{ t with id := (cluster s x.p).issued, pc := (cluster s x.p).core.pc.toNat }]
      issued := (cluster s x.p).issued + 1, core := nextPc (cluster s x.p).core } := cluster_modCluster_same _ _ _

/-- A state in which cluster x has issued transfer t. -/
structure IssuedBy (x : CoreCtx) (t : Transfer) (u : State) : Prop where
  xfers : (cluster u x.p).xfers = x.cl.xfers ++ [{ t with id := x.cl.issued, pc := x.cl.core.pc.toNat }]
  core  : (cluster u x.p).core = nextPc x.cl.core
  work  : (cluster u x.p).work = x.cl.work

theorem issuedBy_issue {x : CoreCtx} {s u : State} (t : Transfer) (hx : cluster s x.p = x.cl)
    (hu : cluster u x.p = cluster (issue x t s) x.p) : IssuedBy x t u := by
  rw [cluster_issue, hx] at hu
  exact ⟨by rw [hu], by rw [hu], by rw [hu]⟩

/-- What holds of the state that the body of an issued instruction leaves holds of the row's. -/
theorem coreRow_done_exists {op c : Nat} {legal : Word32 → Bool} {regs : Word32 → List Nat} {body : CoreCtx → State → CoreRes}
    {s : State} {x : CoreCtx} {Q : State → Prop} (h : Issues op c legal regs s x) (hb : ∃ u, body x s = .done u ∧ Q u) :
    ∃ u, coreRow op c legal regs body s = .next u ∧ Q u := by
  obtain ⟨u, hu, hq⟩ := hb
  exact ⟨u, coreRow_done _ _ _ _ _ _ _ _ h hu, hq⟩

/-- The transfer that a MOVE issues. -/
def moveXfer (x : CoreCtx) (s : State) : Transfer :=
  { Transfer.zero with
    kind := if bit x.w 4 then .moveOut else .moveIn, here := (sreg x.cl.core (rbOf x.w)).toNat
    len := (sreg x.cl.core (rdOf x.w)).toNat, peer := fld (sreg x.cl.core (raOf x.w)) 63 56
    offset := fld (sreg x.cl.core (raOf x.w)) 55 0, counter := fnOf x.w % 16
    data := if bit x.w 4 then
      areaLoad x.cl s.free (sreg x.cl.core (rbOf x.w)).toNat (sreg x.cl.core (rdOf x.w)).toNat else [] }

/-- The transfer that a PUT or GET issues. -/
def remoteXfer (put : Bool) (x : CoreCtx) (s : State) : Transfer :=
  { Transfer.zero with
    kind := if put then .put else .get, here := (sreg x.cl.core (rbOf x.w)).toNat
    len := (sreg x.cl.core (rdOf x.w)).toNat, peer := fld (sreg x.cl.core (raOf x.w)) 63 56
    offset := fld (sreg x.cl.core (raOf x.w)) 55 0, counter := fnOf x.w % 16, atTarget := put && bit x.w 4
    data := if put then areaLoad x.cl s.free (sreg x.cl.core (rbOf x.w)).toNat (sreg x.cl.core (rdOf x.w)).toNat else [] }

/-- PUT and GET at issue. -/
theorem remoteRow_issued {op c : Nat} (put : Bool) {s : State} {x : CoreCtx} (h : Issues op c always regsR s x) :
    let far := sreg x.cl.core (raOf x.w)
    let here := (sreg x.cl.core (rbOf x.w)).toNat
    let n := (sreg x.cl.core (rdOf x.w)).toNat
    xferAlign far.toNat here n = true → here + n ≤ x.cl.wlimit → inRun x.run (fld far 63 56) = true →
    fld far 55 0 + n ≤ x.cl.wlimit → storesDone x = true →
    ∃ u, remoteRow op c put s = .next u ∧ IssuedBy x (remoteXfer put x s) u := by
  intro far here n align low inside high done
  have aligned : ¬ (!xferAlign far.toNat here n) = true := by simp [align]
  have within : ¬ (!inRun x.run (fld far 63 56) || decide (x.cl.wlimit < fld far 55 0 + n)) = true := by simp [inside, high]
  have settled : ¬ (!storesDone x) = true := by simp [done]
  exact coreRow_done_exists h ⟨_, (if_neg aligned).trans ((if_neg (Nat.not_lt.mpr low)).trans
    ((if_neg within).trans (if_neg settled))), issuedBy_issue _ (clusterIn_some (running_clusterIn h.runs)).cluster rfl⟩

/-- MOVE at issue. -/
theorem execMove_issued {c : Nat} {s : State} {x : CoreCtx} {g : RunBuf} (h : Issues 0x26 c always regsR s x) :
    let far := sreg x.cl.core (raOf x.w)
    let here := (sreg x.cl.core (rbOf x.w)).toNat
    let n := (sreg x.cl.core (rdOf x.w)).toNat
    xferAlign far.toNat here n = true → here + n ≤ x.cl.wlimit → x.run.bufs[fld far 63 56]? = some g →
    fld far 55 0 + n ≤ bufLength g s → (if bit x.w 4 then g.write else g.read) = true → storesDone x = true →
    (bit x.w 4 = false → lostMove x.run.company (pagesMoved g (fld far 55 0) n s) s = false) →
    ∃ u, execMove c s = .next u ∧ IssuedBy x (moveXfer x s) u := by
  intro far here n align low hg fits allowed done kept
  have aligned : ¬ (!xferAlign far.toNat here n) = true := by simp [align]
  have lost : ¬ lostMove x.run.company (if bit x.w 4 then [] else pagesMoved g (fld far 55 0) n s) s = true := by
    cases hb : bit x.w 4 with
    | true => simp [lostMove]
    | false => simpa using kept hb
  have may : ¬ (decide (bufLength g s < fld far 55 0 + n) || !(if bit x.w 4 then g.write else g.read)) = true := by
    simpa [allowed] using fits
  have settled : ¬ (!storesDone x) = true := by simp [done]
  refine coreRow_done_exists h ?_
  rw [if_neg aligned, if_neg (Nat.not_lt.mpr low), hg]
  refine ⟨_, (if_neg may).trans ((if_neg lost).trans (if_neg settled)), ?_⟩
  have pages (l : List PageRef) (v : State) :
      (l.foldl (fun s p => wantPage x.run.seq x.run.company p s) v).clusters = v.clusters :=
    foldl_clusters (fun s p => wantPage_clusters x.run.seq x.run.company p s) l v
  refine issuedBy_issue (s := spend s) _ (clusterIn_some (running_clusterIn h.runs)).cluster (cluster_of_clusters ?_ _)
  split
  · exact (emit_clusters _ _).trans ((dma_clusters _ _ _).trans (pages _ _))
  · exact pages _ _

/-- The transfer that a PAGE issues. -/
def pageXfer (x : CoreCtx) (g : RunBuf) (s : State) : Transfer :=
  { Transfer.zero with
    kind := .page, here := (sreg x.cl.core (rbOf x.w)).toNat, len := footprint (modelD s g.model)
    peer := fld (sreg x.cl.core (raOf x.w)) 63 56, offset := fld (sreg x.cl.core (raOf x.w)) 31 0, counter := fnOf x.w % 16
    scene := g.chain.getD (fld (sreg x.cl.core (raOf x.w)) 31 0 / 16) 0, layer := (sreg x.cl.core (rdOf x.w)).toNat }

/-- PAGE at issue. -/
theorem execPage_issued {c : Nat} {s : State} {x : CoreCtx} {g : RunBuf} (h : Issues 0x27 c always regsR s x) :
    let far := sreg x.cl.core (raOf x.w)
    let here := (sreg x.cl.core (rbOf x.w)).toNat
    let n := (sreg x.cl.core (rdOf x.w)).toNat
    here % 64 = 0 → x.run.bufs[fld far 63 56]? = some g → g.kind = 4 →
    here + footprint (modelD s g.model) ≤ x.cl.wlimit → fld far 31 0 < 16 * g.chain.length → n < (modelD s g.model).layers →
    ((findScene s x.run.company (g.chain.getD (fld far 31 0 / 16) 0)).map (·.retired)) = some false → storesDone x = true →
    ∃ u, execPage c s = .next u ∧ IssuedBy x (pageXfer x g s) u := by
  intro far here n align hg hk low pos layer live done
  have aligned : ¬ (here % 64 != 0) = true := by rw [bne_iff_ne]; exact not_not_intro align
  have inChain : ¬ (decide (16 * g.chain.length ≤ fld far 31 0) || decide ((modelD s g.model).layers ≤ n)) = true := by
    simp [pos, layer]
  have notRetired : ¬ ((findScene s x.run.company (g.chain.getD (fld far 31 0 / 16) 0)).map (·.retired)).getD true = true := by
    rw [live]
    exact Bool.false_ne_true
  have ofScenes : ¬ (g.kind != 4) = true := by simp [hk]
  have settled : ¬ (!storesDone x) = true := by simp [done]
  refine coreRow_done_exists h ?_
  rw [if_neg aligned, hg]
  refine ⟨_, (if_neg ofScenes).trans ((if_neg (Nat.not_lt.mpr low)).trans ((if_neg inChain).trans
    ((if_neg notRetired).trans (if_neg settled)))), ?_⟩
  exact issuedBy_issue _ ((cluster_of_clusters (translate_clusters ..) _).trans
    (clusterIn_some (running_clusterIn h.runs)).cluster) (cluster_of_clusters (wantPage_clusters ..) _)

/-! Transfers that land. -/

section Landing
variable {c id : Nat} {data : List Byte} {s : State} {x : CoreCtx} {u : Transfer} (hc : c < 160) (hx : clusterIn c s = some x)
  (hu : x.cl.xfers.find? (·.id == id) = some u) (hf : u.failed = none)
include hc hx hu hf

theorem transferComplete_put {y : CoreCtx} (hk : u.kind = .put) (hy : clusterIn u.peer s = some y) :
    execTransferComplete c id data false s = .next (bump (if u.atTarget then y.p else x.p) u.counter 1
      (modCluster y.p (areaStore u.offset (sentBytes u s.free)) (spend (dropXfer x u.id s)))) := by
  rw [execTransferComplete, if_neg (Nat.not_le.mpr hc), hx]
  simp only [hu, hf, hk, hy]
  rfl

theorem transferComplete_get {y : CoreCtx} (hk : u.kind = .get) (hy : clusterIn u.peer s = some y) :
    execTransferComplete c id data false s = .next (landHere x u (areaLoad y.cl s.free u.offset u.len) (spend s)) := by
  rw [execTransferComplete, if_neg (Nat.not_le.mpr hc), hx]
  simp only [hu, hf, hk, hy]
  rfl

theorem transferComplete_moveOut {b : RunBuf} (hk : u.kind = .moveOut) (hb : x.run.bufs[u.peer]? = some b) :
    execTransferComplete c id data false s
      = .next (bump x.p u.counter 1 (spend (bufWrite x.run b u.offset (sentBytes u s.free) (dropXfer x u.id s)))) := by
  rw [execTransferComplete, if_neg (Nat.not_le.mpr hc), hx]
  simp only [hu, hf, hk, hb]
  rfl

theorem transferComplete_moveIn_host {b : RunBuf} (hk : u.kind = .moveIn) (hb : x.run.bufs[u.peer]? = some b) (host : b.kind = 1)
    (hl : data.length = u.len) : execTransferComplete c id data false s = .next (landHere x u data s) := by
  rw [execTransferComplete, if_neg (Nat.not_le.mpr hc), hx]
  simp [hu, hf, hk, hb, host, hl]

theorem transferComplete_moveIn {b : RunBuf} (hk : u.kind = .moveIn) (hb : x.run.bufs[u.peer]? = some b) (other : b.kind ≠ 1)
    (clean : b.kind = 3 → scratchPoisoned b.addr u.offset u.len s = false)
    (ready : (pagesMoved b u.offset u.len s).all (pageReady s x.run.company) = true) :
    execTransferComplete c id data false s = .next (landHere x u (bufRead b u.offset u.len s) s) := by
  have unpoisoned : ¬ (b.kind == 3 && scratchPoisoned b.addr u.offset u.len s) = true := by simpa using clean
  rw [execTransferComplete, if_neg (Nat.not_le.mpr hc), hx]
  simp only [hu, hf, hk, hb, if_neg unpoisoned, ready]
  simp [other]

theorem transferComplete_page (hk : u.kind = .page) (ready : pageReady s x.run.company (.scene u.scene u.layer) = true) :
    execTransferComplete c id data false s = .next (landHere x u (pageBytes s x.run.company u.scene u.layer) s) := by
  rw [execTransferComplete, if_neg (Nat.not_le.mpr hc), hx]
  simp [hu, hf, hk, ready]

end Landing

/-- Settles O27: the four rows at issue, and the landing by the transfer's kind. -/
theorem transfersAreIssuedAndLand : Obligations.TransfersAreIssuedAndLand := by
  constructor
  · intro c s x far here n issued
    have gives {i : Instr} {v : Transfer} (h : ∃ u, exec i s = .next u ∧ IssuedBy x v u) (hh : v.here = here)
        (hp : v.peer = fld far 63 56) (hc : v.counter = fnOf x.w % 16) : issued i v.kind v.len v.offset := by
      obtain ⟨u, he, xfers, core, work⟩ := h
      exact ⟨u, _, he, xfers, rfl, rfl, hh, rfl, hp, rfl, hc, core, work⟩
    refine ⟨fun put h align low inside high done => gives (v := remoteXfer put x s) ?_ rfl rfl rfl,
      fun g h align low hg fits allowed done kept => gives (v := moveXfer x s) ?_ rfl rfl rfl,
      fun g h align hg hk low pos layer live done => gives (v := pageXfer x g s) ?_ rfl rfl rfl⟩
    · cases put
      · exact remoteRow_issued false h align low inside high done
      · exact remoteRow_issued true h align low inside high done
    · exact execMove_issued h align low hg fits allowed done kept
    · exact execPage_issued h align hg hk low pos layer live done
  · intro c id data s x u hc hx hu hf done
    exact ⟨fun y hk hy => transferComplete_put hc hx hu hf hk hy, fun y hk hy => transferComplete_get hc hx hu hf hk hy,
      fun b hk hb => transferComplete_moveOut hc hx hu hf hk hb,
      fun b hk hb => ⟨fun host hl => transferComplete_moveIn_host hc hx hu hf hk hb host hl,
        fun other clean ready => transferComplete_moveIn hc hx hu hf hk hb other clean ready⟩,
      fun hk ready => transferComplete_page hc hx hu hf hk ready⟩

end Sys2Proof.Machine
end

-- The vector and tile engine.
section
/-!
The engine's rows (R487 to R508), its queue and its commits (R509 to R514), and the elements of its registers (R488).
-/
namespace Sys2Proof.Machine
open Sys2Proof

/-! The form of an engine row. -/

section EngRow
variable {op c : Nat} {legal : Word32 → Bool} {regs : Word32 → List Nat} {body : EngCtx → EngRes} {s : State} {x : CoreCtx}

/-- An engine instruction that issues, and whose result is no fault, is queued with it. -/
theorem engRow_done (h : EngIssues op c legal regs s x) {e : Engine} {fl : Nat} {ws : List Host.Cell}
    {rd : Option (Nat × Word64)} {mem : Bool}
    (hb : body { core := x, e := shadow x.cl, k := s.free } = .done e fl ws rd mem) :
    engRow op c legal regs body s
      = .next (queued x { entryOf e fl with writes := ws, rd := rd, memory := mem } s) := by
  have place := h.place
  rw [engRow, if_neg (Nat.not_le.mpr h.inRange), h.runs]
  simp only [h.inImage, h.opcode, h.noFault, h.isLegal, h.guarded, h.settled, hb]
  simp [Nat.not_le.mpr place, queued, entryOf]

/-- The result is one vector register. -/
theorem engRow_toV (h : EngIssues op c legal regs s x) {vd : Nat} {r : VReg × Nat}
    (hb : body { core := x, e := shadow x.cl, k := s.free } = .done (setV vd r.1 (shadow x.cl)) r.2 [] none false) :
    engRow op c legal regs body s = .next (queued x (entryOf (setV vd r.1 (shadow x.cl)) r.2) s) := engRow_done h hb

/-- The result is one tile register. -/
theorem engRow_toT (h : EngIssues op c legal regs s x) {td : Nat} {r : TReg × Nat}
    (hb : body { core := x, e := shadow x.cl, k := s.free } = .done (setT td r.1 (shadow x.cl)) r.2 [] none false) :
    engRow op c legal regs body s = .next (queued x (entryOf (setT td r.1 (shadow x.cl)) r.2) s) := engRow_done h hb

/-- The same where the flags are left open. -/
theorem engRow_someFlags (h : EngIssues op c legal regs s x) {e : Engine}
    (hb : ∃ fl, body { core := x, e := shadow x.cl, k := s.free } = .done e fl [] none false) :
    ∃ fl, engRow op c legal regs body s = .next (queued x (entryOf e fl) s) := by
  obtain ⟨fl, hfl⟩ := hb
  exact ⟨fl, engRow_done h hfl⟩

end EngRow

/-! Vectors (R489 to R499). -/

/-- VOP and VOPS, but for SEL. -/
theorem vopBody_lanes {y : EngCtx} {b : Nat → Nat} {bFlags : Nat} (legal : vopIllegal y.e (fw y.core.w 3 0) = false)
    (hfn : fw y.core.w 3 0 ≠ 13) :
    let w := y.core.w
    let e := y.e
    let vd := vreg e (rdOf w)
    let r := mapElems (ew e) (active e (fw w 6 4)) vd fun i =>
      laneFn e (fw w 3 0) (elemAt (ew e) (vreg e (raOf w)) i) (b i) (elemAt (ew e) vd i)
    vopBody y b bFlags = toV y (rdOf w) (r.1, r.2 ||| (if (upto e.vl).any (active e (fw w 6 4)) then bFlags else 0)) := by
  have h13 : ¬ (fw y.core.w 3 0 == 13) = true := by simpa using hfn
  simp only [vopBody, legal, if_neg h13]
  rfl

/-- SEL, which every element type has. -/
theorem vopBody_sel {y : EngCtx} {b : Nat → Nat} (hfn : fw y.core.w 3 0 = 13) :
    let w := y.core.w
    let e := y.e
    vopBody y b 0 = toV y (rdOf w) ((mapElems (ew e) (fun i => decide (i < e.vl)) (vreg e (rdOf w)) fun i =>
      (copyElem e (if bit (mreg e (fw w 6 4)) i then elemAt (ew e) (vreg e (raOf w)) i else b i), 0)).1, 0) := by
  have legal : vopIllegal y.e 13 = false := by simp [vopIllegal]
  simp only [vopBody, hfn, legal, ite_self]
  rfl

/-- Settles O30: each instruction by its row. -/
theorem vectorInstructionsQueueTheirResult : Obligations.VectorInstructionsQueueTheirResult := by
  intro c s x
  refine ⟨fun h => ?vsetvl, fun h legal hfn => ?vop, fun h hfn => ?sel, fun h legal hfn => ?vops, fun h legal => ?vun,
    fun h hfn => ?broadcast, fun h hfn inside => ?insert, fun h count legal => ?vchain, fun h count legal => ?vlane,
    fun h => ?vcmp, fun h => ⟨fun hfn => ?combine, fun hfn => ?count, fun hfn => ?find, fun hfn inside => ?read⟩,
    fun h => ?vscan⟩
  case vsetvl =>
    simp only [exec, execVsetvl]
    exact engRow_done h rfl
  case vop =>
    simp only [exec, execVop]
    refine engRow_toV h ((vopBody_lanes legal hfn).trans ?_)
    simp only [ite_self, Nat.or_zero]
    rfl
  case sel =>
    have pick (i : Nat) : elemAt (ew (shadow x.cl)) (vreg (shadow x.cl)
        (if bit (mreg (shadow x.cl) (fw x.w 6 4)) i then raOf x.w else rbOf x.w)) i
        = if bit (mreg (shadow x.cl) (fw x.w 6 4)) i then elemAt (ew (shadow x.cl)) (vreg (shadow x.cl) (raOf x.w)) i
          else elemAt (ew (shadow x.cl)) (vreg (shadow x.cl) (rbOf x.w)) i := by split <;> rfl
    simp only [exec, execVop, pick]
    refine engRow_done h ?_
    exact vopBody_sel (y := { core := x, e := shadow x.cl, k := s.free }) hfn
  case vops =>
    simp only [exec, execVops]
    refine engRow_done h ?_
    exact vopBody_lanes (y := { core := x, e := shadow x.cl, k := s.free }) legal hfn
  case vun =>
    have fine : ¬ (!isFp (shadow x.cl) && decide (3 ≤ fw x.w 3 0) && decide (fw x.w 3 0 ≤ 6)) = true := by
      simp only [Bool.and_eq_true, Bool.not_eq_true', decide_eq_true_eq]
      rintro ⟨⟨notFp, low⟩, high⟩
      rcases legal with fp | lt | gt
      · exact Bool.false_ne_true (notFp.symm.trans fp)
      · omega
      · omega
    simp only [exec, execVun]
    exact engRow_toV h (if_neg fine)
  case broadcast =>
    simp only [exec, execVmisc]
    refine engRow_toV h ?_
    simp only [hfn]
    rfl
  case insert =>
    simp only [exec, execVmisc]
    refine engRow_toV h ?_
    simp only [hfn]
    exact if_neg (Nat.not_le.mpr inside)
  case vchain =>
    simp only [exec, execVchain]
    exact engRow_toV h (if_neg (by simp only [legal]; simpa using count))
  case vlane =>
    simp only [exec, execVlane]
    exact engRow_toV h (if_neg (by simp only [legal]; simpa using count))
  case vcmp =>
    simp only [exec, execVcmp]
    refine engRow_someFlags h ?_
    cases bit x.w 5
    · exact ⟨_, rfl⟩
    · exact ⟨_, rfl⟩
  case combine =>
    simp only [exec, execVmisc]
    exact engRow_done h (if_pos hfn)
  case count | find =>
    simp only [exec, execVmisc]
    refine engRow_done h ?_
    simp only [hfn]
    rfl
  case read =>
    simp only [exec, execVmisc]
    refine engRow_done h ?_
    simp only [hfn]
    exact if_neg (Nat.not_le.mpr inside)
  case vscan =>
    simp only [exec, execVscan]
    split
    next empty => exact engRow_done h (if_pos (by simpa using empty))
    next some => exact engRow_toV h (if_neg (by simpa using some))

/-! Memory and tiles (R496, R500 to R503). -/

/-- Settles O31: each instruction by its row; TLS by its direction. -/
theorem engineMemoryInstructionsQueueTheirResult : Obligations.EngineMemoryInstructionsQueueTheirResult := by
  intro c s x
  refine ⟨fun h fits => ?vld, fun h fits => ?vst, fun h fits => ⟨fun out => ?store, fun in_ => ?load⟩⟩
  case vld =>
    simp only [exec, execVld]
    refine engRow_done h ?_
    simp only
    rw [fits]
    rfl
  case vst =>
    simp only [exec, execVst]
    refine engRow_done h ?_
    simp only
    rw [fits]
    rfl
  case store =>
    simp only [exec, execTls]
    refine engRow_done h ?_
    simp only [sOf]
    rw [fits]
    exact if_pos out
  case load =>
    simp only [exec, execTls]
    refine engRow_done h ?_
    simp only [sOf]
    rw [fits]
    exact if_neg (by simp [in_])

/-- Settles O32: each instruction by its row; TMOV by its kind. -/
theorem tileInstructionsQueueTheirResult : Obligations.TileInstructionsQueueTheirResult := by
  intro c s x
  refine ⟨fun h legal => ?tmac, fun h => ?tred, fun h => ?tbc,
    fun h => ⟨fun hk => ?clear, fun hk => ?transpose, fun hk whole fits => ?toVector, fun hk whole fits => ?toTile⟩⟩
  case tmac =>
    have fine : ¬ (!isFp (shadow x.cl) && fw x.w 6 5 != 0) = true := by
      rcases legal with fp | zero
      · simp [fp]
      · simp [zero]
    simp only [exec, execTmac]
    exact engRow_toT h (if_neg fine)
  case tred =>
    simp only [exec, execTred]
    exact engRow_toV h rfl
  case tbc =>
    simp only [exec, execTbc]
    exact engRow_toT h rfl
  all_goals simp only [exec, execTmov]
  case clear =>
    exact engRow_done h (if_pos (by simp [hk]))
  case transpose =>
    exact engRow_toT h ((if_neg (by simp [hk])).trans (if_pos (by simp [hk])))
  all_goals
    have fine : ¬ ((shadow x.cl).vl % 32 != 0 || decide (32 < fw x.w 10 6 + (shadow x.cl).vl / 32)) = true := by
      simp [whole, fits]
  case toVector =>
    exact engRow_toV h ((if_neg (by simp [hk])).trans ((if_neg (by simp [hk])).trans
      ((if_neg fine).trans (if_pos (by simp [hk])))))
  case toTile =>
    exact engRow_toT h ((if_neg (by simp [hk])).trans ((if_neg (by simp [hk])).trans
      ((if_neg fine).trans (if_neg (by simp [hk])))))

/-! Commits (R509, R512 to R514). -/

theorem areaPut_eq (c : Cluster) (a : Nat) (b : Byte) : ∃ w, areaPut c a b = { c with work := w } := by
  unfold areaPut
  split <;> exact ⟨_, rfl⟩

theorem areaPuts_eq (d : List Byte) : ∀ (c : Cluster) (a : Nat), ∃ w, areaPuts c a d = { c with work := w } := by
  induction d with
  | nil => intro c a; exact ⟨c.work, rfl⟩
  | cons b r ih =>
    intro c a
    obtain ⟨w, hw⟩ := areaPut_eq c a b
    obtain ⟨v, hv⟩ := ih { c with work := w } (a + 1)
    exact ⟨v, by rw [areaPuts, hw, hv]⟩

/-- A store changes the working area, and which bytes of transfers it has touched. -/
theorem areaStore_eq (a : Nat) (d : List Byte) (c : Cluster) :
    ∃ w xs, areaStore a d c = { c with work := w, xfers := xs } := by
  obtain ⟨w, hw⟩ := areaPuts_eq d c a
  exact ⟨w, _, by rw [areaStore, hw]; rfl⟩

/-- The stores of an engine entry. -/
def storeCells (l : List Host.Cell) (c : Cluster) : Cluster := l.foldl (fun cl p => areaStore p.1 [p.2] cl) c

theorem storeCells_eq (l : List Host.Cell) : ∀ c : Cluster, ∃ w xs, storeCells l c = { c with work := w, xfers := xs } := by
  induction l with
  | nil => intro c; exact ⟨c.work, c.xfers, rfl⟩
  | cons p r ih =>
    intro c
    obtain ⟨w, xs, h⟩ := areaStore_eq p.1 [p.2] c
    obtain ⟨v, ys, hr⟩ := ih { c with work := w, xfers := xs }
    exact ⟨v, ys, by rw [storeCells, List.foldl_cons, h]; exact hr⟩

theorem areaByte_storeCells {l : List Host.Cell} {a : Nat} (h : ∀ b, (a, b) ∉ l) (c : Cluster) :
    areaByte (storeCells l c) a = areaByte c a := by
  induction l generalizing c with
  | nil => rfl
  | cons p r ih =>
    have ne : a ≠ p.1 := fun e => h p.2 (e ▸ List.mem_cons_self)
    have stored : areaByte (areaStore p.1 [p.2] c) a = areaByte c a := by
      rw [areaByte_areaStore, areaByte_areaPuts_outside]
      simp only [List.length_singleton]
      omega
    exact (ih (fun b hb => h b (List.mem_cons_of_mem _ hb)) _).trans stored

/-- The scalar result of an entry. -/
def scalarResult (n : EngEntry) (k : Core) : Core :=
  match n.rd with
  | some (rd, v) => { setS rd v k with pendRd := k.pendRd.erase rd }
  | none => k

theorem commitEntry_eq (n : EngEntry) (rest : List EngEntry) (cl : Cluster) :
    commitEntry n rest cl = storeCells n.writes { cl with
      eng := { n.eng with vflags := cl.eng.vflags ||| (if n.eng.flagsOn then n.flags else 0) }, engQ := rest
      core := scalarResult n cl.core } := rfl

/-- The cluster after a commit: the registers, the queue and the scalar result by the entry, the rest but for its stores as before. -/
theorem commitEntry_registers (n : EngEntry) (rest : List EngEntry) (cl : Cluster) :
    ∃ w xs, commitEntry n rest cl = { cl with
      eng := { n.eng with vflags := cl.eng.vflags ||| (if n.eng.flagsOn then n.flags else 0) }, engQ := rest
      core := scalarResult n cl.core, work := w, xfers := xs } := by
  rw [commitEntry_eq]
  exact storeCells_eq _ _

theorem execEngineCommit_oldest {c : Nat} {s : State} {x : CoreCtx} {n : EngEntry} {rest : List EngEntry} (hc : c < 160)
    (hx : clusterIn c s = some x) (hs : x.cl.st = 2 ∨ x.cl.st = 3) (hq : x.cl.engQ = n :: rest) :
    (n.fault = none → execEngineCommit c s = .next (modCluster x.p (commitEntry n rest) s)) ∧
    (∀ code, n.fault = some code → execEngineCommit c s
      = .next (setCore x (fun k => { k with pc := BitVec.ofNat 16 n.pc }) (coreFault x code 0 n.pc s))) := by
  have on : ¬ (!(x.cl.st == 2 || x.cl.st == 3)) = true := by
    rcases hs with h | h <;> simp [h]
  rw [execEngineCommit, if_neg (Nat.not_le.mpr hc), hx]
  simp only [if_neg on, hq]
  exact ⟨fun hf => by rw [hf], fun code hf => by rw [hf]⟩

/-- The cluster after an entry has been queued. -/
def enqueued (n : EngEntry) (cl : Cluster) : Cluster :=
  { cl with
    engQ := cl.engQ ++ [{ n with pc := cl.core.pc.toNat }]
    core := nextPc { cl.core with pendRd := match n.rd with
      | some (rd, _) => if rd == 0 then cl.core.pendRd else cl.core.pendRd ++ [rd]
      | none => cl.core.pendRd } }

theorem queued_eq (x : CoreCtx) (n : EngEntry) (s : State) : queued x n s = modCluster x.p (enqueued n) (spend (spend s)) := rfl

theorem cluster_queued (x : CoreCtx) (n : EngEntry) (s : State) (p : Nat) :
    cluster (queued x n s) p = if p = x.p then enqueued n (cluster s x.p) else cluster s p := by
  rw [queued_eq]
  exact cluster_modCluster x.p p (enqueued n) (spend (spend s))

/-- Settles O33: the queued entry by `enqueue`, the commit by `commitEntry`, the fault by `cluster_coreFault_same`. -/
theorem engineCommitsInOrder : Obligations.EngineCommitsInOrder := by
  intro c s x n
  constructor
  · have here : cluster (queued x n s) x.p = enqueued n (cluster s x.p) := by rw [cluster_queued, if_pos rfl]
    simp only [here]
    exact ⟨rfl, rfl, rfl, rfl, fun p hp => by rw [cluster_queued, if_neg hp], by simp only [queued_eq, modCluster, spend]⟩
  · intro rest hc hx hs hq
    obtain ⟨commits, faults⟩ := execEngineCommit_oldest hc hx hs hq
    have here := (clusterIn_some hx).cluster
    refine ⟨fun hf => ⟨_, commits hf, ?_⟩, fun code hf => ⟨_, faults code hf, ?_⟩⟩
    · obtain ⟨w, xs, after⟩ := commitEntry_registers n rest x.cl
      rw [cluster_modCluster_same, here]
      refine ⟨by rw [after], by rw [after], fun rd v hrd => by rw [after, scalarResult, hrd], fun hrd => by rw [after, scalarResult, hrd],
        fun a ha => ?_, fun p hp => by rw [cluster_modCluster, if_neg hp], rfl⟩
      rw [commitEntry_eq, areaByte_storeCells ha]
      rfl
    · rw [setCore, cluster_modCluster_same, cluster_coreFault_same, here]
      exact ⟨rfl, rfl, rfl, rfl, rfl⟩

/-! Elements of a register (R488). -/

/-- The number whose digits in base 2 ^ w are a list's entries, lowest first. -/
def packed (w : Nat) (l : List Nat) : Nat := l.foldr (fun x acc => acc * 2 ^ w + x) 0

theorem packed_lt {w : Nat} {l : List Nat} (h : ∀ x ∈ l, x < 2 ^ w) : packed w l < 2 ^ (w * l.length) := by
  induction l with
  | nil => simp [packed]
  | cons x r ih =>
    have hx := h x List.mem_cons_self
    have hr := ih fun y hy => h y (List.mem_cons_of_mem _ hy)
    have step : packed w (x :: r) = packed w r * 2 ^ w + x := rfl
    rw [step, List.length_cons, Nat.mul_succ, Nat.pow_add]
    calc packed w r * 2 ^ w + x < packed w r * 2 ^ w + 2 ^ w := by omega
      _ = (packed w r + 1) * 2 ^ w := (Nat.succ_mul ..).symm
      _ ≤ 2 ^ (w * r.length) * 2 ^ w := Nat.mul_le_mul_right _ hr

theorem digit_packed {w : Nat} {l : List Nat} (h : ∀ x ∈ l, x < 2 ^ w) (i : Nat) :
    packed w l / 2 ^ (w * i) % 2 ^ w = l.getD i 0 := by
  induction l generalizing i with
  | nil => simp [packed]
  | cons x r ih =>
    have hx := h x List.mem_cons_self
    have step : packed w (x :: r) = packed w r * 2 ^ w + x := rfl
    rw [step]
    cases i with
    | zero => simp [Nat.mod_eq_of_lt hx]
    | succ i =>
      have low : (packed w r * 2 ^ w + x) / 2 ^ w = packed w r := by
        rw [Nat.mul_comm, Nat.mul_add_div (Nat.two_pow_pos w), Nat.div_eq_of_lt hx, Nat.add_zero]
      rw [Nat.mul_succ, Nat.pow_add, Nat.mul_comm (2 ^ (w * i)), ← Nat.div_div_eq_div_mul, low, List.getD_cons_succ]
      exact ih (fun y hy => h y (List.mem_cons_of_mem _ hy)) i

theorem elemAt_packElems {n w : Nat} {l : List Nat} (h : ∀ x ∈ l, x < 2 ^ w) (hl : w * l.length ≤ n) (i : Nat) :
    elemAt w (packElems n w l) i = l.getD i 0 := by
  have fits : packed w l < 2 ^ n := Nat.lt_of_lt_of_le (packed_lt h) (Nat.pow_le_pow_right (by decide) hl)
  rw [elemAt, packElems, BitVec.toNat_ofNat]
  change packed w l % 2 ^ n / 2 ^ (w * i) % 2 ^ w = _
  rw [Nat.mod_eq_of_lt fits, digit_packed h]

/-- Settles O34: the elements of what `mapElems` packs are those of its list. -/
theorem elementsAreReplacedAlone : Obligations.ElementsAreReplacedAlone := by
  intro n w p old f i hw hn hf hi
  have list : (mapElems w p old f).1 = packElems n w ((upto (n / w)).map fun j => if p j then (f j).1 else elemAt w old j) := by
    refine congrArg (packElems n w) (List.ext_getElem (by simp [elems]) fun j _ _ => ?_)
    simp only [elems, upto, List.getElem_map, List.getElem_zipIdx, List.getElem_range, Nat.zero_add]
    split <;> rfl
  rw [list, elemAt_packElems]
  · simp [upto, List.getD_eq_getElem?_getD, hi]
  · intro y hy
    obtain ⟨j, -, rfl⟩ := List.mem_map.mp hy
    split
    · exact hf j
    · exact Nat.mod_lt _ (Nat.two_pow_pos w)
  · simp [upto, Nat.mul_div_le]

end Sys2Proof.Machine
end

-- Runs, Midnight, and completions.
section
/-!
How runs start and end (R462 to R472), the Midnight scan and a cluster's window (R474 to R477, R565), and what ends a command
(R552, R553).
-/
namespace Sys2Proof.Machine
open Sys2Proof

/-! What the end of a command leaves of a cluster. -/

/-- Every cluster keeps its core, its engine registers, its working area and its place in the cluster map. -/
structure CoresKept (s u : State) : Prop where
  kept : ∀ p, (cluster u p).core = (cluster s p).core ∧ (cluster u p).eng = (cluster s p).eng ∧
    (cluster u p).work = (cluster s p).work ∧ (cluster u p).mapState = (cluster s p).mapState

theorem CoresKept.trans {s t u : State} (h : CoresKept s t) (k : CoresKept t u) : CoresKept s u := ⟨fun p => by
  obtain ⟨hc, he, hw, hm⟩ := h.kept p
  obtain ⟨kc, ke, kw, km⟩ := k.kept p
  exact ⟨kc.trans hc, ke.trans he, kw.trans hw, km.trans hm⟩⟩

theorem CoresKept.of_clusters {s u : State} (h : u.clusters = s.clusters) : CoresKept s u := ⟨fun p => by
  rw [cluster_of_clusters h]
  exact ⟨rfl, rfl, rfl, rfl⟩⟩

theorem CoresKept.before {s t u : State} (k : CoresKept t u) (h : t.clusters = s.clusters) : CoresKept s u :=
  (CoresKept.of_clusters h).trans k

theorem CoresKept.refl (s : State) : CoresKept s s := CoresKept.of_clusters rfl

theorem CoresKept.foldl {α : Type} {f : State → α → State} (h : ∀ s x, CoresKept s (f s x)) (l : List α) (s : State) :
    CoresKept s (l.foldl f s) := by
  induction l generalizing s with
  | nil => exact .refl s
  | cons x r ih => exact (h s x).trans (ih (f s x))

theorem haltRun_coresKept (seq : Nat) (s : State) : CoresKept s (haltRun seq s) := ⟨fun p => by
  rw [cluster_haltRun, halted]
  split <;> exact ⟨rfl, rfl, rfl, rfl⟩⟩

/-- A cluster whose allotments are released falls idle. -/
def released (cs : List Nat) (c : Cluster) : Cluster :=
  if c.st == 1 && (c.mapState == 0 || c.mapState == 3) && cs.contains c.logical.toNat then { c with st := 0 } else c

theorem cluster_releaseAllots (cs : List Nat) (s : State) (p : Nat) :
    cluster (releaseAllots cs s) p = released cs (cluster s p) :=
  kgetD_kmap s.clusters (fun _ => released cs) p Cluster.fresh rfl

theorem releaseAllots_coresKept (cs : List Nat) (s : State) : CoresKept s (releaseAllots cs s) := ⟨fun p => by
  rw [cluster_releaseAllots, released]
  split <;> exact ⟨rfl, rfl, rfl, rfl⟩⟩

theorem dropAtt_coresKept (op : AttOp) (s : State) : CoresKept s (dropAtt op s) :=
  (releaseAllots_coresKept _ _).before rfl

theorem postCompletion_clusters (qn : Nat) (c : Completion) (s : State) : (postCompletion qn c s).clusters = s.clusters := by
  have kept := congrArg State.clusters (show postFields (postCompletion qn c s) s = s from postCompletion_only qn c s)
  exact kept

theorem logError_clusters (t : Taken) (c : Completion) (s : State) : (logError t c s).clusters = s.clusters := by
  unfold logError
  split <;> rfl

theorem reportMiss_clusters (t : Taken) (c : Completion) (s : State) : (reportMiss t c s).clusters = s.clusters := by
  unfold reportMiss
  simp only
  split
  · rfl
  split
  · rw [modPerf2_clusters]
    split <;> rfl
  · rfl

theorem finishCore_clusters (t : Taken) (c : Completion) (s : State) : (finishCore t c s).clusters = s.clusters := by
  unfold finishCore
  simp only
  rw [postCompletion_clusters, reportMiss_clusters]
  split
  · rw [countRefusal_clusters, logError_clusters, dropTaken_clusters]
  · rw [logError_clusters, dropTaken_clusters]

theorem finishCore_coresKept (t : Taken) (c : Completion) (s : State) : CoresKept s (finishCore t c s) :=
  .of_clusters (finishCore_clusters t c s)

theorem writeBitmap_clusters (t : Taken) (a n : Nat) (l : List Nat) (s : State) : (writeBitmap t a n l s).clusters = s.clusters := by
  unfold writeBitmap
  split <;> rfl

theorem endCue_coresKept (t : Taken) (op : CueOp) (st : Nat) (s : State) : CoresKept s (endCue t op st s) := by
  unfold endCue
  simp only
  split
  · exact .of_clusters ((finishCore_clusters ..).trans (writeBitmap_clusters ..))
  · exact .of_clusters (finishCore_clusters ..)

theorem endWeights_coresKept (t : Taken) (op : WsOp) (st : Nat) (s : State) : CoresKept s (endWeights t op st s) := by
  unfold endWeights
  refine .of_clusters ((finishCore_clusters ..).trans ?_)
  split
  · exact writeBitmap_clusters ..
  · rfl

theorem abortUnrun_coresKept (st : Nat) (t : Taken) (s : State) : CoresKept s (abortUnrun st t s) := by
  unfold abortUnrun
  split
  · exact finishCore_coresKept ..
  split
  · exact finishCore_coresKept ..
  split <;> exact .of_clusters ((finishCore_clusters ..).trans (writeBitmap_clusters ..))

theorem abortOne_coresKept (st : Nat) (t : Taken) (s : State) : CoresKept s (abortOne st t s) := by
  unfold abortOne
  split
  · exact abortUnrun_coresKept ..
  split
  case h_1 | h_2 => split; exact endCue_coresKept ..; exact .refl s
  case h_3 => split; exact endWeights_coresKept ..; exact .refl s
  case h_4 | h_5 =>
    split
    · exact (dropAtt_coresKept ..).trans (finishCore_coresKept ..)
    · exact .refl s
  case h_7 =>
    split
    · split
      · exact .of_clusters (finishCore_clusters ..)
      · exact (haltRun_coresKept ..).before rfl
    · exact .refl s
  case h_6 | h_8 | h_9 | h_10 | h_11 => exact .of_clusters (finishCore_clusters ..)
  · exact .refl s

theorem abortAll_coresKept (st : Nat) (p : Taken → Bool) (s : State) : CoresKept s (abortAll st p s).1 :=
  .foldl (fun s t => abortOne_coresKept st t s) _ s

theorem flushQueue_coresKept (y st keep : Nat) (s : State) : CoresKept s (flushQueue y st keep s).1 := by
  unfold flushQueue
  split
  · exact .refl s
  · exact (abortAll_coresKept ..).before rfl

theorem completeWait_coresKept (t : Taken) (abort : Bool) (c : Completion) (s : State) :
    CoresKept s (completeWait t abort c s) := by
  unfold completeWait
  split
  · exact (flushQueue_coresKept ..).trans (finishCore_coresKept ..)
  · exact finishCore_coresKept ..

theorem endWait_coresKept (n : Nat) (w : QWait) (c : Completion) (s : State) : CoresKept s (endWait n w c s) := by
  unfold endWait
  simp only
  split
  · split
    · exact (flushQueue_coresKept ..).before rfl
    · exact .of_clusters rfl
  · exact (completeWait_coresKept ..).before rfl

theorem settleN_coresKept (n : Nat) (s : State) : CoresKept s (settleN n s) := by
  induction n generalizing s with
  | zero => exact .refl s
  | succ n ih =>
    unfold settleN
    split
    · exact (endWait_coresKept ..).trans (ih _)
    · exact (endWait_coresKept ..).trans (ih _)
    · split
      · refine (ih _).before ((finishCore_clusters ..).trans ?_)
        split <;> rfl
      · exact .refl s

theorem finish_coresKept (t : Taken) (c : Completion) (s : State) : CoresKept s (finish t c s) := by
  unfold finish
  split
  · exact (finishCore_coresKept ..).trans (settleN_coresKept ..)
  · exact .refl s

/-! Completions posted (R549 to R553). -/

/-- What `finishCore` does before it posts: the command leaves those in flight, and neither queues nor what goes out change. -/
structure Dropped (t : Taken) (s u : State) : Prop where
  taken  : u.taken = s.taken.filter (fun v => v.seq != t.seq)
  queues : u.queues = s.queues
  out    : u.out = s.out

theorem dropped_dropTaken (t : Taken) (s : State) : Dropped t s (dropTaken t.seq s) := ⟨rfl, rfl, rfl⟩

theorem Dropped.logError {t : Taken} {s u : State} (h : Dropped t s u) (c : Completion) : Dropped t s (logError t c u) := by
  unfold Machine.logError
  split
  · exact h
  · exact ⟨h.taken, h.queues, h.out⟩

theorem Dropped.reportMiss {t : Taken} {s u : State} (h : Dropped t s u) (c : Completion) : Dropped t s (reportMiss t c u) := by
  have posted (x : Word64) : Dropped t s (if missDetail t.opcode c == 0 then u
      else postEvent 4 t.company x (missDetail t.opcode c) u) := by
    split
    · exact h
    · exact ⟨h.taken, h.queues, h.out⟩
  unfold Machine.reportMiss
  simp only
  split
  · exact ⟨h.taken, h.queues, h.out⟩
  split
  · exact ⟨(posted _).taken, (posted _).queues, (posted _).out⟩
  · exact h

/-- The entry of a completion goes to the ring, or behind it. -/
theorem postCompletion_posts {s : State} {n : Nat} {q : Queue} (hq : queue s n = some q) (e : Completion) :
    (postCompletion n e s).taken = s.taken ∧
    ∃ q', queue (postCompletion n e s) n = some q' ∧ q'.compCount = q.compCount + 1 ∧
      (if ringFull q = true ∨ q.spill ≠ [] then
        q'.spill = q.spill ++ [e] ∧ q'.cqTail = q.cqTail ∧ (postCompletion n e s).out = s.out
      else
        q'.spill = q.spill ∧ q'.cqTail = (q.cqTail + 1) % q.cqSize ∧
        q'.phase = (if q'.cqTail = 0 then !q.phase else q.phase) ∧
        (postCompletion n e s).out = .completion n q.cqTail e.r0 e.r1 e.r2
          (w64 (b2n q.phase * 2 ^ 63 + e.status * 2 ^ 32 + e.tag * 2 ^ 16 + q.head)) :: s.out) := by
  by_cases behind : ringFull q = true ∨ q.spill ≠ []
  · have cond : (ringFull q || !q.spill.isEmpty) = true := by simpa using behind
    rw [postCompletion, hq]
    simp only [if_pos cond, if_pos behind]
    exact ⟨trivial, _, kget_kset_same _ _ _, rfl, rfl, rfl, trivial⟩
  · have cond : ¬ (ringFull q || !q.spill.isEmpty) = true := by simpa using behind
    have again (r : Queue) : queue { s with queues := kset s.queues n r } n = some r := kget_kset_same _ _ _
    rw [postCompletion, hq]
    simp only [if_neg cond, if_neg behind, writeEntry, again]
    refine ⟨rfl, _, kget_kset_same _ _ _, rfl, rfl, rfl, ?_, rfl⟩
    simp only [beq_iff_eq]

/-- Settles O37: the entry by `postCompletion_posts`; what is left alone by `finish_only` and `finish_coresKept`. -/
theorem completionsArePostedOnce : Obligations.CompletionsArePostedOnce := by
  constructor
  · intro s t c q
    refine ⟨fun gone => by rw [finish, if_neg (by simp [gone])], fun hq => ?_⟩
    intro u e
    have before : Dropped t s (reportMiss t e
        (if e.status == 0x201 then countRefusal (if t.queue == 0 && !(t.opcode == 0x50 && e.r1 != 0xFF) then 0 else t.company)
          (logError t e (dropTaken t.seq s)) else logError t e (dropTaken t.seq s))) := by
      have logged := (dropped_dropTaken t s).logError e
      refine Dropped.reportMiss ?_ e
      split
      · exact ⟨logged.taken, logged.queues, logged.out⟩
      · exact logged
    obtain ⟨taken, q', hq', count, posted⟩ := postCompletion_posts (n := t.queue) ((congrArg (kget · t.queue) before.queues).trans hq) e
    refine ⟨taken.trans before.taken, q', hq', count, ?_⟩
    rw [before.out] at posted
    exact posted
  · intro s t c u
    have kept : endFields u s = s := finish_only t c s
    have field {α : Type} (f : State → α) : f (endFields u s) = f s := congrArg f kept
    have fuses : u.fuses = s.fuses := field State.fuses
    have cores : ∀ p, (cluster u p).core = (cluster s p).core ∧ (cluster u p).eng = (cluster s p).eng ∧
        (cluster u p).work = (cluster s p).work := fun p => by
      obtain ⟨core, eng, work, -⟩ := (finish_coresKept t c s).kept p
      exact ⟨core, eng, work⟩
    exact ⟨field State.store, field State.loft, field State.arb, field State.dev, field State.pwr, field State.health,
      field State.ports, field State.agents, field State.coherent, field State.atomics, field State.snoops,
      field State.sessions, field State.conns, field State.eth, field State.fw, field State.disk, field State.flash,
      field State.nextSeq, by rw [fused, fused, fuses], field State.pending, cores⟩

end Sys2Proof.Machine
end

-- Runs of clusters, and the Midnight scan.
section
/-!
How the clusters of a run are found and started (R461 to R463), how runs end (R464 to R466, R471), and the rows of Midnight and of a
cluster's window (R474 to R477, R565).
-/
namespace Sys2Proof.Machine
open Sys2Proof

/-! Maps with rising keys. -/

section Ordered
variable {α : Type} {m : KMap α}

theorem ordered_cons {a : Nat} {l : List Nat} : ordered (a :: l) = true ↔ (∀ b ∈ l, a < b) ∧ ordered l = true := by
  simp [ordered]

theorem kget_eq_none_of_lt {n : Nat} (h : ∀ b ∈ m.map (·.1), n < b) : kget m n = none := by
  induction m with
  | nil => rfl
  | cons q r ih =>
    obtain ⟨k, v⟩ := q
    have hk : n < k := h k (by simp)
    rw [kget, if_neg (by omega)]
    exact ih fun b hb => h b (by simp at hb ⊢; exact .inr hb)

/-- An entry of an ordered map is what its key gives. -/
theorem kget_of_mem (ho : ordered (m.map (·.1)) = true) {n : Nat} {x : α} (h : (n, x) ∈ m) : kget m n = some x := by
  induction m with
  | nil => cases h
  | cons q r ih =>
    obtain ⟨k, v⟩ := q
    obtain ⟨low, hr⟩ := ordered_cons.mp ho
    obtain h | h := List.mem_cons.mp h
    · cases h; simp [kget]
    · have hk : k < n := low n (List.mem_map.mpr ⟨(n, x), h, rfl⟩)
      rw [kget, if_neg (by omega)]
      exact ih hr h

/-- Replacing a present entry of an ordered map replaces it in place. -/
theorem kset_present (ho : ordered (m.map (·.1)) = true) {n : Nat} {x : α} (h : kget m n = some x) (y : α) :
    (kset m n y).map (·.1) = m.map (·.1) ∧
    ∀ {β : Type} (g : Nat × α → Option β), g (n, y) = g (n, x) → (kset m n y).findSome? g = m.findSome? g := by
  induction m with
  | nil => cases h
  | cons q r ih =>
    obtain ⟨k, v⟩ := q
    obtain ⟨low, hr⟩ := ordered_cons.mp ho
    simp only [kget] at h
    split at h
    next e =>
      subst e
      cases h
      simp only [kset, if_neg (Nat.lt_irrefl k), if_true]
      exact ⟨rfl, fun g hg => by rw [List.findSome?_cons, List.findSome?_cons, hg]⟩
    next ne =>
      have hn : ¬ n < k := fun lt => by
        rw [kget_eq_none_of_lt fun b hb => Nat.lt_trans lt (low b hb)] at h
        cases h
      obtain ⟨keys, found⟩ := ih hr h
      simp only [kset, if_neg hn, if_neg (Ne.symm ne)]
      exact ⟨by rw [List.map_cons, List.map_cons, keys], fun g hg => by
        rw [List.findSome?_cons, List.findSome?_cons, found g hg]⟩

end Ordered

/-! The physical cluster of a logical number (R121). -/

/-- The test by which `physOf` finds a cluster. -/
def serves (c : Nat) (p : Nat × Cluster) : Option Nat :=
  if (p.2.mapState == 0 || p.2.mapState == 3) && p.2.logical.toNat == c then some p.1 else none

/-- A cluster found is there, and has the number. -/
theorem physOf_some {s : State} (ho : ordered (s.clusters.map (·.1)) = true) {c p : Nat} (h : physOf s c = some p) :
    kget s.clusters p = some (cluster s p) ∧ (cluster s p).logical.toNat = c := by
  obtain ⟨⟨k, cl⟩, hm, hg⟩ := List.exists_of_findSome?_eq_some h
  simp only at hg
  split at hg
  next cond =>
    cases hg
    have hk := kget_of_mem ho hm
    have hcl : cluster s p = cl := by rw [cluster, kgetD, hk, Option.getD_some]
    simp only [Bool.and_eq_true, beq_iff_eq] at cond
    exact ⟨by rw [hk, hcl], by rw [hcl]; exact cond.2⟩
  · cases hg

/-- A change of a cluster that keeps its number and its place in the map keeps who serves what. -/
theorem physOf_modCluster {s : State} (ho : ordered (s.clusters.map (·.1)) = true) {p : Nat}
    (h : kget s.clusters p = some (cluster s p)) {f : Cluster → Cluster} (hm : ∀ cl, (f cl).mapState = cl.mapState)
    (hl : ∀ cl, (f cl).logical = cl.logical) :
    ordered ((modCluster p f s).clusters.map (·.1)) = true ∧ ∀ c, physOf (modCluster p f s) c = physOf s c := by
  obtain ⟨keys, found⟩ := kset_present ho h (f (cluster s p))
  exact ⟨(congrArg ordered keys).trans ho, fun c => found (serves c) (by simp only [serves, hm, hl])⟩

/-! RUN_START (R462, R463). -/

/-- What RUN_START does for one cluster of the run. -/
def startOne (op : RunOp) (s : State) (x : Nat × Nat) : State :=
  match physOf s x.1 with
  | some p => modCluster p (startCluster s op x.2) (spend s)
  | none => s

theorem execRunStart_eq {r : CmdRef} {s : State} {t : Taken} {op : RunOp} (ht : findRunning 0x61 r s = some t)
    (ho : runOf s t.seq = some op) (hs : canStart s op = true) :
    execRunStart r s = .next (trimWorking (modRun op.seq
      (fun o => { o with started := some (now ((runClusters op).zipIdx.foldl (startOne op) s)) })
      ((runClusters op).zipIdx.foldl (startOne op) s))) := by
  simp only [execRunStart, ht, Option.bind_some, ho, hs]
  rfl

/-- The states while a run's clusters start, from s on: numbers, runs and time as in s. -/
structure Starting (s u : State) : Prop where
  ordered : ordered (u.clusters.map (·.1)) = true
  phys    : ∀ c, physOf u c = physOf s c
  runs    : ∀ seq, runOf u seq = runOf s seq
  time    : now u = now s

theorem Starting.startOne {s u : State} (h : Starting s u) (op : RunOp) (x : Nat × Nat) : Starting s (startOne op u x) := by
  unfold Machine.startOne
  cases hp : physOf u x.1 with
  | none => exact h
  | some p =>
    obtain ⟨keys, kept⟩ := physOf_modCluster (s := spend u) h.ordered (physOf_some h.ordered hp).1
      (f := startCluster u op x.2) (fun _ => rfl) fun _ => rfl
    exact ⟨keys, fun c => (kept c).trans (h.phys c), h.runs, h.time⟩

theorem Starting.foldl {s : State} (op : RunOp) (l : List (Nat × Nat)) : ∀ {u : State}, Starting s u →
    Starting s (l.foldl (Machine.startOne op) u) := by
  induction l with
  | nil => intro u h; exact h
  | cons x r ih => intro u h; exact ih (h.startOne op x)

/-- A cluster that serves none of the numbers keeps its state. -/
theorem cluster_startAll_other {s : State} {op : RunOp} {p : Nat} (l : List (Nat × Nat)) :
    ∀ {u : State}, Starting s u → (∀ x ∈ l, physOf s x.1 ≠ some p) →
      cluster (l.foldl (startOne op) u) p = cluster u p := by
  induction l with
  | nil => intro u _ _; rfl
  | cons x r ih =>
    intro u h hp
    rw [List.foldl_cons, ih (h.startOne op x) fun y hy => hp y (List.mem_cons_of_mem _ hy), startOne]
    have first := hp x List.mem_cons_self
    rw [← h.phys] at first
    cases hq : physOf u x.1 with
    | none => rfl
    | some q =>
      have ne : p ≠ q := fun e => first (by rw [hq, e])
      exact (cluster_modCluster _ _ _ _).trans (if_neg ne)

/-- Every cluster that serves one of distinct numbers is started, with its place in the list as its rank. -/
theorem cluster_startAll {s : State} (hs : ordered (s.clusters.map (·.1)) = true) {op : RunOp} {c rank p : Nat} (hp : physOf s c = some p) (l : List (Nat × Nat)) :
    ∀ {u : State}, Starting s u → (l.map (·.1)).Nodup → (c, rank) ∈ l →
      ∃ v cl, cluster (l.foldl (startOne op) u) p = startCluster v op rank cl := by
  induction l with
  | nil => intro u _ _ hc; cases hc
  | cons x r ih =>
    intro u h nodup hc
    rw [List.map_cons, List.nodup_cons] at nodup
    obtain ⟨fresh, nodup⟩ := nodup
    obtain rfl | hc := List.mem_cons.mp hc
    · refine ⟨u, cluster u p, ?_⟩
      rw [List.foldl_cons, cluster_startAll_other r (h.startOne op _) fun y hy e => ?_, startOne, h.phys, hp]
      · exact cluster_modCluster_same _ _ _
      · have same : y.1 = c := (physOf_some hs e).2.symm.trans (physOf_some hs hp).2
        exact fresh (List.mem_map.mpr ⟨y, hy, same⟩)
    · exact ih (h.startOne op x) nodup hc

theorem trimWorking_runOf (s : State) (seq : Nat) : runOf (trimWorking s) seq = runOf s seq := rfl

/-- RUN_START: the run has started, and each of its clusters is in the state of R463. -/
theorem runStart_started {r : CmdRef} {s : State} {t : Taken} {op : RunOp} (hs : Shaped s)
    (ht : findRunning 0x61 r s = some t) (ho : runOf s t.seq = some op) (hc : canStart s op = true) :
    ∃ u, execRunStart r s = .next u ∧ runOf u op.seq = some { op with started := some (now s) } ∧
      ∀ rank c p, (runClusters op)[rank]? = some c → physOf s c = some p → (runClusters op).Nodup →
        ∃ v cl, cluster u p = startCluster v op rank cl := by
  have start : Starting s s := ⟨hs.clusters, fun _ => rfl, fun _ => rfl, rfl⟩
  have after := start.foldl op (runClusters op).zipIdx
  refine ⟨_, execRunStart_eq ht ho hc, ?_, fun rank c p hrank hp nodup => ?_⟩
  · rw [trimWorking_runOf, ← after.time]
    have found : runOf s op.seq = some op := by rw [runOf_seq ho]; exact ho
    exact runOf_modRun (fun _ => rfl) ((after.runs op.seq).trans found)
  · refine cluster_startAll hs.clusters hp _ start ?_ ?_
    · rw [List.zipIdx_map_fst]
      exact nodup
    · exact List.mem_zipIdx_iff_getElem?.mpr hrank

/-- Settles O35: the start by `runStart_started`, the other rows by their definitions. -/
theorem runsStartAndEnd : Obligations.RunsStartAndEnd := by
  intro r s t op hs
  refine ⟨fun ht ho => ⟨fun hc => ?start, fun t0 h0 late => ?limit, fun isOver => ?ends⟩,
    fun c company p hc hco free clean waits hp => ?scrub⟩
  case start =>
    obtain ⟨u, hu, hrun, started⟩ := runStart_started hs ht ho hc
    refine ⟨u, hu, hrun, fun rank c p hrank hp nodup => ?_⟩
    obtain ⟨v, cl, e⟩ := started rank c p hrank hp nodup
    rw [e]
    exact ⟨rfl, rfl, rfl, rfl, rfl, rfl, rfl, rfl, rfl⟩
  case limit =>
    simp only [exec, execRunTimeLimit, ht, Option.bind_some, ho, h0]
    exact if_neg (Nat.not_lt.mpr late)
  case ends =>
    simp only [exec, execRunEnd, ht, ho, isOver]
    rfl
  case scrub =>
    refine ⟨modPerf2 (fun q => { q with scrubs := satInc q.scrubs }) (modCluster p (scrubbed company) s), ?_, ?_⟩
    · simp [exec, execClusterScrub, hc, hco, free, clean, waits, hp]
    · have same : cluster (modPerf2 (fun q => { q with scrubs := satInc q.scrubs }) (modCluster p (scrubbed company) s)) p
          = scrubbed company (cluster s p) := cluster_modCluster_same _ _ _
      rw [same]
      exact ⟨rfl, rfl, rfl, rfl, rfl, fun _ => rfl⟩

/-! The cluster window (R477, R565). -/

theorem mbx_flushMailbox (p k : Nat) (s : State) :
    (cluster (flushMailbox p k s) p).core.mbx = setAt (cluster s p).core.mbx k [] := by
  unfold flushMailbox
  simp only [cluster_modCluster_same]
  rfl

/-- The mailboxes after those of a list that a mask names have been flushed. -/
theorem mbx_flushMailboxes (p : Nat) (v : BitVec 32) (l : List Nat) : ∀ (s : State) (k : Nat), k < (cluster s p).core.mbx.length →
    (cluster (l.foldl (fun s k => if bit v k then flushMailbox p k s else s) s) p).core.mbx.getD k []
      = if k ∈ l ∧ bit v k = true then [] else (cluster s p).core.mbx.getD k [] := by
  induction l with
  | nil => intro s k _; rw [if_neg (by simp)]; rfl
  | cons j r ih =>
    intro s k hk
    rw [List.foldl_cons]
    cases hj : bit v j with
    | false =>
      rw [if_neg Bool.false_ne_true, ih s k hk]
      refine ite_congr (propext ?_) (fun _ => rfl) (fun _ => rfl)
      constructor
      · exact fun h => ⟨List.mem_cons_of_mem _ h.1, h.2⟩
      · rintro ⟨hm, hb⟩
        obtain rfl | hm := List.mem_cons.mp hm
        · exact absurd (hj.symm.trans hb) Bool.false_ne_true
        · exact ⟨hm, hb⟩
    | true =>
      have len : (cluster (flushMailbox p j s) p).core.mbx.length = (cluster s p).core.mbx.length := by
        rw [mbx_flushMailbox, setAt_eq_set, List.length_set]
      rw [if_pos rfl, ih _ k (by rw [len]; exact hk), mbx_flushMailbox]
      by_cases e : k = j
      · subst e
        rw [getD_setAt_same _ _ _ hk, ite_self, if_pos ⟨List.mem_cons_self, hj⟩]
      · rw [getD_setAt_other _ _ _ e]
        exact ite_congr (by simp [e]) (fun _ => rfl) (fun _ => rfl)

/-- Settles O36: the scan and CLUS_SIGNAL by their rows, MAILBOX_FLUSH by `mbx_flushMailboxes`. -/
theorem midnightAndClusterWindow : Obligations.MidnightAndClusterWindow := by
  intro s
  refine ⟨rfl, fun a p part v ha hp hw => ?signal, fun a p v ha hp hw hl => ?flush⟩
  case signal =>
    have named : ¬ (!(decide (a < 32) && decide (p < 176))) = true := by simp [ha, hp]
    have writes : ¬ (!windowWriter s a p) = true := by simp [hw]
    simp only [exec, execClusSignal, if_neg named, if_neg writes]
    rw [← apply_ite]
    rfl
  case flush =>
    have named : ¬ (!(decide (a < 32) && decide (p < 176))) = true := by simp [ha, hp]
    have writes : ¬ (!windowWriter s a p) = true := by simp [hw]
    simp only [exec, execMailboxFlush, if_neg named, if_neg writes]
    refine ⟨_, rfl, fun k hk => ?_⟩
    rw [mbx_flushMailboxes p v (upto 4) s k (by omega)]
    exact ite_congr (by simp [upto, hk]) (fun _ => rfl) (fun _ => rfl)

end Sys2Proof.Machine
end

-- Intake, registers, locks, arbiters and events.
section
/-!
Intake of a packet (R533 to R545), writes of registers (R835 to R841), the LOCK block and SANITIZE (R793 to R796), arbiters (R124
to R131) and event interrupts (R851, R852).
-/
namespace Sys2Proof.Machine
open Sys2Proof

/-! PACKET_INTAKE (R533 to R537, R558). -/

/-- A device whose admin queue holds one published slot. -/
def adminPacket : State :=
  { State.reset with
    dev := { State.reset.dev with dawnPhase := 7 }
    ports := [(0, { Port.fresh with linkUp := true, busMaster := 15 })]
    queues := [(0, { Queue.fresh with enabled := true, sqTail := 1 })] }

/-- A QUEUE_WAIT with abort_on_fail, which the admin queue does not take (R534). -/
def waitPacket : List (BitVec 64) := [0x53, 0x100000000, 0, 0, 0, 0, 0, 0]

/-- Queues flushed so far, after a step that goes on. -/
def flushesAfter (r : Res) : Option Word64 :=
  match r with
  | .next t => some (t.perf2.flushes.zeroExtend 64)
  | _ => none

theorem waitPacket_flushes : flushesAfter (exec (.packetIntake 0 waitPacket) adminPacket) = some 1 := by decide +kernel

/-- Refutes O39: a packet that fails its check at intake may be a QUEUE_WAIT with abort_on_fail, which flushes its queue (R558)
before it ends. On the admin queue, which takes no QUEUE_WAIT, the row counts one flush, and the statement's state none. -/
theorem not_packetsAreTakenInOrder : ¬ Obligations.PacketsAreTakenInOrder := by
  intro h
  obtain ⟨-, taken⟩ := h adminPacket 0 1 { Queue.fresh with enabled := true, sqTail := 1 } waitPacket rfl (by decide)
    (by decide +kernel) (by decide +kernel)
  obtain ⟨-, -, -, -, result⟩ := taken (by decide +kernel) rfl
  have none := waitPacket_flushes
  rw [result] at none
  revert none
  decide +kernel

/-! REGISTER_WRITE (R15, R77, R835 to R841). -/

theorem outside_range {lo hi x : Nat} (h : x < lo ∨ hi ≤ x) : (decide (lo ≤ x) && decide (x < hi)) = false := by
  by_cases low : lo ≤ x
  · have high : ¬ x < hi := by omega
    simp [high]
  · simp [low]

section RegisterWrite
variable {s : State} {a off size : Nat} {v : BitVec 64}

theorem writeReg_foreign (h : off < 0x10000 ∨ (0x18000 ≤ off ∧ off < 0x40000) ∨ (0x4B000 ≤ off ∧ off < 0x80000))
    (hc : (agent s a).company ≠ 0) : writeReg a off size v s = s := by
  have owner : ownerAgent s a = false := by simp [ownerAgent, hc]
  have doorbell : (decide (0x10000 ≤ slotOf off) && decide (slotOf off < 0x18000)) = false :=
    outside_range (by unfold slotOf; omega)
  have window : (decide (0x40000 ≤ slotOf off) && decide (slotOf off < 0x4B000)) = false :=
    outside_range (by unfold slotOf; omega)
  have atomic : ¬ atomicBase ≤ slotOf off := by simp only [slotOf, atomicBase]; omega
  simp [writeReg, owner, doorbell, window, atomic]

/-- The owner's write of a 32-bit register, in its low half. -/
theorem writeReg_owner32 (ho : ownerAgent s a = true) (hoff : off < 0x10000) (h8 : off % 8 = 0) (h64 : reg64 off = false) :
    writeReg a off size v s = writeOwner32 a off off (v.truncate 32) v s := by
  have slot : slotOf off = off := by rw [slotOf]; omega
  have part : inLow (partOf off size) = true := by
    unfold partOf
    split
    · rfl
    · simp [h8, inLow]
  have doorbell : (decide (0x10000 ≤ off) && decide (off < 0x18000)) = false := outside_range (by omega)
  have window : (decide (0x40000 ≤ off) && decide (off < 0x4B000)) = false := outside_range (by omega)
  have atomic : ¬ atomicBase ≤ off := by simp only [atomicBase]; omega
  simp [writeReg, slot, ho, doorbell, window, atomic, h64, part]

theorem truncate_eq_ofNat_mod (v : BitVec 64) : (v.truncate 32).truncate 9 = BitVec.ofNat 9 (v.toNat % 512) := by
  apply BitVec.eq_of_toNat_eq
  simp

end RegisterWrite

/-- Settles O40: writes by place, and the owner's by register. -/
theorem registerWritesReachTheirRegister : Obligations.RegisterWritesReachTheirRegister := by
  intro s a off size v ha hsize hal hio hoff
  refine ⟨?served, writeReg_foreign, fun ho hmem => ?readOnly, fun ho h hs => ?mask, fun ho h hs => ?cause⟩
  case served =>
    have named : ¬ (decide (32 ≤ a) || decide (bar2 + 65536 ≤ off)) = true := by
      rw [Bool.or_eq_true, decide_eq_true_eq, decide_eq_true_eq, bar2]
      omega
    have fits : ¬ (!(size == 4 || size == 8) || off % size != 0 || !ioServed s a) = true := by
      have known : (size == 4 || size == 8) = true := by simpa using hsize
      simp [known, hal, hio]
    have bar0 : ¬ bar2 ≤ off := by
      rw [bar2]
      omega
    rw [exec, execRegisterWrite, if_neg named, if_neg fits, if_neg bar0]
  case readOnly =>
    simp only [List.mem_cons, List.not_mem_nil, or_false] at hmem
    rcases hmem with rfl | rfl | rfl | rfl | rfl | rfl | rfl | rfl
    all_goals
      rw [writeReg_owner32 ho (by decide) (by decide) (by decide)]
      rfl
  case mask =>
    subst h
    rw [writeReg_owner32 ho (by decide) (by decide) (by decide), ← truncate_eq_ofNat_mod]
    rfl
  case cause =>
    subst h
    rw [writeReg_owner32 ho (by decide) (by decide) (by decide), ← truncate_eq_ofNat_mod]
    rfl

/-! LOCK and SANITIZE (R794, R796). -/

theorem finishCore_taken (t : Taken) (c : Completion) (s : State) :
    (finishCore t c s).taken = s.taken.filter (fun v => v.seq != t.seq) := by
  have posted (n : Nat) (e : Completion) (u : State) : (postCompletion n e u).taken = u.taken := by
    have kept := congrArg State.taken (show postFields (postCompletion n e u) u = u from postCompletion_only n e u)
    exact kept
  have logged (e : Completion) : Dropped t s (logError t e (dropTaken t.seq s)) := (dropped_dropTaken t s).logError e
  unfold finishCore
  simp only
  rw [posted]
  refine (Dropped.reportMiss (s := s) ?_ _).taken
  split
  · exact ⟨(logged _).taken, (logged _).queues, (logged _).out⟩
  · exact logged _

/-- Ending every command in flight leaves none. -/
theorem finishAll_taken (c : Completion) (l : List Taken) : ∀ s : State, (∀ u ∈ s.taken, u ∈ l) →
    (l.foldl (fun s t => finishCore t c s) s).taken = [] := by
  induction l with
  | nil => exact fun s h => List.eq_nil_iff_forall_not_mem.mpr fun u hu => List.not_mem_nil (h u hu)
  | cons t r ih =>
    intro s h
    rw [List.foldl_cons]
    refine ih _ fun u hu => ?_
    rw [finishCore_taken] at hu
    obtain ⟨hm, hne⟩ := List.mem_filter.mp hu
    obtain rfl | hm := List.mem_cons.mp (h u hm)
    · simp at hne
    · exact hm

theorem endEverything_taken (s : State) : (endEverything s).taken = [] := finishAll_taken _ _ _ fun _ h => h

theorem endEverything_flash (s : State) : (endEverything s).flash = s.flash := by
  have aborted : endFields (abortAll 0x602 (fun _ => true) s).1 s = s := abortAll_only ..
  have ended : ∀ u : State, Only endFields u (u.taken.foldl (fun s t => finishCore t (status 0x602) s) u) := fun u =>
    Only.foldl endFields_putsBack _ (fun s t => finishCore_only t _ s) _ u
  have first := congrArg State.flash aborted
  have second := congrArg State.flash (show endFields _ _ = _ from ended (abortAll 0x602 (fun _ => true) s).1)
  exact second.trans first

/-- What SANITIZE leaves. -/
theorem startSanitize_leaves (s : State) :
    let u := startSanitize s
    u.flash.marker = true ∧ u.dev.shutdownReq = true ∧ u.taken = [] ∧ u.store.scenes = [] ∧ u.store.scratch = [] ∧
      u.coherent = [] ∧ u.conns = [] ∧ ∀ p ∈ u.store.companies, p.2.key = none := by
  have marked : (endEverything { s with flash := { s.flash with marker := true } }).flash.marker = true := by
    rw [endEverything_flash]
  refine ⟨marked, rfl, endEverything_taken _, rfl, rfl, rfl, rfl, fun p hp => ?_⟩
  obtain ⟨q, -, rfl⟩ := List.mem_map.mp hp
  rfl

/-- Settles O42: each field by its register; SANITIZE by what it leaves. -/
theorem lockFieldsAreWrittenOnce : Obligations.LockFieldsAreWrittenOnce := by
  intro s a v ha ho
  have lockWrite (off : Nat) (hoff : off < 2 ^ 20) (h8 : off % 8 = 0) :
      exec (.lockWrite a off v) s = .next (writeLock a off off v (v.zeroExtend 64) s) := by
    have named : ¬ (decide (32 ≤ a) || decide (2 ^ 20 ≤ off)) = true := by
      rw [Bool.or_eq_true, decide_eq_true_eq, decide_eq_true_eq]
      omega
    rw [exec, execLockWrite, if_neg named, if_neg (by simp [ho, h8])]
  refine ⟨fun fresh => ⟨_, lockWrite 0x3000 (by decide) (by decide), ?_⟩, fun fresh => ⟨_, lockWrite 0x3008 (by decide) (by decide), ?_⟩,
    fun fresh => ⟨_, lockWrite 0x3010 (by decide) (by decide), ?_⟩,
    fun written other => ⟨_, lockWrite 0x3000 (by decide) (by decide), ?_⟩, fun fresh hv => ?sanitize⟩
  iterate 3 · simp [writeLock, fresh]
  · have differs : (s.lock.tenancy == bit v 0) = false := by simpa using other.symm
    simp only [writeLock, written, differs]
    exact ⟨rfl, rfl, rfl, rfl, rfl⟩
  case sanitize =>
    subst hv
    have agent : ¬ 32 ≤ a := by omega
    refine ⟨startSanitize { s with lock := { s.lock with sanitize := 0xC1EA, sanitizeWritten := true } }, ?_, startSanitize_leaves _⟩
    simp [exec, execSanitize, agent, ho, fresh, sanitizeCode, writeLock]

end Sys2Proof.Machine
end

-- Arbiters and event interrupts.
section
/-!
Decisions of an arbiter and the burst of its winner (R124 to R127), its rows (R127 to R131), and event interrupts (R851, R852).
-/
namespace Sys2Proof.Machine
open Sys2Proof

/-! Decisions (R124 to R127). -/

/-- Request x comes no later than y: lower drain class, or the same and no further round from the last winner. -/
def comesFirst (last : Nat) (x y : ArbReq) : Prop :=
  x.cls < y.cls ∨ (x.cls = y.cls ∧ roundPlace last x.requester ≤ roundPlace last y.requester)

theorem comesFirst_of_not_better {last : Nat} {x y : ArbReq} (h : better last y x = false) : comesFirst last x y := by
  simp only [better, Bool.or_eq_false_iff, Bool.and_eq_false_iff, decide_eq_false_iff_not, beq_eq_false_iff_ne] at h
  obtain ⟨hc, hp⟩ := h
  unfold comesFirst
  omega

theorem comesFirst_of_better {last : Nat} {x y : ArbReq} (h : better last x y = true) : comesFirst last x y := by
  simp only [better, Bool.or_eq_true, Bool.and_eq_true, decide_eq_true_eq, beq_iff_eq] at h
  unfold comesFirst
  omega

theorem comesFirst.trans {last : Nat} {x y z : ArbReq} (h : comesFirst last x y) (k : comesFirst last y z) :
    comesFirst last x z := by
  unfold comesFirst at *
  omega

/-- The request picked is in the list, and none comes before it. -/
theorem pickReq_first {last : Nat} {l : List ArbReq} {w : ArbReq} (h : pickReq last l = some w) :
    w ∈ l ∧ ∀ r ∈ l, comesFirst last w r := by
  induction l generalizing w with
  | nil => cases h
  | cons x r ih =>
    have self : comesFirst last x x := .inr ⟨rfl, Nat.le_refl _⟩
    rw [pickReq] at h
    cases hr : pickReq last r with
    | none =>
      rw [hr] at h
      cases h
      have empty : r = [] := by
        cases r with
        | nil => rfl
        | cons y q =>
          rw [pickReq] at hr
          split at hr
          · cases hr
          · split at hr <;> cases hr
      subst empty
      exact ⟨List.mem_cons_self, fun y hy => by obtain rfl := List.mem_singleton.mp hy; exact self⟩
    | some y =>
      rw [hr] at h
      obtain ⟨hy, first⟩ := ih hr
      simp only at h
      split at h
      next b =>
        cases h
        refine ⟨List.mem_cons_of_mem _ hy, fun z hz => ?_⟩
        obtain rfl | hz := List.mem_cons.mp hz
        · exact comesFirst_of_better b
        · exact first z hz
      next b =>
        cases h
        have ahead := comesFirst_of_not_better (Bool.eq_false_iff.mpr b)
        refine ⟨List.mem_cons_self, fun z hz => ?_⟩
        obtain rfl | hz := List.mem_cons.mp hz
        · exact self
        · exact ahead.trans (first z hz)

/-- The requests that take part in a decision. -/
def openReqs (c : BitVec 64) (a : Arbiter) : List ArbReq := a.reqs.filter fun r => r.raised && !masked c a r

/-- What a decision makes of a request, with w the winner. -/
def decided (c : BitVec 64) (a : Arbiter) (w r : ArbReq) : ArbReq :=
  if r.requester == w.requester then { r with raised := false, losses := 0, grants := r.grants + 1, flagged := false }
  else if r.raised && !masked c a r then { r with raised := false, losses := r.losses + 1 } else r

theorem decision_none {c : BitVec 64} {a : Arbiter} (h : pickReq a.last (openReqs c a) = none) : decision c a = a := by
  simp only [decision]
  rw [show pickReq a.last (a.reqs.filter _) = none from h]

theorem decision_some {c : BitVec 64} {a : Arbiter} {w : ArbReq} (h : pickReq a.last (openReqs c a) = some w) :
    decision c a = { reqs := a.reqs.map (decided c a w), last := w.requester, held := some (w.requester, burstOf c) } := by
  simp only [decision]
  rw [show pickReq a.last (a.reqs.filter _) = some w from h]
  rfl

theorem grantReq_held {a : Arbiter} {h : Nat × Nat} (hh : a.held = some h) (c : BitVec 64) : grantReq c a = a := by
  simp [grantReq, hh]

theorem grantReq_free {a : Arbiter} (h : a.held = none) (c : BitVec 64) : grantReq c a = decision c a := by
  simp [grantReq, h]

/-- Settles O43: the burst by `transfers`, the winner by `pickReq_first`, the others by `decided`. -/
theorem decisionsFollowTheArbiter : Obligations.DecisionsFollowTheArbiter := by
  refine ⟨fun c a w k n hh => ⟨grantReq_held hh c, fun last => ?_, fun more => ?_, ?_⟩,
    fun c a hh => ⟨grantReq_free hh c, decision_none⟩, fun c a w hw => ?_⟩
  · simp only [transfers, hh, if_pos last]
    rfl
  · simp only [transfers, hh, if_neg (Nat.not_le.mpr more)]
  · simp only [catchUp, transfers, grantReq_held hh, hh]
    rfl
  · obtain ⟨hm, first⟩ := pickReq_first hw
    obtain ⟨hmem, hopen⟩ := List.mem_filter.mp hm
    obtain ⟨hraised, hmasked⟩ := Bool.and_eq_true_iff.mp hopen
    rw [decision_some hw]
    refine ⟨⟨hmem, hraised, by simpa using hmasked, fun r hr raised unmasked => first r ?_⟩, rfl, rfl, List.length_map _,
      fun k r q hr hq => ?_⟩
    · exact List.mem_filter.mpr ⟨hr, by simp [raised, unmasked]⟩
    · rw [List.getElem?_map, hr] at hq
      obtain rfl := Option.some.inj hq
      refine ⟨?_, ?_, fun won => ?_, fun lost raised unmasked => ?_, fun other quiet => ?_⟩
      · unfold decided
        split
        · rfl
        split <;> rfl
      · unfold decided
        split
        · rfl
        split <;> rfl
      · rw [decided, if_pos (by simpa using won)]
        exact ⟨rfl, rfl, rfl⟩
      · rw [decided, if_neg (by simpa using lost), if_pos (by simp [raised, unmasked])]
        exact ⟨rfl, rfl⟩
      · rw [decided, if_neg (by simpa using other), if_neg (by simp [quiet])]

/-! The rows of arbiters (R127 to R131). -/

theorem arbiter_modArb (cls inst : Nat) (f : Arbiter → Arbiter) (s : State) :
    arbiter (modArb cls inst f s) cls inst = f (arbiter s cls inst) := kgetD_kmodD_same _ _ _ _ _

/-- The bits of a register that a set of places marks or clears. -/
theorem bit_mark {n : Nat} {k : Nat} (hk : k < n) (m : BitVec n) : bit (m ||| BitVec.ofNat n (2 ^ k)) k = true := by
  rw [bit, BitVec.getLsbD_or, getLsbD_ofNat_two_pow]
  simp [hk]

theorem bit_clear (n k : Nat) (m : BitVec n) : bit (m &&& ~~~ (BitVec.ofNat n (2 ^ k))) k = false := by
  rw [bit, BitVec.getLsbD_and, BitVec.getLsbD_not, getLsbD_ofNat_two_pow]
  simp

theorem bit_clear_of_clear {n : Nat} {k : Nat} {m : BitVec n} (h : bit m k = false) (x : BitVec n) : bit (m &&& x) k = false := by
  rw [bit] at *
  rw [BitVec.getLsbD_and, h, Bool.false_and]

/-- Clearing the places of a list clears each of them. -/
theorem bit_clearAll {l : List Nat} {k : Nat} (m : BitVec 9) (h : k ∈ l) :
    bit (l.foldl (fun (m : BitVec 9) k => m &&& ~~~ (BitVec.ofNat 9 (2 ^ k))) m) k = false := by
  have stays (l : List Nat) : ∀ m : BitVec 9, bit m k = false →
      bit (l.foldl (fun (m : BitVec 9) k => m &&& ~~~ (BitVec.ofNat 9 (2 ^ k))) m) k = false := by
    induction l with
    | nil => exact fun m hm => hm
    | cons j r ih => exact fun m hm => ih _ (bit_clear_of_clear hm _)
  induction l generalizing m with
  | nil => cases h
  | cons j r ih =>
    obtain rfl | h := List.mem_cons.mp h
    · exact stays r _ (bit_clear 9 k m)
    · exact ih _ h

theorem raise_mem (req cls : Nat) (item : Option Nat) (a : Arbiter) :
    ((raise req cls item a).reqs.any fun r => r.requester == req) = true := by
  unfold raise
  split
  next h =>
    obtain ⟨r, hr, hreq⟩ := List.any_eq_true.mp h
    refine List.any_eq_true.mpr ⟨_, List.mem_map.mpr ⟨r, hr, rfl⟩, ?_⟩
    split
    · exact hreq
    split <;> exact hreq
  next h => simp

/-- A requester's episode is flagged. -/
def flagReq (req : Nat) (b : Arbiter) : Arbiter :=
  { b with reqs := b.reqs.map fun r => if r.requester == req then { r with flagged := true } else r }

theorem flagReq_flags {req : Nat} {b : Arbiter} (h : (b.reqs.any fun r => r.requester == req) = true) :
    ((flagReq req b).reqs.any fun r => r.requester == req && r.flagged) = true := by
  obtain ⟨r, hr, hreq⟩ := List.any_eq_true.mp h
  refine List.any_eq_true.mpr ⟨_, List.mem_map.mpr ⟨r, hr, rfl⟩, ?_⟩
  rw [if_pos hreq]
  simpa using hreq

/-- STARVATION_FLAG at one of its arbiters. -/
def starved (s : State) (req : Nat) (item : ArbItem) (a : Arbiter) : Arbiter :=
  flagReq req (if a.reqs.any fun r => r.requester == req && inWait r then a else raise req item.cls (itemSeq s item) a)

theorem starved_flags (s : State) (req : Nat) (item : ArbItem) (a : Arbiter) :
    ((starved s req item a).reqs.any fun r => r.requester == req && r.flagged) = true := by
  refine flagReq_flags ?_
  split
  next h =>
    obtain ⟨r, hr, hb⟩ := List.any_eq_true.mp h
    exact List.any_eq_true.mpr ⟨r, hr, (Bool.and_eq_true_iff.mp hb).1⟩
  next => exact raise_mem ..

/-- The state after STARVATION_FLAG. -/
def starvedState (cls inst req : Nat) (item : ArbItem) (s : State) : State :=
  let t := modArb cls inst (starved s req item) s
  postEvent 3 0xFF (w64 (req * 2 ^ 32 + inst * 65536 + cls)) 0 { t with arb := { t.arb with
    starve := t.arb.starve ||| BitVec.ofNat 6 (2 ^ cls)
    src := setAt t.arb.src cls (w32 (inst * 65536 + req)) } }

section Rows
variable {s : State} {cls inst req : Nat} {item : ArbItem} (hok : arbOk cls inst = true) (hreq : req < 65536) (hcls : item.cls < 6)
  (hp : classPresent s cls = true)
include hok hreq hcls hp

theorem backoffExpiry_next (since : ArbSince) :
    execBackoffExpiry cls inst req item since s = .next (modArb cls inst (fun a =>
      let a := catchUp (arbCtrl s cls) since a
      if itemStands s item then grantReq (arbCtrl s cls) (raise req item.cls (itemSeq s item) a) else a) s) := by
  rw [execBackoffExpiry, if_neg (by simp [hok, hreq, hcls]), if_neg (by simp [hp])]

theorem starvationFlag_next (hs : starveFlags (arbCtrl s cls) = true) (hm : mayFlag s (arbiter s cls inst) req item = true) :
    execStarvationFlag cls inst req item s = .next (starvedState cls inst req item s) := by
  rw [execStarvationFlag, if_neg (by simp [hok, hreq, hcls]), if_neg (by simp [hp, hs, hm])]
  rfl

end Rows

/-! Event interrupts (R851, R852). -/

/-- The message of an interrupt: sent, kept as pending, or dropped. -/
theorem sendMsix_cases (a v : Nat) (s : State) :
    let p := agentPort s a
    let ld := agentLd s a
    let open_ := reachable s a && bit (port s p).msixOn ld
    let held := bit (port s p).msixMask ld || (msixVec (port s p) ld v).masked
    (sendMsix a v s).evt = s.evt ∧
    (open_ = true → held = false → (sendMsix a v s).out = Out.msix a v :: s.out ∧ (sendMsix a v s).ports = s.ports) ∧
    (open_ = true → held = true → (sendMsix a v s).out = s.out ∧ (msixVec (port (sendMsix a v s) p) ld v).pending = true) ∧
    (open_ = false → (sendMsix a v s).out = s.out ∧ (sendMsix a v s).ports = s.ports) := by
  intro p ld open_ held
  have shut : (!reachable s a || !bit (port s p).msixOn ld) = !open_ := by simp [open_]
  refine ⟨?_, fun ho hh => ?_, fun ho hh => ?_, fun ho => ?_⟩
  · unfold sendMsix
    simp only
    split
    · rfl
    split <;> rfl
  · have sent : sendMsix a v s = emit (.msix a v) s := by
      simp only [sendMsix]
      rw [if_neg (by rw [shut, ho]; simp), if_neg (by simpa [held] using hh)]
    rw [sent]
    exact ⟨rfl, rfl⟩
  · have kept : sendMsix a v s = setMsix p ld v (fun x => { x with pending := true }) s := by
      simp only [sendMsix]
      rw [if_neg (by rw [shut, ho]; simp)]
      exact if_pos hh
    rw [kept, setMsix, port_modPort_same]
    refine ⟨rfl, ?_⟩
    simp [msixVec]
  · have dropped : sendMsix a v s = s := by
      simp only [sendMsix]
      rw [if_pos (by rw [shut, ho]; simp)]
    rw [dropped]
    exact ⟨rfl, rfl⟩

/-- The state after EVENT_INTERRUPT of event e. -/
def interrupted (s : State) (e : Nat) : State :=
  let t := sendMsix (eventRoute s e).1 (eventRoute s e).2 s
  { t with evt := { t.evt with
      fresh := (dueTogether s e).foldl (fun (m : BitVec 9) k => m &&& ~~~ (BitVec.ofNat 9 (2 ^ k))) t.evt.fresh
      sentAt := (dueTogether s e).foldl (fun m k => kset m k (now t)) t.evt.sentAt } }

/-- Settles O44: each row by its definition. -/
theorem arbiterAndEventRowsComplete : Obligations.ArbiterAndEventRowsComplete := by
  intro s cls inst req item since hok hreq hcls hp c a
  refine ⟨⟨_, backoffExpiry_next hok hreq hcls hp since, arbiter_modArb .., rfl⟩, fun hq => ?quota,
    fun hf hm hl => ⟨_, starvationFlag_next hok hreq hcls hp hf hm, ?starved⟩, fun stack pc hs hpc => ?refresh, fun e he hd => ?event⟩
  case quota =>
    refine ⟨modArb cls inst (fun a => grantReq c { catchUp c since a with
      reqs := (catchUp c since a).reqs.map fun r => { r with grants := 0 } }) s, ?_, arbiter_modArb .., rfl⟩
    rw [exec, execQuotaWindowEnd, if_neg (by simp [hok]), if_neg (by simpa [hp] using hq)]
  case starved =>
    have cls6 : cls < 6 := by
      simp only [arbOk, Bool.and_eq_true, decide_eq_true_eq] at hok
      exact hok.1.1
    refine ⟨bit_mark cls6 _, getD_setAt_same _ _ _ (by rw [← hl] at cls6; exact cls6), bit_mark (by decide) _, ?_, rfl⟩
    have here : arbiter (starvedState cls inst req item s) cls inst = starved s req item (arbiter s cls inst) :=
      arbiter_modArb cls inst (starved s req item) s
    rw [here]
    exact starved_flags ..
  case refresh =>
    simp [exec, execHbmRefresh, onlyIf, hs, hpc]
  case event =>
    have mine : e ∈ dueTogether s e := by simp [dueTogether, upto, he, hd]
    obtain ⟨evt, sent, kept, dropped⟩ := sendMsix_cases (eventRoute s e).1 (eventRoute s e).2 s
    have run : exec (.eventInterrupt e) s = .next (interrupted s e) := by
      rw [exec, execEventInterrupt, if_neg (Nat.not_le.mpr he), if_neg (by simp [hd])]
      rfl
    refine ⟨_, run, bit_clearAll _ mine, ?_, sent, kept, dropped⟩
    rw [interrupted, evt]

end Sys2Proof.Machine
end

-- Power: a Dawn, the rows of power, and readings.
section
/-!
PROOFS. O45, O46 and O47: what a reset leaves and a Dawn starts from, the phases of a Dawn, the shutdowns, and the readings of the
monitors and pins.
-/
namespace Sys2Proof.Machine
open Sys2Proof

/-! What a drain of the Loft, and a change of HEALTH.cause before service, can change. -/

/-- The fields that programming the buffer, a checkpoint and held programs going on may change. -/
def drainFields (u s : State) : State :=
  { u with loft := s.loft, perf := s.perf, perf2 := s.perf2, ulb := s.ulb, store := s.store, disk := s.disk, flash := s.flash,
           dev := { u.dev with checkpoint := s.dev.checkpoint, closeRecord := s.dev.closeRecord } }

theorem drainFields_putsBack : PutsBack drainFields := ⟨fun _ => rfl, fun _ _ _ => rfl⟩

theorem Only.drain_of_medium {s u : State} (h : Only mediumFields s u) : Only drainFields s u :=
  (show drainFields u s = drainFields (mediumFields u s) s from rfl).trans ((congrArg (fun x => drainFields x s) h).trans rfl)

theorem setLoft_drain (c : Nat) (what : PageRef) (b : Bool) (s : State) : Only drainFields s (setLoft c what b s) := by
  unfold setLoft
  split <;> rfl

theorem formRecord_drain (k : JKind) (c : Option (Nat × Completion)) (s : State) : Only drainFields s (formRecord k c s) := rfl
theorem startJournal_drain (s : State) : Only drainFields s (startJournal s) := rfl
theorem modScene_drain (c : Nat) (id : SceneId) (f : Scene → Scene) (s : State) : Only drainFields s (modScene c id f s) := rfl
theorem invalidate_drain (c : Nat) (id : SceneId) (s : State) : Only drainFields s (invalidate c id s) := rfl

theorem completeItem_drain (x : D0Item) (s : State) : Only drainFields s (completeItem x s) := by
  unfold completeItem
  simp only
  have base : Only drainFields s (switchHome x.num (modLoft (fun l => { l with d0 := l.d0.filter (·.num != x.num) }) s)) :=
    Only.drain_of_medium (Only.after mediumFields_putsBack (switchHome_only ..) (modLoft_medium ..))
  generalize switchHome x.num (modLoft (fun l => { l with d0 := l.d0.filter (·.num != x.num) }) s) = u at base ⊢
  refine Only.after drainFields_putsBack ?_ base
  split
  · split
    · exact Only.after drainFields_putsBack (formRecord_drain ..) (modScene_drain ..)
    · exact modScene_drain ..
  · split
    · split
      · exact formRecord_drain ..
      · rfl
    · rfl
  · exact Only.foldl drainFields_putsBack _ (fun s p => setLoft_drain ..) _ _
  · exact invalidate_drain ..
  · rfl

theorem completeItems_drain (s : State) : Only drainFields s (completeItems s) := by
  refine Only.foldl drainFields_putsBack _ (fun s x => ?_) _ s
  split
  · exact completeItem_drain x s
  · rfl

theorem flushBuffer_drain (s : State) : Only drainFields s (flushBuffer s) := by
  unfold flushBuffer
  refine Only.after drainFields_putsBack (completeItems_drain _) (Only.after drainFields_putsBack
    (Only.foldl drainFields_putsBack _ (fun s r => ?rebuilt) _ _) (Only.foldl drainFields_putsBack _ (fun s q => ?unit) _ s))
  case rebuilt =>
    split
    · split
      · exact Only.drain_of_medium (landRebuilt_only ..)
      · rfl
    · rfl
  case unit =>
    split
    · exact Only.drain_of_medium (landUnit_only ..)
    · rfl

theorem flushJournal_drain (s : State) : Only drainFields s (flushJournal s) := by
  unfold flushJournal writeRecords
  simp only
  split <;> rfl

theorem resumePrograms_drain (s : State) : Only drainFields s (resumePrograms s) := by
  unfold resumePrograms
  simp only
  refine Only.after drainFields_putsBack (Only.after drainFields_putsBack (startJournal_drain _)
    (Only.drain_of_medium (pump_only _))) ?_
  split <;> rfl

theorem resumePrograms_pwr (s : State) : (resumePrograms s).pwr = s.pwr := (resumePrograms_drain s).field State.pwr rfl

/-- The fields that a change of HEALTH.cause may change where no service ends with it, with read-only mode. -/
def quietFields (u s : State) : State :=
  { u with evt := s.evt, out := s.out, free := s.free, loft := s.loft, health := s.health,
           dev := { u.dev with roMode := s.dev.roMode } }

theorem quietFields_putsBack : PutsBack quietFields := ⟨fun _ => rfl, fun _ _ _ => rfl⟩

theorem Only.quiet_of_report {s u : State} (h : Only reportFields s u) : Only quietFields s u :=
  (show quietFields u s = quietFields (reportFields u s) s from rfl).trans ((congrArg (fun x => quietFields x s) h).trans rfl)

theorem failService_down {s : State} (h : s.dev.curUp = false) : failService s = s := by
  unfold failService
  rw [if_neg (by simp [h])]

theorem reportHealth_curUp (c : BitVec 32) (s : State) : (reportHealth c s).dev.curUp = s.dev.curUp :=
  (reportHealth_only c s).field (fun u => u.dev.curUp) rfl

/-- Before curtain up a change of HEALTH.cause is reported and ends no command. -/
theorem raiseCause_quiet {s : State} (bits : Nat) (h : s.dev.curUp = false) : Only quietFields s (raiseCause bits s) := by
  unfold raiseCause
  simp only
  rw [failService_down (by rw [reportHealth_curUp]; exact h), ite_self]
  exact Only.after quietFields_putsBack (Only.quiet_of_report (reportHealth_only ..)) rfl

theorem syncHealth_quiet {s : State} (h : s.dev.curUp = false) : Only quietFields s (syncHealth s) := by
  unfold syncHealth
  simp only
  rw [failService_down (by rw [reportHealth_curUp]; exact h), ite_self]
  exact Only.after quietFields_putsBack (Only.quiet_of_report (reportHealth_only ..)) rfl

theorem updateRo_quiet {s : State} (h : s.dev.curUp = false) : Only quietFields s (updateRo s) := by
  unfold updateRo
  simp only
  split
  · exact Only.after quietFields_putsBack (syncHealth_quiet h) rfl
  · exact Only.after quietFields_putsBack (syncHealth_quiet h) rfl

theorem clearFailed_quiet (s : State) : Only quietFields s (clearFailed s) :=
  Only.after quietFields_putsBack (Only.quiet_of_report (reportHealth_only ..)) rfl

/-! A Dawn (R52, R57, R58). -/

/-- A field that neither dropping stale copies nor the Loft touches is as `resetAll` writes it. -/
theorem resetAll_clusters (keep : Bool) (s : State) : (resetAll keep s).clusters =
    kmap (kmap s.clusters fun _ c => { Cluster.fresh with rowsUsed := c.rowsUsed }) fun _ c =>
      { Cluster.fresh with mapState := c.mapState, logical := c.logical, rowsUsed := c.rowsUsed } := by
  unfold resetAll
  exact (dropStale_only _).field State.clusters rfl

theorem resetAll_cluster (keep : Bool) (s : State) (p : Nat) :
    cluster (resetAll keep s) p = { Cluster.fresh with rowsUsed := (cluster s p).rowsUsed } := by
  rw [cluster, resetAll_clusters, kgetD_kmap _ _ _ _ rfl, kgetD_kmap _ _ _ _ rfl]
  rfl

theorem resetAll_dev (keep : Bool) (s : State) : (resetAll keep s).dev = { DevBlk.reset with
    time := if keep then s.dev.time else 0, closeRecord := s.dev.closeRecord, attempts := if keep then s.dev.attempts else 0
    otherSlot := keep && s.dev.otherSlot } := by
  unfold resetAll
  exact (dropStale_only _).field State.dev rfl

/-- What R41 marks lost is gone, and what it keeps stands. -/
theorem resetAll_leaves (keep : Bool) (s : State) : let u := resetAll keep s
    u.pwr = pwrAfterReset keep s.pwr ∧ u.taken = [] ∧ u.store.scenes = [] ∧ u.store.streams = [] ∧ u.store.scratch = [] ∧
    u.coherent = [] ∧ u.atomics = [] ∧ u.sessions = [] ∧ u.conns = [] ∧ u.disk = s.disk ∧ u.flash = s.flash ∧ u.fw = s.fw ∧
    u.pending = s.pending ∧ fused u = fused s := by
  intro u
  have only := fun (v : State) => dropStale_only v
  unfold u resetAll
  refine ⟨(only _).field State.pwr rfl, (only _).field State.taken rfl, (only _).field (·.store.scenes) rfl,
    (only _).field (·.store.streams) rfl, (only _).field (·.store.scratch) rfl, (only _).field State.coherent rfl,
    (only _).field State.atomics rfl, (only _).field State.sessions rfl, (only _).field State.conns rfl,
    (only _).field State.disk rfl, (only _).field State.flash rfl, (only _).field State.fw rfl, (only _).field State.pending rfl,
    (only _).field fused rfl⟩

/-- A Dawn starts from what the reset leaves, in FUSE, with PD0 and PD5 on. -/
theorem startDawn_quiet (s : State) : Only quietFields { resetAll true s with
    dev := { (resetAll true s).dev with dawnPhase := 1, dawnStart := (resetAll true s).dev.time, phaseStart := (resetAll true s).dev.time }
    pwr := { (resetAll true s).pwr with on := 0x21 } } (startDawn s) := by
  unfold startDawn
  refine Only.after quietFields_putsBack (updateRo_quiet ?_) (clearFailed_quiet _)
  refine ((clearFailed_quiet _).field (fun u => u.dev.curUp) rfl).trans ?_
  simp only [resetAll_dev]
  rfl

/-- Settles O45: what the reset leaves, and the guard of each row that starts a Dawn. -/
theorem dawnStarts : Obligations.DawnStarts := by
  refine ⟨fun s => ?leaves, fun s mv => ⟨?up, fun off high => ?first, fun on cold high => ?cold, fun due => ?dawn, fun on fl tr high => ?supply,
    fun on tr high => ?thermal⟩⟩
  case leaves =>
    have quiet := startDawn_quiet s
    have dev := resetAll_dev true s
    have every := resetAll_cluster true s
    obtain ⟨pwr, taken, scenes, streams, scratch, coherent, atomics, sessions, conns, disk, flash, fw, pending, fuses⟩ := resetAll_leaves true s
    generalize startDawn s = u at quiet ⊢
    generalize resetAll true s = r at *
    refine ⟨quiet.field (·.dev.dawnPhase) rfl, (quiet.field (·.dev.curUp) rfl).trans (congrArg (·.curUp) dev),
      (quiet.field (·.dev.stopped) rfl).trans (congrArg (·.stopped) dev), quiet.field (·.pwr.on) rfl,
      (quiet.field (·.pwr.inDusk) rfl).trans (congrArg (·.inDusk) pwr), (quiet.field (·.dev.time) rfl).trans (congrArg (·.time) dev),
      (quiet.field State.taken rfl).trans taken, (quiet.field (·.store.scenes) rfl).trans scenes,
      (quiet.field (·.store.streams) rfl).trans streams, (quiet.field (·.store.scratch) rfl).trans scratch,
      (quiet.field State.coherent rfl).trans coherent, (quiet.field State.atomics rfl).trans atomics,
      (quiet.field State.sessions rfl).trans sessions, (quiet.field State.conns rfl).trans conns, (quiet.field State.disk rfl).trans disk,
      (quiet.field State.flash rfl).trans flash, (quiet.field State.fw rfl).trans fw, (quiet.field State.pending rfl).trans pending,
      (quiet.field fused rfl).trans fuses, fun p => ?_⟩
    have at_p : cluster u p = { Cluster.fresh with rowsUsed := (cluster s p).rowsUsed } :=
      (quiet.field (fun t => cluster t p) rfl).trans (every p)
    rw [at_p]
    exact ⟨rfl, rfl, rfl, rfl⟩
  case up =>
    have dev := resetAll_dev false { s with pwr := { s.pwr with lossAt := none } }
    obtain ⟨-, taken, -, -, -, -, -, -, -, disk, flash, -⟩ := resetAll_leaves false { s with pwr := { s.pwr with lossAt := none } }
    unfold powerUp
    simp only
    generalize resetAll false { s with pwr := { s.pwr with lossAt := none } } = r at *
    exact ⟨trivial, congrArg (·.dawnPhase) dev, congrArg (·.time) dev, trivial, taken, disk, flash⟩
  case first => rw [exec, execPowerOn, if_neg (by simp [off, Nat.not_le.mpr high]), if_neg (by simp [off])]
  case cold => rw [exec, execPowerOn, if_neg (by simp [cold, Nat.not_le.mpr high]), if_pos on]
  case dawn => rw [exec, execDawn, if_pos due]
  case supply => rw [exec, execSupplyRecovery, if_neg (by simp [on, fl, tr, Nat.not_le.mpr high])]
  case thermal => rw [exec, execThermalRestart, if_neg (by simp [on, tr, Nat.not_le.mpr high])]

/-! The phases of a Dawn (R58 to R63, R101, R821). -/

theorem bit_or_left {n k : Nat} {x : BitVec n} (h : bit x k = true) (y : BitVec n) : bit (x ||| y) k = true := by
  simp [bit] at *
  simp [h]

theorem bit_or_right {n k : Nat} {y : BitVec n} (h : bit y k = true) (x : BitVec n) : bit (x ||| y) k = true := by
  simp [bit] at *
  simp [h]

/-- A phase that cannot complete leaves Dawn stopped, with its causes set. -/
theorem stopDawn_leaves {s : State} (bits : Nat) (h : s.dev.curUp = false) :
    (stopDawn bits s).dev.stopped = true ∧ (stopDawn bits s).dev.curUp = false ∧
    ∀ k, bit (BitVec.ofNat 32 bits) k = true → bit (stopDawn bits s).health.cause k = true := by
  have quiet := raiseCause_quiet (s := modDev (fun d => { d with stopped := true }) s) bits h
  refine ⟨quiet.field (fun u => u.dev.stopped) rfl, (quiet.field (fun u => u.dev.curUp) rfl).trans h, fun k hk => ?_⟩
  rw [stopDawn, raiseCause_cause]
  exact bit_or_left (bit_or_right hk _) _

theorem inDawn_curUp {s : State} (h : inDawn s = true) : s.dev.curUp = false := by
  simp [inDawn] at h
  exact h.1.1.1.2

theorem clampRail_range (n : Nat) : 720 ≤ clampRail n ∧ clampRail n ≤ 880 := by
  unfold clampRail
  omega

theorem clampRail_toNat (n : Nat) : (BitVec.ofNat 16 (clampRail n)).toNat = clampRail n := by
  have := clampRail_range n
  rw [BitVec.toNat_ofNat]
  omega

theorem postEvent_quiet (e c : Nat) (x y : Word64) (s : State) : Only quietFields s (postEvent e c x y s) := rfl

theorem measureHoldup_quiet {s : State} (us : BitVec 16) (h : s.dev.curUp = false) :
    Only quietFields (modPwr (fun p => { p with holdupUs := us, holdupWeak := decide (us.toNat < 20000), holdupAt := now s }) s)
      (measureHoldup us s) := by
  unfold measureHoldup
  simp only
  split
  · exact Only.after quietFields_putsBack (postEvent_quiet ..) (syncHealth_quiet h)
  · exact syncHealth_quiet h

theorem measureHoldup_pwr (us : BitVec 16) (s : State) : (measureHoldup us s).pwr =
    { s.pwr with holdupUs := us, holdupWeak := decide (us.toNat < 20000), holdupAt := now s } := by
  have kept := fun v => (syncHealth_only v).field State.pwr rfl
  unfold measureHoldup
  simp only
  split
  · exact kept _
  · exact kept _

/-- A row replaced by post-package repair, or from the reserve, of which it takes at most one unit. -/
theorem repairRow_quiet {s : State} (stack row : Nat) (h : s.dev.curUp = false) : Only quietFields s (repairRow stack row s).2 := by
  unfold repairRow
  simp only
  split
  · exact Only.after quietFields_putsBack (syncHealth_quiet h) rfl
  · rfl

theorem repairRow_reserve (s : State) (stack row : Nat) :
    s.health.wingsRsv.toNat ≤ (repairRow stack row s).2.health.wingsRsv.toNat + 1 := by
  unfold repairRow
  simp only
  split
  · have kept : ∀ v : State, (syncHealth v).health.wingsRsv = v.health.wingsRsv := fun v => (syncHealth_only v).field (·.health.wingsRsv) rfl
    simp only [kept]
    exact Nat.le_succ _
  · show _ ≤ (s.health.wingsRsv - 1).toNat + 1
    rw [BitVec.toNat_sub]
    have := s.health.wingsRsv.isLt
    simp
    omega

/-- The rows that WINGS replaces: while the reserve has a unit for each of them none is left out. -/
theorem wingsRows_repaired (l : List (Nat × Nat)) : ∀ s : State, s.dev.curUp = false → l.length ≤ s.health.wingsRsv.toNat →
    let u := l.foldl (fun q p => if q.1.health.wingsRsv == 0 then (q.1, false) else ((repairRow p.1 p.2 q.1).2, q.2)) (s, true)
    u.2 = true ∧ Only quietFields s u.1 := by
  induction l with
  | nil => exact fun s _ _ => ⟨rfl, rfl⟩
  | cons p r ih =>
    intro s down enough
    have some_left : (s.health.wingsRsv == 0) = false := by
      simp only [List.length_cons] at enough
      simp only [beq_eq_false_iff_ne, ne_eq]
      intro h
      rw [h] at enough
      simp at enough
    have quiet := repairRow_quiet p.1 p.2 down
    obtain ⟨done, rest⟩ := ih (repairRow p.1 p.2 s).2 ((quiet.field (fun u => u.dev.curUp) rfl).trans down) (by
      have := repairRow_reserve s p.1 p.2
      simp only [List.length_cons] at enough
      omega)
    simp only [List.foldl_cons, some_left]
    exact ⟨done, Only.after quietFields_putsBack rest quiet⟩

/-- What the end of phase p does. -/
def phaseEnd (p : Nat) (o : PhaseOutcome) (s : State) : Res :=
  match p with
  | 1 => .next (endFuse o s)
  | 2 => .next (endTrim o s)
  | 3 => .next (endPhy o s)
  | 4 => .next (endWings o s)
  | 5 => .next (endLoft o s)
  | 6 => .next (endClusters o s)
  | _ => .next (endHouse s)

section Phase
variable {s : State} {o : PhaseOutcome} (hd : inDawn s = true) (hw : phaseWaits s = false) (hok : outcomeOk s o = true)
include hd hw hok

theorem dawnPhaseComplete_fails (hf : o.fails = true) : exec (.dawnPhaseComplete o) s = .next (stopDawn (2 ^ 18) s) := by
  rw [exec, execDawnPhaseComplete, if_neg (by simp [hd, hw]), if_neg (by simp [hok]), if_pos hf]

/-- A phase that has found nothing wrong ends as its number says. -/
theorem dawnPhaseComplete_ends (hf : o.fails = false) (ht : trimmed s o = true) {p : BitVec 4} (hp : s.dev.dawnPhase = p) :
    exec (.dawnPhaseComplete o) s = phaseEnd p.toNat o s := by
  rw [exec, execDawnPhaseComplete, if_neg (by simp [hd, hw]), if_neg (by simp [hok]), if_neg (by simp [hf]), if_neg (by simp [ht]), hp]
  rfl

end Phase

/-- Every port is active in memory at the end of WINGS. -/
theorem kgetD_activate (m : KMap Port) (k : Nat) (hk : k < 8) :
    kgetD ((upto 8).foldl (fun m k => kmodD m k Port.fresh fun p => { p with memActive := true }) m) k Port.fresh =
      { kgetD m k Port.fresh with memActive := true } := by
  simp only [upto, List.range, List.range.loop, List.foldl, kgetD_kmodD]
  have : k = 0 ∨ k = 1 ∨ k = 2 ∨ k = 3 ∨ k = 4 ∨ k = 5 ∨ k = 6 ∨ k = 7 := by omega
  rcases this with rfl | rfl | rfl | rfl | rfl | rfl | rfl | rfl <;> rfl

theorem endWings_done {s : State} {o : PhaseOutcome} (h : s.dev.curUp = false) (hd : o.deadStacks = [])
    (enough : o.wingsRows.length ≤ s.health.wingsRsv.toNat) :
    (endWings o s).dev.dawnPhase = 5 ∧ ∀ k, k < 8 → (port (endWings o s) k).memActive = true := by
  have done := (wingsRows_repaired o.wingsRows s h enough).1
  unfold endWings
  simp only
  generalize o.wingsRows.foldl (fun q p => if q.1.health.wingsRsv == 0 then (q.1, false) else ((repairRow p.1 p.2 q.1).2, q.2)) (s, true) = q at *
  rw [if_neg (by simp [hd, done])]
  exact ⟨rfl, fun k hk => congrArg (·.memActive) (kgetD_activate q.1.ports k hk)⟩

/-- WINGS has found a stack that does not answer. -/
theorem endWings_stops {s : State} {o : PhaseOutcome} (h : s.dev.curUp = false) (hd : o.deadStacks ≠ []) :
    ∃ v, v.dev.curUp = false ∧ endWings o s = stopDawn (2 ^ 17 + 2 ^ 18) v := by
  have down : ∀ (l : List (Nat × Nat)) (q : State × Bool), q.1.dev.curUp = false →
      (l.foldl (fun q p => if q.1.health.wingsRsv == 0 then (q.1, false) else ((repairRow p.1 p.2 q.1).2, q.2)) q).1.dev.curUp = false := by
    intro l
    induction l with
    | nil => exact fun _ h => h
    | cons p r ih =>
      intro q h
      refine ih _ ?_
      dsimp only
      split
      · exact h
      · exact ((repairRow_quiet p.1 p.2 h).field (fun u => u.dev.curUp) rfl).trans h
  unfold endWings
  simp only
  rw [if_pos (by simp [hd])]
  exact ⟨_, down _ (s, true) h, rfl⟩

theorem updateRo_dev {α : Type} (f : DevBlk → α) (hf : ∀ (d : DevBlk) b, f { d with roMode := b } = f d) (s : State) :
    f (updateRo s).dev = f s.dev := by
  unfold updateRo
  simp only
  refine ((syncHealth_only _).field (fun u => f u.dev) rfl).trans ?_
  split <;> exact hf _ _

theorem actForceRo_dev {α : Type} (f : DevBlk → α) (hf : ∀ (d : DevBlk) b, f { d with roMode := b } = f d) (s : State) :
    f (actForceRo s).dev = f s.dev := by
  unfold actForceRo
  split
  · rfl
  · exact updateRo_dev f hf _

theorem actQuiesce_dev (s : State) : (actQuiesce s).dev = s.dev := by
  unfold actQuiesce reportQuiesce
  split
  · rfl
  · simp only
    split <;> rfl

/-- Pins that act and programs that go on leave the other fields of the device block. -/
theorem houseUp_dev {α : Type} (f : DevBlk → α) (hr : ∀ (d : DevBlk) b, f { d with roMode := b } = f d)
    (hc : ∀ (d : DevBlk) b c, f { d with checkpoint := b, closeRecord := c } = f d) (s : State) : f (resumePrograms (actForceRo (actQuiesce s))).dev = f s.dev := by
  refine ((resumePrograms_drain _).field (fun u => f u.dev) (hc _ _ _)).trans ?_
  rw [actForceRo_dev f hr, actQuiesce_dev]

theorem houseUp_curUp (s : State) : (resumePrograms (actForceRo (actQuiesce s))).dev.curUp = s.dev.curUp :=
  houseUp_dev (·.curUp) (fun _ _ => rfl) (fun _ _ _ => rfl) s

theorem houseUp_attempts (s : State) : (resumePrograms (actForceRo (actQuiesce s))).dev.attempts = s.dev.attempts :=
  houseUp_dev (·.attempts) (fun _ _ => rfl) (fun _ _ _ => rfl) s

/-- The end of HOUSE is curtain up. -/
theorem endHouse_leaves (s : State) : (endHouse s).dev.curUp = true ∧ (endHouse s).dev.attempts = 0 := by
  simp only [endHouse, houseUp_curUp, houseUp_attempts, modPwr, modDev, and_self]

/-! Shutdown, Dusk and power loss (R74 to R86). -/

theorem port_portsDown (s : State) (k : Nat) : (port (portsDown s) k).linkUp = false := by
  unfold port portsDown
  rw [kgetD_kmap s.ports (fun _ p => { p with linkUp := false, speed := 0, width := 0 }) k Port.fresh rfl]

theorem dropVolatile_pwr (s : State) : (dropVolatile s).pwr = s.pwr := rfl
theorem portsDown_pwr (s : State) : (portsDown s).pwr = s.pwr := rfl

theorem runFlush_pwr (s : State) : (runFlush s).pwr = { s.pwr with
    on := 1, powerLosses := if bit s.pwr.on 3 && bit s.pwr.on 4 then satInc s.pwr.powerLosses else s.pwr.powerLosses } := by
  have drained : (flushJournal (flushBuffer s)).pwr = s.pwr :=
    (Only.after drainFields_putsBack (flushJournal_drain _) (flushBuffer_drain s)).field State.pwr rfl
  unfold runFlush
  simp only
  split
  · simp only [dropVolatile_pwr, portsDown_pwr, modPwr, modLoft, drained]
  · rfl

theorem runFlush_marker {s : State} (h3 : bit s.pwr.on 3 = true) (h4 : bit s.pwr.on 4 = true) :
    (runFlush s).loft.lossMarker = true := by
  unfold runFlush
  simp only [h3, h4]
  rfl

theorem runFlush_leaves (s : State) : (runFlush s).dev.flushed = true ∧ (runFlush s).dev.curUp = false ∧ (runFlush s).taken = [] ∧
    ∀ k, (port (runFlush s) k).linkUp = false := by
  refine ⟨rfl, rfl, rfl, fun k => ?_⟩
  exact port_portsDown _ k

theorem duskEnter_next {s : State} {mv : BitVec 16} (on : bit s.pwr.on 0 = true) (light : s.pwr.inDusk = false)
    (up : s.dev.flushed = false) (low : mv.toNat < 10800) : exec (.duskEnter mv) s = .next (postEvent 1 0xFF (w64 (65536 + mv.toNat)) 0
      { duskErases true (setSupply mv s) with
        pwr := { (setSupply mv s).pwr with
          inDusk := true, duskEntries := satInc s.pwr.duskEntries, duskSince := some (now s)
          railMv := if bit s.pwr.on 1 then 720 else s.pwr.railMv }
        dev := { s.dev with duskSeen := true } }) := by
  rw [exec, execDuskEnter, if_neg (by simp [on, light, up, low])]
  rfl

/-- The state in which Dusk ends, before its event. -/
def afterDusk (mv : BitVec 16) (s : State) : State :=
  let spent := now s - max (s.pwr.duskSince.getD (now s)) s.dev.phaseStart.toNat
  resumePrograms { duskErases false (setSupply mv s) with
    pwr := { (setSupply mv s).pwr with
      inDusk := false, duskSince := none, railMv := if bit s.pwr.on 1 then s.pwr.railChosen else s.pwr.railMv }
    dev := { s.dev with phaseStart := s.dev.phaseStart + w64 spent } }

theorem afterDusk_drain (mv : BitVec 16) (s : State) : Only drainFields { duskErases false (setSupply mv s) with
    pwr := { (setSupply mv s).pwr with
      inDusk := false, duskSince := none, railMv := if bit s.pwr.on 1 then s.pwr.railChosen else s.pwr.railMv }
    dev := { s.dev with phaseStart := s.dev.phaseStart + w64 (now s - max (s.pwr.duskSince.getD (now s)) s.dev.phaseStart.toNat) } }
    (afterDusk mv s) := resumePrograms_drain _

theorem duskExit_next {s : State} {mv : BitVec 16} (dusk : s.pwr.inDusk = true) (up : s.dev.flushed = false) (high : 11200 < mv.toNat) :
    exec (.duskExit mv) s = .next (postEvent 1 0xFF (w64 mv.toNat) 0 (afterDusk mv s)) := by
  rw [exec, execDuskExit, if_neg (by simp [dusk, up, high])]
  rfl

theorem safeOff_next {s : State} (req : s.dev.shutdownReq = true) (on : s.pwr.safeOff = false) (up : s.dev.flushed = false)
    (wait : shutdownWaits s = false) (drained : shutdownDrained s = true) : exec .safeOff s = .next
      { dropVolatile (portsDown (closeLoft s)) with
        pwr := { (dropVolatile (portsDown (closeLoft s))).pwr with on := 1, safeOff := true } } := by
  rw [exec, execSafeOff, if_neg (by simp [req, on, up, wait, drained])]

theorem closeLoft_record {s : State} (h : closeDue s = true) : (closeLoft s).dev.closeRecord = true := by
  unfold closeLoft
  rw [if_neg (by simp [h])]
  rfl

/-- Each phase of a Dawn that has found nothing wrong, as O46 states them. -/
theorem phasesEnd {s : State} {o : PhaseOutcome} (hd : inDawn s = true) (hw : phaseWaits s = false) (hok : outcomeOk s o = true)
    (hf : o.fails = false) :
    (s.dev.dawnPhase = 1 → exec (.dawnPhaseComplete o) s = .next (endFuse o s)) ∧
    (s.dev.dawnPhase = 2 → trimmed s o = true → ∃ u, exec (.dawnPhaseComplete o) s = .next u ∧ u.dev.dawnPhase = 3 ∧
      u.pwr.on = s.pwr.on ||| 0x18 ∧ 720 ≤ u.pwr.railMv.toNat ∧ u.pwr.railMv.toNat ≤ 880 ∧
      u.pwr.railChosen.toNat = clampRail o.railMv.toNat) ∧
    (s.dev.dawnPhase = 3 → o.deadStacks = [] → ∃ u, exec (.dawnPhaseComplete o) s = .next u ∧
      u.dev.dawnPhase = 4 ∧ u.pwr.holdupUs = o.holdupUs) ∧
    ((s.dev.dawnPhase = 3 ∨ s.dev.dawnPhase = 4) → o.deadStacks ≠ [] → ∃ u, exec (.dawnPhaseComplete o) s = .next u ∧
      u.dev.stopped = true ∧ bit u.health.cause 17 = true ∧ bit u.health.cause 18 = true) ∧
    (s.dev.dawnPhase = 4 → o.deadStacks = [] → o.wingsRows.length ≤ s.health.wingsRsv.toNat →
      ∃ u, exec (.dawnPhaseComplete o) s = .next u ∧ u.dev.dawnPhase = 5 ∧ ∀ k, k < 8 → (port u k).memActive = true) ∧
    (s.dev.dawnPhase = 5 → exec (.dawnPhaseComplete o) s = .next (endLoft o s)) ∧
    (s.dev.dawnPhase = 6 → exec (.dawnPhaseComplete o) s = .next (endClusters o s)) ∧
    (s.dev.dawnPhase = 7 → ∃ u, exec (.dawnPhaseComplete o) s = .next u ∧ u.dev.curUp = true ∧ u.dev.attempts = 0) := by
  have down := inDawn_curUp hd
  have ends {p : BitVec 4} (hp : s.dev.dawnPhase = p) (h : p ≠ 2) := dawnPhaseComplete_ends hd hw hok hf (by rw [trimmed, hp, bne_iff_ne.mpr h]; rfl) hp
  refine ⟨fun p => ends p (by decide), fun p ht => ?trim, fun p dead => ?phy, fun p dead => ?dead, fun p dead rows => ?wings,
    fun p => ends p (by decide), fun p => ends p (by decide), fun p => ⟨endHouse s, ends p (by decide), endHouse_leaves s⟩⟩
  case trim =>
    refine ⟨endTrim o s, dawnPhaseComplete_ends hd hw hok hf ht p, rfl, rfl, ?_⟩
    obtain ⟨low, high⟩ := clampRail_range o.railMv.toNat
    have rail : (endTrim o s).pwr.railMv = if s.pwr.inDusk then 720 else BitVec.ofNat 16 (clampRail o.railMv.toNat) := rfl
    refine ⟨?_, ?_, clampRail_toNat _⟩ <;> rw [rail] <;> split
    · decide
    · rw [clampRail_toNat]; exact low
    · decide
    · rw [clampRail_toNat]; exact high
  case phy =>
    have quiet := measureHoldup_quiet o.holdupUs down
    refine ⟨endPhy o s, ends p (by decide), ?_⟩
    rw [endPhy, if_neg (by simp [dead])]
    exact ⟨rfl, quiet.field (·.pwr.holdupUs) rfl⟩
  case dead =>
    rcases p with p | p
    · have held := (measureHoldup_quiet o.holdupUs down).field (·.dev.curUp) rfl
      obtain ⟨stopped, -, causes⟩ := stopDawn_leaves (2 ^ 17 + 2 ^ 18) (held.trans down)
      refine ⟨endPhy o s, ends p (by decide), ?_⟩
      rw [endPhy, if_pos (by simp [dead])]
      exact ⟨stopped, causes 17 (by decide), causes 18 (by decide)⟩
    · obtain ⟨v, up, ended⟩ := endWings_stops (s := s) down dead
      obtain ⟨stopped, -, causes⟩ := stopDawn_leaves (2 ^ 17 + 2 ^ 18) up
      refine ⟨endWings o s, ends p (by decide), ?_⟩
      rw [ended]
      exact ⟨stopped, causes 17 (by decide), causes 18 (by decide)⟩
  case wings =>
    obtain ⟨phase, active⟩ := endWings_done down dead rows
    exact ⟨endWings o s, ends p (by decide), phase, active⟩

theorem holdupMeasurement_next {s : State} {us : BitVec 16} (due : measureDue s = true) (up : s.dev.flushed = false) (on : s.pwr.safeOff = false) :
    exec (.holdupMeasurement us) s = .next (resumePrograms (measureHoldup us s)) := by
  rw [exec, execHoldupMeasurement, if_neg (by simp [due, up, on])]

theorem holdupMeasurement_pwr (us : BitVec 16) (s : State) : (resumePrograms (measureHoldup us s)).pwr.holdupUs = us ∧
    (resumePrograms (measureHoldup us s)).pwr.holdupWeak = decide (us.toNat < 20000) := by
  rw [resumePrograms_pwr, measureHoldup_pwr]
  exact ⟨rfl, rfl⟩

/-- Settles O46: the phases of a Dawn by `dawnPhaseComplete_ends`, each other row by its definition. -/
theorem powerRowsComplete : Obligations.PowerRowsComplete := by
  intro s
  refine ⟨fun o hd hw hok => ⟨fun hf => ?fails, fun hf => ?phases⟩, fun hd hn late => ?timeout, fun req on up wait drained => ?off,
    fun mv on light up low => ?enter, fun mv dusk up high => ?leave, fun mv on up low => ?flush, fun t on fl low hl hw => ?expiry,
    fun house up on => ?watchdog, fun us due up on => ?measure⟩
  case fails =>
    obtain ⟨stopped, down, causes⟩ := stopDawn_leaves (2 ^ 18) (inDawn_curUp hd)
    exact ⟨_, dawnPhaseComplete_fails hd hw hok hf, stopped, causes 18 (by decide), down⟩
  case phases => exact phasesEnd hd hw hok hf
  case timeout =>
    rw [exec, execDawnPhaseTimeout, if_neg (by simp [hd, hn, late])]
    simp only
    split
    · rfl
    · by_cases other : s.dev.otherSlot = true
      · rw [if_neg (by simp [other]), if_pos other]; rfl
      · rw [if_pos (by simp [other]), if_neg other]; rfl
  case off =>
    exact ⟨_, safeOff_next req on up wait drained, rfl, rfl, fun k => port_portsDown _ k, rfl, rfl, rfl, rfl, rfl, rfl, closeLoft_record⟩
  case enter =>
    exact ⟨_, duskEnter_next on light up low, rfl, rfl, rfl, rfl, bit_or_right (by decide) _, rfl⟩
  case leave =>
    have drain := afterDusk_drain mv s
    have run := duskExit_next dusk up high
    generalize afterDusk mv s = v at drain run
    exact ⟨_, run, drain.field (·.pwr.inDusk) rfl, drain.field (·.pwr.railMv) rfl, bit_or_right (by decide) _,
      drain.field State.ports rfl, drain.field State.conns rfl⟩
  case flush =>
    have pwr := runFlush_pwr (setSupply mv s)
    obtain ⟨flushed, down, taken, links⟩ := runFlush_leaves (setSupply mv s)
    refine ⟨runFlush (setSupply mv s), ?_, ?_, flushed, down, ?_, taken, fun h3 h4 => ⟨?_, runFlush_marker h3 h4⟩, links⟩
    · rw [exec, execHoldupFlush, if_neg (by simp [on, low]), if_neg (by simp [up])]
    · rw [pwr]
    · rw [pwr]; rfl
    · rw [pwr]; exact if_pos (by simp [setSupply, modPwr, h3, h4])
  case expiry =>
    rw [exec, execPd0HoldupExpiry, if_neg (by simp [on, fl, low]), hl]
    simp only
    have spent : ¬ (decide (now s < t + 40000000) && decide (40000 ≤ s.pwr.holdupUs.toNat)) = true := by
      rcases hw with h | h
      · rw [decide_eq_false (Nat.not_lt.mpr h)]
        exact Bool.false_ne_true
      · rw [decide_eq_false (Nat.not_le.mpr h), Bool.and_false]
        exact Bool.false_ne_true
    rw [if_neg spent]
  case watchdog =>
    have dev := resetAll_dev true s
    obtain ⟨-, taken, -⟩ := resetAll_leaves true s
    refine ⟨{ resetAll true s with pwr := { (resetAll true s).pwr with on := 1 } }, ?_, rfl, ?_, taken, ?_⟩
    · rw [exec, execHouseWatchdog, if_neg (by simp [house, up, on])]
    · exact congrArg (·.dawnPhase) dev
    · exact congrArg (·.time) dev
  case measure => exact ⟨_, holdupMeasurement_next due up on, holdupMeasurement_pwr us s⟩

/-! Readings and pins (R101 to R104, R152, R871 to R894). -/

theorem toNat_rail {n : Nat} (h : n ≤ 880) : (BitVec.ofNat 16 n).toNat = n := by
  rw [BitVec.toNat_ofNat]
  omega

theorem readBeats_beatNow (beats : List (BitVec 16)) {s : State} {k : Nat} (hk : k < 16) (good : bit s.health.monitorBad k = false) :
    (readBeats beats s).perf.beatNow.getD k 0 = beats.getD k 0 := by
  have k17 : k ≠ 17 := by omega
  have k18 : k < 18 := by omega
  simp [readBeats, modPerf, upto, k18, k17, good]

/-- The value the rail takes: at most two steps of 5 mV from the old one, and within its range. -/
def railNext (r : Nat) (excess bound : Bool) (f : Nat) : Nat :=
  if excess then (if bound then r else min 880 (r + 5 * (f % 3))) else max 720 (r - 5 * (f % 3))

theorem railNext_range {r : Nat} (low : 720 ≤ r) (high : r ≤ 880) (excess bound : Bool) (f : Nat) :
    720 ≤ railNext r excess bound f ∧ railNext r excess bound f ≤ 880 ∧ railNext r excess bound f ≤ r + 10 ∧
    r ≤ railNext r excess bound f + 10 := by
  have := Nat.mod_lt f (show 3 > 0 by decide)
  unfold railNext
  split
  · split <;> omega
  · omega

/-- The state after RAIL_READING in service. -/
def railRead (beats : List (BitVec 16)) (s : State) : State :=
  let r := railNext s.pwr.railMv.toNat (overTarget (readBeats beats s) beats) (powerBound (readBeats beats s)) (Config.freeWord s.free).toNat
  { readBeats beats s with
    free := s.free + 1
    pwr := { s.pwr with
      railMv := BitVec.ofNat 16 r, railChosen := BitVec.ofNat 16 r
      targetMiss := overTarget (readBeats beats s) beats && (powerBound (readBeats beats s) || s.pwr.railMv == 880) } }

theorem railReading_next {s : State} {beats : List (BitVec 16)} (hl : beats.length = 18) (up : s.dev.curUp = true)
    (light : s.pwr.inDusk = false) (on : bit s.pwr.on 1 = true) : exec (.railReading beats) s = .next (railRead beats s) := by
  rw [exec, execRailReading, if_neg (by simp [hl]), if_neg (by simp [on]), if_neg (by simp [up, light])]
  rfl

theorem setTherm_kept (b : Bool) (s : State) : (setTherm b s).pwr = { s.pwr with therm := b } ∧ (setTherm b s).dev = s.dev := by
  unfold setTherm
  split
  · have : b = s.pwr.therm := eq_of_beq ‹_›
    exact ⟨by rw [this], rfl⟩
  · unfold pldmEvent
    split <;> exact ⟨rfl, rfl⟩

theorem updateRo_roMode (s : State) : (updateRo s).dev.roMode = (s.loft.roCause == 1 || s.pwr.forceRo) := by
  unfold updateRo
  simp only
  refine ((syncHealth_only _).field (fun u => u.dev.roMode) rfl).trans ?_
  split <;> rfl

theorem updateRo_pwr (s : State) : (updateRo s).pwr = s.pwr := by
  unfold updateRo
  simp only
  refine ((syncHealth_only _).field State.pwr rfl).trans ?_
  split <;> rfl

theorem reportQuiesce_kept (was : Bool) (s : State) : (reportQuiesce was s).pwr = s.pwr ∧
    ∀ p e, { reportQuiesce was s with pwr := p, evt := e } = { s with pwr := p, evt := e } := by
  unfold reportQuiesce
  split <;> exact ⟨rfl, fun _ _ => rfl⟩

/-- The pin acts where it may and the level has changed. -/
theorem actQuiesce_pwr (s : State) : (actQuiesce s).pwr.quiesceCnt = s.pwr.quiesceCnt ∧
    (actQuiesce s).pwr.quiesceIn = (if s.dev.curUp && holdoffOver s.pwr.quiesceAt s then s.pwr.quiesceCnt else s.pwr.quiesceIn) ∧
    ∀ t : State, { actQuiesce s with pwr := t.pwr, evt := t.evt } = { s with pwr := t.pwr, evt := t.evt } := by
  unfold actQuiesce
  by_cases up : s.dev.curUp = true
  · by_cases free : holdoffOver s.pwr.quiesceAt s = true
    · by_cases same : (s.pwr.quiesceIn == s.pwr.quiesceCnt) = true
      · rw [if_pos (by simp [same]), if_pos (by simp [up, free])]
        exact ⟨rfl, eq_of_beq same, fun _ => rfl⟩
      · rw [if_neg (by simp [up, free, same]), if_pos (by simp [up, free])]
        simp only [reportQuiesce_kept]
        exact ⟨rfl, rfl, fun _ => rfl⟩
    · rw [if_pos (by simp [free]), if_neg (by simp [free])]
      exact ⟨rfl, rfl, fun _ => rfl⟩
  · rw [if_pos (by simp [up]), if_neg (by simp [up])]
    exact ⟨rfl, rfl, fun _ => rfl⟩

theorem actForceRo_acts {s : State} (up : s.dev.curUp = true) (free : holdoffOver s.pwr.forceRoAt s = true) :
    (actForceRo s).pwr.forceRoCnt = s.pwr.forceRoCnt ∧ (actForceRo s).pwr.forceRo = s.pwr.forceRoCnt ∧
    (s.pwr.forceRo ≠ s.pwr.forceRoCnt → (actForceRo s).dev.roMode = (s.pwr.forceRoCnt || s.loft.roCause == 1)) := by
  unfold actForceRo
  by_cases same : (s.pwr.forceRo == s.pwr.forceRoCnt) = true
  · rw [if_pos (by simp [same])]
    exact ⟨rfl, eq_of_beq same, fun h => absurd (eq_of_beq same) h⟩
  · rw [if_neg (by simp [up, free, same])]
    rw [updateRo_pwr, updateRo_roMode]
    exact ⟨rfl, rfl, fun _ => Bool.or_comm ..⟩

theorem actForceRo_held {s : State} (h : ¬ (s.dev.curUp && holdoffOver s.pwr.forceRoAt s) = true) : actForceRo s = s := by
  unfold actForceRo
  rw [if_pos]
  rw [Bool.not_eq_true, Bool.and_eq_false_iff] at h
  rcases h with h | h <;> simp [h]

/-- The state after MONITOR_FAILURE of a region. -/
def monitorFailed (k : Nat) (s : State) : State :=
  let s := modPerf (fun p => { p with beatNow := setAt p.beatNow k 0xFFFF })
    (modHealth (fun h => { h with monitorBad := h.monitorBad ||| BitVec.ofNat 18 (2 ^ k) }) s)
  if k < 16 then failRegion k (raiseCause 64 (dropFree k s)) else raiseCause 64 s

theorem monitorFailed_bad (k : Nat) (s : State) :
    (monitorFailed k s).health.monitorBad = s.health.monitorBad ||| BitVec.ofNat 18 (2 ^ k) := by
  have raised := fun v : State => (raiseCause_only 64 v).field (·.health.monitorBad) rfl
  unfold monitorFailed
  simp only
  split
  · rw [failRegion_monitorBad, raised, dropFree_monitorBad]
    rfl
  · rw [raised]
    rfl

theorem monitorFailed_cause (k : Nat) (s : State) : bit (monitorFailed k s).health.cause 6 = true := by
  have raised (v : State) : bit (raiseCause 64 v).health.cause 6 = true := by
    rw [raiseCause_cause]
    exact bit_or_left (bit_or_right (by decide) _) _
  unfold monitorFailed
  simp only
  split
  · exact failRegion_keeps 6 (by decide) (by decide) k _ (raised _)
  · exact raised _

/-- The state after TEMPERATURE_READING with tj the hottest region. -/
def tempered (tj : BitVec 8) (s : State) : State :=
  let read := modPwr (fun p => { p with tjC := tj, peakC := hottest [p.peakC, tj] }) s
  if !bit s.pwr.on 1 then read
  else
    let told := setTherm (thermAfter s tj.toNat) read
    if tj.toNat < 115 then modPwr (fun p => { p with tripReads := 0 }) told
    else if told.pwr.tripReads + 1 < 2 then modPwr (fun p => { p with tripReads := 1 }) told
    else modDev (fun d => { d with tripped := true }) (runFlush told)

theorem tempered_leaves (tj : BitVec 8) (s : State) : let u := tempered tj s
    u.pwr.tjC = tj ∧ u.pwr.peakC = hottest [s.pwr.peakC, tj] ∧ (bit s.pwr.on 1 = true → u.pwr.therm = thermAfter s tj.toNat) ∧
    (bit s.pwr.on 1 = true → tj.toNat < 115 → u.pwr.tripReads = 0 ∧ u.pwr.on = s.pwr.on) ∧
    (bit s.pwr.on 1 = true → 115 ≤ tj.toNat → 1 ≤ s.pwr.tripReads → u.dev.tripped = true ∧ u.pwr.on = 1) := by
  simp only
  rw [tempered]
  split
  case isTrue off =>
    have off : ¬ bit s.pwr.on 1 = true := by simpa using off
    exact ⟨rfl, rfl, fun on => absurd on off, fun on => absurd on off, fun on => absurd on off⟩
  case isFalse =>
    simp only
    obtain ⟨pwr, -⟩ := setTherm_kept (thermAfter s tj.toNat) (modPwr (fun p => { p with tjC := tj, peakC := hottest [p.peakC, tj] }) s)
    generalize setTherm (thermAfter s tj.toNat) (modPwr (fun p => { p with tjC := tj, peakC := hottest [p.peakC, tj] }) s) = told at pwr ⊢
    split
    case isTrue cool =>
      simp only [modPwr, pwr]
      exact ⟨trivial, trivial, fun _ => trivial, fun _ _ => ⟨trivial, trivial⟩, fun _ hot => absurd cool (Nat.not_lt.mpr hot)⟩
    case isFalse hot =>
      split
      case isTrue first =>
        simp only [modPwr, pwr]
        have first : s.pwr.tripReads + 1 < 2 := by simpa only [pwr, modPwr] using first
        exact ⟨trivial, trivial, fun _ => trivial, fun _ cool => absurd cool hot, fun _ _ again => by omega⟩
      case isFalse =>
        simp only [modDev, runFlush_pwr, pwr, modPwr]
        exact ⟨trivial, trivial, fun _ => trivial, fun _ cool => absurd cool hot, fun _ _ _ => ⟨trivial, trivial⟩⟩

/-- Settles O47: each row by its definition, the readings of temperature by their four outcomes. -/
theorem readingsAndPinsAct : Obligations.ReadingsAndPinsAct := by
  intro s
  refine ⟨fun beats hl up light on low high => ?rail, fun k hk on good prompter => ?monitor, fun temps hl on => ?temperature,
    fun w mv on => ?power, fun w mv off => ?supply, fun b on => ?quiesce, fun b on => ?ro, fun on up free => ?quiesceHeld,
    fun on up free => ?roHeld⟩
  case rail =>
    obtain ⟨r1, r2, r3, r4⟩ := railNext_range low high (overTarget (readBeats beats s) beats) (powerBound (readBeats beats s))
      (Config.freeWord s.free).toNat
    have rail := toNat_rail r2
    refine ⟨railRead beats s, railReading_next hl up light on, ?_, ?_, ?_, ?_, rfl, fun k hk good => readBeats_beatNow beats hk good, rfl⟩
    · exact rail.symm ▸ r1
    · exact rail.symm ▸ r2
    · exact rail.symm ▸ r3
    · exact rail.symm ▸ r4
  case monitor =>
    have bad : bit (s.health.monitorBad ||| BitVec.ofNat 18 (2 ^ k)) k = true := bit_mark hk _
    refine ⟨monitorFailed k s, ?_, ?_, ?_, fun h i hi => ?_⟩
    · rw [exec, execMonitorFailure, if_neg (Nat.not_le.mpr hk), if_neg (by
        rcases Nat.lt_or_ge k 17 with h | h
        · simp [on, good, Nat.ne_of_lt h]
        · simp [on, good, prompter (by omega)])]
      rfl
    · exact (congrArg (fun m => bit m k) (monitorFailed_bad k s)).trans bad
    · exact monitorFailed_cause k s
    · rw [monitorFailed, if_pos h]
      exact failRegion_row k i hi _
  case temperature =>
    intro tj
    have run : exec (.temperatureReading temps) s = .next (tempered tj s) := by
      rw [exec, execTemperatureReading, if_neg (by simp [hl]), if_neg (by simp [on]), tempered]
      by_cases off : (!bit s.pwr.on 1) = true
      · exact (if_pos off).trans (congrArg _ (if_pos off).symm)
      · refine (if_neg off).trans (Eq.trans ?_ (congrArg _ (if_neg off).symm))
        simp only
        by_cases cool : tj.toNat < 115
        · exact (if_pos cool).trans (congrArg _ (if_pos cool).symm)
        · refine (if_neg cool).trans (Eq.trans ?_ (congrArg _ (if_neg cool).symm))
          exact (apply_ite Host.Outcome.next ..).symm
    obtain ⟨tjC, peak, therm, cool, trip⟩ := tempered_leaves tj s
    exact ⟨tempered tj s, run, tjC, peak, therm, cool, trip⟩
  case power =>
    have run := show exec (.powerReading w mv) s = execPowerReading w mv s from rfl
    rw [execPowerReading, if_neg (by simp [on])] at run
    exact ⟨_, run, rfl, rfl, fun h => if_pos h, rfl⟩
  case supply => rw [exec, execPowerReading, if_pos (by simp [off])]
  case quiesce =>
    obtain ⟨counted, acts, rest⟩ := actQuiesce_pwr (modPwr (fun p => { p with quiesceCnt := b }) s)
    refine ⟨actQuiesce (modPwr (fun p => { p with quiesceCnt := b }) s), ?_, counted, acts, rest s⟩
    rw [exec, execQuiesceNChange, if_neg (by simp [on])]
  case ro =>
    refine ⟨actForceRo (modPwr (fun p => { p with forceRoCnt := b }) s), ?_, ?_⟩
    · rw [exec, execForceRoChange, if_neg (by simp [on])]
    · by_cases h : (s.dev.curUp && holdoffOver s.pwr.forceRoAt s) = true
      · obtain ⟨up, free⟩ := Bool.and_eq_true_iff.mp h
        obtain ⟨counted, acts, mode⟩ := actForceRo_acts (s := modPwr (fun p => { p with forceRoCnt := b }) s) up free
        exact ⟨counted, by rw [if_pos h]; exact acts, fun _ _ => mode⟩
      · rw [if_neg h, actForceRo_held (s := modPwr (fun p => { p with forceRoCnt := b }) s) h]
        exact ⟨rfl, rfl, fun up free => absurd (by rw [up, free]; rfl) h⟩
  case quiesceHeld =>
    obtain ⟨-, acts, -⟩ := actQuiesce_pwr s
    refine ⟨actQuiesce s, ?_, acts.trans (if_pos (by simp [up, free]))⟩
    rw [exec, execPinHoldoffExpiry, if_neg (by simp [on])]
  case roHeld =>
    refine ⟨actForceRo s, ?_, (actForceRo_acts up free).2.1⟩
    rw [exec, execPinHoldoffExpiry, if_neg (by simp [on])]

end Sys2Proof.Machine
end

-- The host ports.
section
/-!
PROOFS. O48: a port reset (R575, R704, R705), training (R673, R711), configuration space (R68, R674), IDE failures (R697), PTM (R306,
R307) and DOE (R684, R695).
-/
namespace Sys2Proof.Machine
open Sys2Proof

/-! What the end of work, and requests that go on, leave alone. -/

/-- Puts back all but the queue of commands, the fuses, the device block, the ports and the SPDM sessions. -/
def linkFields (u s : State) : State :=
  { s with pending := u.pending, fuses := u.fuses, dev := u.dev, ports := u.ports, sessions := u.sessions }

theorem linkFields_putsBack : PutsBack linkFields := ⟨fun _ => rfl, fun _ _ _ => rfl⟩

theorem Only.link_of_end {s u : State} (h : Only endFields s u) : Only linkFields s u :=
  (show linkFields u s = linkFields (endFields u s) s from rfl).trans ((congrArg (fun x => linkFields x s) h).trans rfl)

theorem Only.linked {s t u : State} (k : Only linkFields t u) (h : Only linkFields s t) : Only linkFields s u :=
  Only.after linkFields_putsBack k h

theorem linked_foldl {α : Type} {f : State → α → State} (h : ∀ s x, Only linkFields s (f s x)) (l : List α) (s : State) :
    Only linkFields s (l.foldl f s) := Only.foldl linkFields_putsBack f h l s

theorem taken_link (l : List Taken) (s : State) : Only linkFields s { s with taken := l } := rfl
theorem queues_link (m : KMap Queue) (s : State) : Only linkFields s { s with queues := m } := rfl
theorem agents_link (m : KMap Agent) (s : State) : Only linkFields s { s with agents := m } := rfl
theorem flushes_link (y : Nat) (s : State) :
    Only linkFields s (modPerf2 (fun p => { p with flushes := satInc p.flushes }) (removeQueue y s)) := rfl
theorem emit_link (o : Out) (s : State) : Only linkFields s (emit o s) := rfl
theorem modConn_link (k : Nat) (f : Conn → Conn) (s : State) : Only linkFields s (modConn k f s) := rfl

theorem sendControl_link (k op : Nat) (b : List Byte) (s : State) : Only linkFields s (sendControl k op b s) := by
  unfold sendControl
  split
  · rfl
  · simp only
    split <;> rfl

theorem sendAck_link (k : Nat) (s : State) : Only linkFields s (sendAck k s) := by
  unfold sendAck
  split
  · rfl
  · exact (modConn_link ..).linked ((sendControl_link ..).linked rfl)

theorem received_link (k : Nat) (psn : Word32) (force : Bool) (s : State) : Only linkFields s (received k psn force s) := by
  unfold received
  simp only
  split
  · exact (sendAck_link ..).linked rfl
  · rfl

theorem notifyArrival_link (k : Nat) (s : State) : Only linkFields s (notifyArrival k s) := by
  unfold notifyArrival
  split
  · rfl
  · split <;> rfl

theorem writeVisible_link (k : Nat) (p : ShPacket) (s : State) : Only linkFields s (writeVisible k p s) := by
  unfold writeVisible
  split
  · exact received_link ..
  · simp only
    split
    · refine (received_link ..).linked ?_
      split
      · exact (notifyArrival_link ..).linked rfl
      · rfl
    · exact (received_link ..).linked rfl

theorem readReady_link (k : Nat) (r : InRead) (s : State) : Only linkFields s (readReady k r s) := by
  unfold readReady
  split
  · rfl
  · simp only
    split <;> rfl

/-- An inbound Stagehand operation that goes on changes its connection and the counters of the atomic window. -/
theorem shContinue_link (tag : Option (Nat × Nat)) (s : State) : Only linkFields s (shContinue tag s) := by
  unfold shContinue
  split
  · rfl
  split
  · rfl
  split
  · rfl
  split
  · split
    · rfl
    · exact (writeVisible_link ..).linked rfl
  · split
    · rfl
    · exact readReady_link ..

theorem shPoison_link (tag : Option (Nat × Nat)) (s : State) : Only linkFields s (shPoison tag s) := by
  unfold shPoison
  split <;> rfl

theorem answerAck_link (a d : Nat) (s : State) : Only linkFields s (answerAck a d s) := rfl
theorem answerPoison_link (a d : Nat) (s : State) : Only linkFields s (answerPoison a d s) := rfl
theorem answerData_link (a d : Nat) (b : List Byte) (s : State) : Only linkFields s (answerData a d b s) := rfl
theorem writeLine_link (c line off : Nat) (b : List Byte) (s : State) : Only linkFields s (writeLine c line off b s) := rfl

theorem toAgent_link {f : State → State} (h : ∀ s, Only linkFields s (f s)) (sh : ShTag) (s : State) : Only linkFields s (toAgent sh f s) := by
  unfold toAgent
  split
  · rfl
  · exact h s

theorem snoopFor_link (w : SnoopWait) (b : Bool) (s : State) : Only linkFields s (snoopFor w b s) :=
  (linked_foldl (fun _ _ => emit_link ..) _ _).linked rfl

theorem setSnoop_link (x : SnoopLine) (s : State) : Only linkFields s (setSnoop x s) := by
  unfold setSnoop
  split <;> rfl

theorem grant_link (w : SnoopWait) (s : State) : Only linkFields s (grant w s) := by
  unfold grant
  simp only
  split
  · split
    · exact toAgent_link (answerAck_link _ _) ..
    · exact (shPoison_link ..).linked (toAgent_link (answerPoison_link _ _) ..)
  · split
    · exact (toAgent_link (answerAck_link _ _) ..).linked (writeLine_link ..)
    · refine (toAgent_link (answerData_link _ _ _) ..).linked ?_
      split
      · rfl
      · exact setSnoop_link ..
      · exact setSnoop_link ..

theorem coherentRequest_link (w : SnoopWait) (s : State) : Only linkFields s (coherentRequest w s) := by
  unfold coherentRequest
  simp only
  split
  · exact snoopFor_link ..
  split
  · split
    · exact grant_link ..
    · split
      · exact (grant_link ..).linked rfl
      · exact snoopFor_link ..
  · exact grant_link ..

theorem answered_link (c line h : Nat) (s : State) : Only linkFields s (answered c line h s) :=
  (linked_foldl (fun _ _ => (shContinue_link ..).linked (coherentRequest_link ..)) _ _).linked rfl

theorem release_link (c line h : Nat) (b : Bool) (s : State) : Only linkFields s (release c line h b s) := by
  unfold release
  split
  · rfl
  · extract_lets left
    split
    · rfl
    · exact setSnoop_link ..

theorem dropHolder_link (a : Nat) (s : State) : Only linkFields s (dropHolder a s) := by
  refine linked_foldl (fun s x => ?_) _ s
  refine (answered_link ..).linked ((release_link ..).linked ?_)
  split <;> rfl

theorem finishCore_link (t : Taken) (c : Completion) (s : State) : Only linkFields s (finishCore t c s) :=
  Only.link_of_end (finishCore_only t c s)

theorem resetQueue_link (y : Nat) (s : State) : Only linkFields s (resetQueue y s) := by
  unfold resetQueue
  simp only
  exact (taken_link _ _).linked ((linked_foldl (fun _ _ => finishCore_link ..) _ _).linked
    ((Only.link_of_end (abortAll_only ..)).linked (flushes_link y s)))

theorem resetAdmin_link (s : State) : Only linkFields s (resetAdmin s) := by
  unfold resetAdmin
  split
  · rfl
  · exact (queues_link _ _).linked (resetQueue_link 0 s)

theorem resetStreams_link (p : WsOp → Bool) (s : State) : Only linkFields s (resetStreams p s) := by
  refine linked_foldl (fun s op => ?_) _ s
  split
  · split
    · exact Only.linked (Only.link_of_end (settle_only _)) (Only.link_of_end (endWeights_only ..))
    · rfl
  · rfl

theorem resetCues_link (p : CueDest → Bool) (s : State) : Only linkFields s (resetCues p s) := by
  refine linked_foldl (fun s op => ?_) _ s
  split
  · split
    · exact Only.linked (Only.link_of_end (settle_only _)) (Only.link_of_end (endCue_only ..))
    · rfl
  · rfl

theorem dropRequests_link (mine : List Nat) (s : State) : Only linkFields s (dropRequests mine s) :=
  (linked_foldl (fun _ _ => agents_link _ _) _ _).linked (show Only linkFields s { modWork _ s with snoopWaits := _ } from rfl)

/-! A port reset. -/

/-- What a reset of port k leaves to be settled, its own registers cleared. -/
def resetPort (k : Nat) (s : State) : State :=
  let mine := portAgents s k
  let queues := (s.queues.filter fun p => p.1 != 0 && mine.contains p.2.agent).map (·.1)
  let admin := (queue s 0).any fun q => mine.contains q.agent
  let s := modPort k (portCleared (now s)) (dropRequests mine s)
  let s := queues.foldl (fun s y => resetQueue y s) s
  let s := if admin then resetAdmin s else s
  let s := resetStreams (fun o => !o.stagehand && mine.contains o.target)
    (resetCues (fun d => !d.stagehand && mine.contains d.agent) s)
  let s := mine.foldl (fun s a => dropHolder a s) s
  { s with agents := kmap s.agents fun _ g => mapReset k g }

theorem cxlPortReset_next {s : State} {k : Nat} (hk : k < 8) (on : bit s.pwr.on 5 = true) :
    exec (.cxlPortReset k) s = .next (settle (endDoe k (resetPort k s))) := by
  rw [exec, execCxlPortReset, if_neg (by simp [portOk, hk]), if_neg (by simp [on])]
  rfl

theorem resetPort_link (k : Nat) (s : State) : Only linkFields (modPort k (portCleared (now s)) s) (resetPort k s) := by
  unfold resetPort
  simp only
  refine (agents_link _ _).linked ((linked_foldl (fun _ _ => dropHolder_link ..) _ _).linked ((resetStreams_link ..).linked ((resetCues_link ..).linked ?_)))
  refine Only.linked (t := (s.queues.filter fun p => p.1 != 0 && (portAgents s k).contains p.2.agent).map (·.1) |>.foldl
    (fun s y => resetQueue y s) (modPort k (portCleared (now s)) (dropRequests (portAgents s k) s))) ?admin ?queues
  case admin =>
    split
    · exact resetAdmin_link _
    · rfl
  case queues =>
    refine (linked_foldl (fun _ _ => resetQueue_link ..) _ _).linked ?_
    have kept := dropRequests_link (portAgents s k) s
    generalize dropRequests (portAgents s k) s = v at kept ⊢
    exact congrArg (modPort k (portCleared (now s))) kept

theorem putLd_bit {ld : Nat} (h : ld < 4) (old : BitVec 4) (b : Bool) : bit (putLd old ld b) ld = b := by
  unfold putLd
  cases b
  · have none : BitVec.ofNat 4 (b2n false * 2 ^ ld) = 0#4 := by simp [b2n]
    rw [none, BitVec.or_zero]
    exact bit_clear ..
  · have one : BitVec.ofNat 4 (b2n true * 2 ^ ld) = BitVec.ofNat 4 (2 ^ ld) := by simp [b2n]
    rw [one]
    exact bit_mark h _

/-- The class code, above the revision that no rule gives (R674). -/
theorem classCode (x : Word32) : ((0x05800000#32 &&& 0xFFFFFF00#32) ||| (x &&& ~~~0xFFFFFF00#32)).toNat / 256 = 0x058000 := by
  have shifted : ((0x05800000#32 &&& 0xFFFFFF00#32) ||| (x &&& ~~~0xFFFFFF00#32)) >>> 8 = 0x058000#32 := by
    rw [BitVec.ushiftRight_or_distrib, BitVec.ushiftRight_and_distrib]
    have gone : (~~~0xFFFFFF00#32) >>> 8 = 0#32 := by decide
    rw [BitVec.ushiftRight_and_distrib x, gone, BitVec.and_zero]
    decide
  have := congrArg BitVec.toNat shifted
  rw [BitVec.toNat_ushiftRight, Nat.shiftRight_eq_div_pow] at this
  exact this

/-- The state after IDE_CHECK_FAILURE of a stream. -/
def ideFailed (k : Nat) (cachemem : Bool) (s : State) : State :=
  let bad : IdeStream := { ideStream (port s k) cachemem with insecure := true, activeRx := none, activeTx := none }
  postEvent 7 0xFF (w64 (k * 256 + 2)) 0 (modPort k (fun p =>
    let p : Port := { p with perfIde := satInc p.perfIde }
    if cachemem then { p with ideMem := bad } else { p with ideIo := bad }) s)

theorem port_modPort_other {k j : Nat} (f : Port → Port) (s : State) (h : j ≠ k) : port (modPort k f s) j = port s j :=
  kgetD_kmodD_other _ _ _ _ h

/-- Settles O48: the reset by `resetPort_link`, each other row by its definition. -/
theorem portRowsComplete : Obligations.PortRowsComplete := by
  intro s k hk
  have ok : portOk k = true := by simp [portOk, hk]
  refine ⟨fun sp w on down train => ?linkUp, fun sp w up train => ?retrain, fun on => ?reset,
    fun ld reg w hld up ld4 r4 al => ⟨fun early => ?early, fun done read => ?read, fun v done write => ?write, fun v => ?master⟩,
    fun fresh done late => ?memory, fun cachemem up live => ?ide, fun h d up on => ?ptm, fun h d => ?ptmFails, fun valid late => ?ptmTimeout,
    fun ld n hld served => ⟨?doe, ?cdat⟩⟩
  case linkUp =>
    rw [exec, execCxlLinkUp, if_neg (by simp [ok]), if_neg (by simp [on, down, train])]
    simp only
    have here := port_modPort_same k (fun p => { p with linkUp := true, speed := BitVec.ofNat 3 sp, width := BitVec.ofNat 4 w }) s
    have others := fun (j : Nat) (h : j ≠ k) =>
      port_modPort_other (fun p => { p with linkUp := true, speed := BitVec.ofNat 3 sp, width := BitVec.ofNat 4 w }) s h
    split <;> exact ⟨_, rfl, here, others, rfl⟩
  case retrain =>
    rw [exec, execLinkRetrain, if_neg (by simp [ok]), if_neg (by simp [up, train])]
    rfl
  case reset =>
    have link := resetPort_link k s
    have settled := settle_only (endDoe k (resetPort k s))
    have ports : (settle (endDoe k (resetPort k s))).ports = (modPort k (portCleared (now s)) s).ports :=
      (settled.field State.ports rfl).trans (link.field State.ports rfl)
    have at_ (j : Nat) : port (settle (endDoe k (resetPort k s))) j = port (modPort k (portCleared (now s)) s) j :=
      congrArg (kgetD · j Port.fresh) ports
    have mine : port (settle (endDoe k (resetPort k s))) k = portCleared (now s) (port s k) := (at_ k).trans (port_modPort_same ..)
    refine ⟨_, cxlPortReset_next hk on, ?_, ?_, ?_, ?_, ?_, ?_, ?_, fun j h => (at_ j).trans (port_modPort_other _ _ h), fun x hx ld => ?_,
      (settled.field State.dev rfl).trans (link.field State.dev rfl), (settled.field fused rfl).trans (link.field fused rfl)⟩
    iterate 7 rw [mine]; rfl
    have sessions : (settle (endDoe k (resetPort k s))).sessions = (endDoe k (resetPort k s)).sessions := settled.field State.sessions rfl
    rw [sessions] at hx
    intro on_k
    have kept := (List.mem_filter.mp hx).2
    rw [on_k] at kept
    simp at kept
  case early =>
    simp only [exec, execConfigRequest]
    rw [if_neg (by simp [ok, ld4, r4, al]), if_neg (by simp [up, hld]), if_pos (by simp [early])]
  case read =>
    subst read
    refine ⟨(configValue k ld reg s).1, ?_, fun h => ?_, fun h => ?_⟩
    · simp only [exec, execConfigRequest]
      rw [if_neg (by simp [ok, ld4, r4, al]), if_neg (by simp [up, hld]), if_neg (by simp [done])]
    · rw [h]; rfl
    · rw [h]
      exact classCode _
  case write =>
    subst write
    simp only [exec, execConfigRequest]
    rw [if_neg (by simp [ok, ld4, r4, al]), if_neg (by simp [up, hld]), if_neg (by simp [done])]
  case master =>
    have here : port (configWrite k ld 4 v s) k = { port s k with busMaster := putLd (port s k).busMaster ld (bit v 2) } :=
      port_modPort_same ..
    rw [here]
    exact putLd_bit ld4 ..
  case memory =>
    rw [exec, execMemoryInfoValid, if_neg (by simp [ok]), if_neg (by simp [fresh, done, isLate, late])]
  case ide =>
    have run : exec (.ideCheckFailure k cachemem) s = .next (ideFailed k cachemem s) := by
      rw [exec, execIdeCheckFailure, if_neg (by simp [ok])]
      refine if_neg ?_
      rw [ideStream, Option.isSome_iff_ne_none] at live
      simp [up, live]
    refine ⟨_, run, ?_⟩
    have here := port_modPort_same k (fun p =>
      let bad : IdeStream := { ideStream (port s k) cachemem with insecure := true, activeRx := none, activeTx := none }
      let p : Port := { p with perfIde := satInc p.perfIde }
      if cachemem then { p with ideMem := bad } else { p with ideIo := bad }) s
    rw [ideFailed, postEvent_port, here]
    cases cachemem
    · exact ⟨rfl, rfl, rfl, rfl, bit_mark (by decide) _, rfl⟩
    · refine ⟨rfl, rfl, ?_, rfl, bit_mark (by decide) _, rfl⟩
      simp [portIde]
  case ptm =>
    have run := show exec (.ptmDialogue k true h d) s = execPtmDialogue k true h d s from rfl
    rw [execPtmDialogue, if_neg (by simp [ok]), if_neg (by simp [up, on])] at run
    refine ⟨_, run, ?_⟩
    rw [port_modPort_same]
    exact ⟨rfl, rfl, rfl, rfl⟩
  case ptmFails => rw [exec, execPtmDialogue, if_neg (by simp [ok]), if_pos (by simp)]
  case ptmTimeout => rw [exec, execPtmValidTimeout, if_neg (by simp [ok]), if_neg (by simp [valid, isLate, late])]
  case doe =>
    rw [exec, execDoeDiscovery, if_neg (by simp [ok, hld]), if_neg (by simp [served])]
    split
    · exact ⟨_, rfl⟩
    · exact ⟨_, rfl⟩
  case cdat =>
    rw [exec, execCdatRead, if_neg (by simp [ok, hld]), if_neg (by simp [served])]
    simp only
    split
    · exact ⟨_, rfl⟩
    · exact ⟨_, rfl⟩

end Sys2Proof.Machine
end

-- CXL memory.
section
/-!
PROOFS. O50: a page of a device whose health has FAILED in service (R811).
-/
namespace Sys2Proof.Machine
open Sys2Proof

/-- A sealed scene of company 0 with one page. -/
def onePage : Scene :=
  { company := 0, id := 1, parent := 0, model := 0, depth := 0, pages := [[]], sketches := [[]], pins := 0, lastUse := 0, putAt := 0,
    stage := [true], wings := [true], loft := [true], placed := none, retired := false, sealSeq := 0, recorded := true, slot := 0 }

/-- A view of it at the start of the company's range. -/
def pageView : Mapping := { company := 0, what := .scene 1, stage := false, offset := 0, size := 64 }

/-- A device in service whose health is FAILED, with that view. -/
def failedDevice : State :=
  { State.reset with
    dev := { State.reset.dev with curUp := true }
    health := { State.reset.health with cause := BitVec.allOnes 32 }
    store := { State.reset.store with companies := [(0, { Company.zero with unified := 64 })], scenes := [onePage], maps := [pageView] } }

theorem failedDevice_sealedWrites : (serveWrite 0 0 0 (List.replicate 64 0) none 0 failedDevice).perf2.sealedWrites.toNat = 0 := by
  decide +kernel

/-- Refutes O50: while a FAILED cause has CXL.mem writes dropped (R811), a write to a sealed page is not counted; the statement's last
part counts it in any state. -/
theorem not_memoryAccessesAreServed : ¬ Obligations.MemoryAccessesAreServed := by
  intro h
  obtain ⟨-, -, views⟩ := h failedDevice 0 0 .uncached (List.replicate 64 0) (by decide) (by decide) (by decide)
  obtain ⟨pages, -⟩ := views false 0 pageView (by decide) (by decide +kernel) (by decide +kernel)
  obtain ⟨-, -, counted⟩ := pages 1 0 0 onePage rfl (by decide +kernel)
  have none := failedDevice_sealedWrites
  have one := congrArg (fun t : State => t.perf2.sealedWrites.toNat) counted
  exact absurd (none.symm.trans one) (by decide +kernel)

end Sys2Proof.Machine
end

-- Sessions and management.
section
/-!
PROOFS. O52: the SPDM responder and IDE_KM (R788 to R791). O53: the fabric manager API, MCTP and PLDM (R679, R827, R889, R890).
-/
namespace Sys2Proof.Machine
open Sys2Proof

/-- A request whose negotiation has come far enough is carried out. -/
theorem spdmRow_go {s : State} {ep : Endpoint} {level : Nat} {go : State → State} (ok : epOk ep = true) (served : spdmServed s ep = true)
    (h : level ≤ spdmLevel s ep) : spdmRow ep level s go = .next (go s) := by
  rw [spdmRow, if_neg (by simp [ok]), if_neg (by simp [served]), if_neg (Nat.not_lt.mpr h)]

theorem spdmRow_unexpected {s : State} {ep : Endpoint} {level : Nat} {go : State → State} (ok : epOk ep = true)
    (served : spdmServed s ep = true) (h : spdmLevel s ep < level) : spdmRow ep level s go = .next (spdmError ep 4 s) := by
  rw [spdmRow, if_neg (by simp [ok]), if_neg (by simp [served]), if_pos h]

theorem ideRow_refused {s : State} {ep : Endpoint} {id code : Nat} {may : Nat → State → Bool} {go : Nat → State → State} (ok : epOk ep = true)
    (served : spdmServed s ep = true) (h : ideAllowed s ep id = none) : ideRow ep id code may go s = .next (emit (.ideKm ep code 4) s) := by
  rw [ideRow, if_neg (by simp [ok]), if_neg (by simp [served]), h]

theorem ideRow_go {s : State} {ep : Endpoint} {id code k : Nat} {may : Nat → State → Bool} {go : Nat → State → State} (ok : epOk ep = true)
    (served : spdmServed s ep = true) (h : ideAllowed s ep id = some k) (hm : may k s = true) :
    ideRow ep id code may go s = .next (emit (.ideKm ep code 0) (go k s)) := by
  rw [ideRow, if_neg (by simp [ok]), if_neg (by simp [served]), h]
  exact if_pos hm

/-- Settles O52: the form of an SPDM request and of an IDE_KM message, and what each then does. -/
theorem spdmRowsComplete : Obligations.SpdmRowsComplete := by
  intro s ep ok served
  simp only [exec, execGetVersion, execSpdmUnsupportedRequest, execGetCapabilities, execNegotiateAlgorithms, execChallenge, execGetDigests,
    execGetCertificate, execGetMeasurements, execKeyExchange, execFinish, execKeyUpdate, execEndSession, execIdeKmKeyProg, execKSetGo,
    execKSetStop]
  refine ⟨spdmRow_go ok served (Nat.zero_le _), fun code other => ?unsupported, fun h => spdmRow_go ok served h,
    fun base hash dhe aead h b7 h1 => ?negotiate, fun early slot nonce => ⟨spdmRow_unexpected ok served early, spdmRow_unexpected ok served early⟩,
    fun h => ⟨spdmRow_go ok served h, fun off n short => ?certificate, fun nonce => ?challenge, fun k nonce k1 k7 => ?measurements,
      fun id x new room => ?exchange, fun id x new full => ?noRoom, fun id v x found pending => ?finish,
      fun id op x found up op1 op3 => ?update, fun id x found up => ?finishSession⟩,
    fun id cm rx set key none => ⟨ideRow_refused ok served none, ideRow_refused ok served none, ideRow_refused ok served none⟩,
    fun id cm rx set key k some two => ⟨ideRow_go ok served some (decide_eq_true two), fun has => ideRow_go ok served some has,
      ideRow_go ok served some (decide_eq_true two)⟩⟩
  case unsupported =>
    rw [if_neg (by rw [other]; exact Bool.false_ne_true)]
    exact spdmRow_go ok served (Nat.zero_le _)
  case negotiate =>
    exact (spdmRow_go ok served h).trans (congrArg _ (if_neg (by simp [b7, h1])))
  case certificate =>
    exact (spdmRow_go ok served h).trans (congrArg _ (if_neg (by simpa using short)))
  case challenge => exact spdmRow_go ok served h
  case measurements =>
    refine (spdmRow_go ok served h).trans (congrArg _ ((if_neg ?_).trans ?_))
    · have : ¬ measureCount < k := by unfold measureCount; omega
      simp [this]
    · have k0 : (k == 0) = false := by simp; omega
      have kAll : (k == 0xFF) = false := by simp; omega
      simp only [k0, kAll]
      rfl
  case exchange =>
    have run := spdmRow_go (go := fun s =>
      if 0 != 0 || (findSession s ep id).isSome then spdmError ep 1 s
      else if sessionLimit ep ≤ (sessionsOf s ep).length then spdmError ep 0x0A s
      else reply ep 0x64 (withSign s ([id, (Config.dheShare s.free).toNat] ++ x.map (·.toNat)))
        { s with free := s.free + 1, sessions := s.sessions ++ [{ ep := ep, id := id, up := false, epoch := 0 }] }) ok served h
    simp only [new, if_neg (Nat.not_le.mpr room)] at run
    exact ⟨_, run, rfl, rfl⟩
  case noRoom =>
    exact (spdmRow_go ok served h).trans (congrArg _ ((if_neg (by simp [new])).trans (if_pos full)))
  case finish =>
    refine (spdmRow_go ok served h).trans (congrArg _ ?_)
    simp only [found]
    rw [if_neg (by simp [pending])]
  case update =>
    refine (spdmRow_go ok served h).trans (congrArg _ ?_)
    have o0 : (op == 0) = false := by simp; omega
    simp only [found]
    rw [if_neg (by simp [up, o0, op3])]
    simp only [beq_iff_eq]
  case finishSession =>
    exact (spdmRow_go ok served h).trans (congrArg _ (if_pos (by simp [found, up])))

/-! Management. -/

theorem fmRow_go {s : State} {k : Nat} {go : State → State} (hk : k < 8) (up : (port s k).linkUp = true) (mld : (port s k).actMld = true)
    (done : fuseDone s = true) : fmRow k s go = .next (go s) := by
  rw [fmRow, if_neg (by simp [portOk, hk]), if_neg (by simp [up, mld, done])]

theorem smbusRow_go {s : State} {go : State → State} (on : bit s.pwr.on 0 = true) : smbusRow s go = .next (go s) := if_pos on

/-- Settles O53: the form of each interface's requests, and what each then answers. -/
theorem managementRowsComplete : Obligations.ManagementRowsComplete := by
  intro s
  simp only [exec, execGetLdInfo, execGetLdAllocations, execGetQosControl, execGetQosStatus, execGetQosAllocatedBw, execGetQosBwLimit,
    execSetLdAllocations, execSetQosControl, execSetQosAllocatedBw, execSetQosBwLimit, fmRefuse, execSetEndpointId, execGetEndpointId,
    execGetMctpVersionSupport, execGetMessageTypeSupport, execSetEventReceiver, execPollForPlatformEventMessage, execPldmSensorRead,
    execPldmBaseRequest]
  refine ⟨fun k hk up mld done => ?fabric, fun on => ?smbus⟩
  case fabric =>
    have row {go : State → State} := fmRow_go (go := go) hk up mld done
    exact ⟨row, row, row, row, row, row, row, row, row, row⟩
  case smbus =>
    have row {go : State → State} := smbusRow_go (go := go) on
    refine ⟨fun e low high => ?taken, fun e bad => ?refused, row, fun ty known => ⟨(Config.freeWord s.free).toNat % 2 ^ 32, ?version⟩, row,
      fun r => row, fun none => ?quiet, fun e r waits => ?event, fun k v reads => ?sensor, rfl, rfl, row⟩
    case taken => exact row.trans (congrArg _ (if_neg (by simp [Nat.not_lt.mpr low]; bv_omega)))
    case refused => exact row.trans (congrArg _ (if_pos (by rcases bad with h | h <;> simp [h])))
    case version => exact row.trans (congrArg _ (if_pos (by
      simp only [List.mem_cons, List.not_mem_nil, or_false] at known
      rcases known with h | h | h | h <;> subst h <;> decide)))
    case quiet =>
      refine row.trans (congrArg _ ?_)
      simp only [none]
    case event =>
      refine row.trans (congrArg _ ?_)
      simp only [waits]
      rfl
    case sensor =>
      refine row.trans (congrArg _ ?_)
      simp only [reads, beq_iff_eq]

end Sys2Proof.Machine
end

-- Stagehand.
section
/-!
PROOFS. O54: packets of the peers (R726 to R741). O55: what STAGEHAND_SEND sends once waiting XFERs and ATOMICs have started (R747).
-/
namespace Sys2Proof.Machine
open Sys2Proof

/-! Packets. -/

section Packet
variable {s : State} {p : ShPacket}

theorem shRow_dropped (h : Arrives p s) (none : acceptedOn p s = none) (go : Nat → Conn → State → State) :
    shRow p s go = .next (countDrop s) := by
  rw [shRow, if_neg (by simp [frameOk, h.onPort]), if_neg (by simp [h.linked, h.unit, h.works]), none]

theorem shRow_go {k : Nat} {x : Conn} (h : Accepted p s k x) (go : Nat → Conn → State → State) : shRow p s go = .next (go k x s) := by
  rw [shRow, if_neg (by simp [frameOk, h.onPort]), if_neg (by simp [h.linked, h.unit, h.works]), h.taken]

theorem dataRow_again {k : Nat} {x : Conn} (h : Accepted p s k x) (d : Duplicate p x) (go : Nat → Conn → State → State) :
    dataRow p s go = .next (sendAck k (heardFrom k p s)) := by
  have open_ : (x.state == 2 || (x.state == 1 && x.syncSeen)) = true := d.open_
  rw [dataRow, shRow_go h, if_neg (by simp [open_])]
  refine congrArg _ (if_pos ?_)
  rcases d.again with e | e | e
  · rw [decide_eq_true e]; rfl
  · rw [e]; simp
  · rw [e]; simp

theorem dataRow_new {k : Nat} {x : Conn} (h : Accepted p s k x) (d : NewData p x) (go : Nat → Conn → State → State) :
    dataRow p s go = .next (go k x (dma x.entry.agent p.payload.length (heardFrom k p s))) := by
  have open_ : (x.state == 2 || (x.state == 1 && x.syncSeen)) = true := d.open_
  have near := d.inRange
  rw [dataRow, shRow_go h, if_neg (by simp [open_])]
  refine congrArg _ ((if_neg ?_).trans (if_neg (Nat.not_le.mpr near)))
  rw [d.unseen, d.unheld]
  simp
  omega

theorem acceptedOn_conn {k : Nat} {x : Conn} (h : acceptedOn p s = some (k, x)) : conn s k = some x := by
  unfold acceptedOn at h
  simp only at h
  split at h
  · cases h
  · next y hy =>
    split at h
    · cases h; exact hy
    · cases h

end Packet

/-- Every packet's row has the one form, and a data packet's the narrower one. -/
theorem packetRows_form {p : ShPacket} {i : Instr} (h : i ∈ packetRows p) : ∃ go, ∀ s, exec i s = shRow p s go := by
  simp only [packetRows, dataRows, List.cons_append, List.nil_append, List.mem_cons, List.not_mem_nil, or_false] at h
  rcases h with rfl | rfl | rfl | rfl | rfl | rfl | rfl | rfl | rfl | rfl <;>
    simp only [exec, execShWrite, execReadReq, execReadResp, execAtomicAdd, execAtomicCas, inboundAtomic, execAtomicResp, execNak, execAck,
      execSync, execSyncAck, dataRow] <;> exact ⟨_, fun _ => rfl⟩

theorem dataRows_form {p : ShPacket} {i : Instr} (h : i ∈ dataRows p) : ∃ go, ∀ s, exec i s = dataRow p s go := by
  simp only [dataRows, List.mem_cons, List.not_mem_nil, or_false] at h
  rcases h with rfl | rfl | rfl | rfl | rfl | rfl | rfl <;>
    simp only [exec, execShWrite, execReadReq, execReadResp, execAtomicAdd, execAtomicCas, inboundAtomic, execAtomicResp, execNak] <;>
    exact ⟨_, fun _ => rfl⟩

theorem conn_modConn (k : Nat) (f : Conn → Conn) (s : State) : conn (modConn k f s) k = (conn s k).map f := kget_kmod_same ..

theorem swapped_word (hit : Bool) (new old : Word64) : (if hit then (new, true) else (old, false)).1 = if hit then new else old := by
  cases hit <;> rfl

theorem swapped_bit (hit : Bool) (new old : Word64) :
    BitVec.ofNat 8 (b2n (if hit then (new, true) else (old, false)).2) = if hit then 1 else 0 := by
  cases hit <;> rfl

/-- A SYNCING connection that has taken a SYNC is SYNCING still. -/
theorem sync_conn {k : Nat} {x : Conn} {s : State} {p : ShPacket} (h : conn s k = some x) (syncing : x.state = 1) :
    ∃ y, conn (heardFrom k p (takeSync k p (wakeConn k s))) k = some y ∧ y.state = 1 := by
  have awake : conn (wakeConn k s) k = some x := by
    rw [wakeConn, conn_modConn, h]
    exact congrArg some (if_neg (by simp [syncing]))
  rw [heardFrom, conn_modConn, takeSync, conn_modConn, awake]
  refine ⟨_, rfl, ?_⟩
  by_cases seen : x.syncSeen = true
  · simp [seen, syncing]
  · simp [seen, syncing]

/-- Settles O54: the forms of a packet's row, and what each opcode then does. -/
theorem packetsActOnTheirConnection : Obligations.PacketsActOnTheirConnection := by
  intro s p
  refine ⟨fun arr none i hi => ?dropped, fun k x acc dup i hi => ?again, fun k x acc new => ?new, fun k x acc => ?control⟩
  case dropped =>
    obtain ⟨go, form⟩ := packetRows_form hi
    exact (form s).trans (shRow_dropped arr none go)
  case again =>
    obtain ⟨go, form⟩ := dataRows_form hi
    exact (form s).trans (dataRow_again acc dup go)
  case new =>
    intro s1 base off
    have row (go : Nat → Conn → State → State) := dataRow_new acc new go
    simp only [exec, execShWrite, execReadReq, execReadResp, execAtomicAdd, execAtomicCas, inboundAtomic, execAtomicResp, execNak]
    refine ⟨fun m old going agrees => ?placed, fun none agrees room start reach => ?first, fun none agrees room far => ?refused,
      fun p8 o0 len most room reach region => ?read, fun none => ?unknown, fun o own agrees len at_ => ?landed, fun o own agrees len at_ => ?astray,
      fun p8 l8 o0 region al reach => ?add, fun p16 l8 o0 region al reach => ?cas, fun o seq own owner => ?answered, fun o own => ?refusal⟩
    case placed =>
      refine (row _).trans (congrArg _ ?_)
      simp only [old]
      exact (if_neg (by simp [going])).trans ((if_neg (Bool.eq_false_iff.mp agrees)).trans ((if_neg (by simp)).trans (if_neg (by simp))))
    case first =>
      have inside : ¬ (decide (p.remote.toNat % 2 ^ 62 < p.offset.toNat) || !mayReach s1 x 2 base p.length.toNat) = true := by
        rw [reach, decide_eq_false (Nat.not_lt.mpr start)]
        decide
      refine (row _).trans (congrArg _ ?_)
      simp only [none]
      exact (if_neg (by simp)).trans ((if_neg (Bool.eq_false_iff.mp agrees)).trans ((if_neg (by simp [room])).trans (if_neg inside)))
    case refused =>
      have outside : (decide (p.remote.toNat % 2 ^ 62 < p.offset.toNat) || !mayReach s1 x 2 base p.length.toNat) = true := by
        rw [far]
        simp
      refine (row _).trans (congrArg _ ?_)
      simp only [none]
      exact (if_neg (by simp)).trans ((if_neg (Bool.eq_false_iff.mp agrees)).trans ((if_neg (by simp [room])).trans (if_pos outside)))
    case read =>
      have n0 : ¬ p.length.toNat = 0 := fun h => len (BitVec.eq_of_toNat_eq h)
      refine (row _).trans (congrArg _ ?_)
      refine (if_neg (by simp [p8, o0, n0, most])).trans ((if_neg (Nat.not_le.mpr room)).trans ((if_neg ?_).trans ?_))
      · rw [show mayReach _ x 1 p.remote.toNat p.length.toNat = true from reach]
        decide
      · refine congrArg (shContinue _) (if_neg ?_)
        rw [region]
        decide
    case unknown =>
      refine (row _).trans (congrArg _ ?_)
      simp only [none]
      rfl
    case landed =>
      refine (row _).trans (congrArg _ ?_)
      simp only [own]
      refine (if_neg ?_).trans ((if_neg ?_).trans ?_)
      · rw [show disagrees p _ _ = false from agrees, len]
        simp
      · rw [show (base != o.land.2.2) = false by simp [at_]]
        exact Bool.false_ne_true
      · rfl
    case astray =>
      refine (row _).trans (congrArg _ ?_)
      simp only [own]
      refine (if_neg ?_).trans (if_pos ?_)
      · rw [show disagrees p _ _ = false from agrees, len]
        simp
      · exact bne_iff_ne.mpr at_
    case add =>
      refine (row _).trans (congrArg _ ?_)
      refine (if_neg (by simp [p8, l8, o0])).trans ((if_neg ?_).trans rfl)
      rw [region, show (off % 8 != 0) = false by simp [al], show mayReach _ x 4 p.remote.toNat 8 = true from reach]
      decide
    case cas =>
      refine (row _).trans (congrArg _ ?_)
      refine (if_neg (by simp [p16, l8, o0])).trans ((if_neg ?_).trans ?_)
      · rw [region, show (off % 8 != 0) = false by simp [al], show mayReach _ x 4 p.remote.toNat 8 = true from reach]
        decide
      · rw [swapped_word, swapped_bit]
    case answered =>
      intro found
      refine (row _).trans (congrArg _ ?_)
      simp only [own, owner]
      exact if_pos found
    case refusal =>
      refine (row _).trans (congrArg _ ?_)
      simp only [own]
      rfl
  case control =>
    have row (go : Nat → Conn → State → State) := shRow_go acc go
    simp only [exec, execAck, execSyncAck, execSync]
    refine ⟨fun up p40 => ?ack, fun syncing p8 => ?syncAck, fun syncing p8 => ?sync⟩
    case ack =>
      refine ⟨_, _, (row _).trans (congrArg _ (if_neg (by simp [up, p40]))), fun q hq => ?_⟩
      have left := (List.mem_filter.mp hq).1
      obtain ⟨sent, uncovered⟩ := List.mem_filter.mp left
      exact ⟨sent, by simpa using uncovered⟩
    case syncAck => exact (row _).trans (congrArg _ ((if_neg (by simp [p8])).trans (if_neg (by simp [syncing]))))
    case sync =>
      obtain ⟨y, hy, state⟩ := sync_conn (p := p) (acceptedOn_conn acc.taken) syncing
      refine ⟨y, hy, (row _).trans (congrArg _ ((if_neg (by simp [p8])).trans ?_))⟩
      rw [if_neg (by simp [syncing])]
      simp only [hy, state]
      rfl

/-! What STAGEHAND_SEND starts first (R747). -/

/-- An ATOMIC that waits for its message. -/
def waitingAtomic : NetOp :=
  { seq := 1, conn := 0, atomic := true, op := 0, msg := none, since := 0, length := 8, done := 0, local_ := (0, 0, 0), remote := 0,
    data := [], w3 := 0, w4 := 0 }

/-- A message of which a byte is still to be sent. -/
def unsentMessage : OutMsg :=
  { msgId := 7, opcode := 1, remote := 0, data := [0], length := 1, sent := 0, owner := none, item := 0, land := (0, 0, 0), got := 0,
    chunk := 0, stride := 0, psize := [] }

/-- An UP connection with that message. -/
def busyConn : Conn :=
  { restartConn State.reset 0 { connId := 0, ports := 0, peerConn := 0, ipv6 := false, arrive := false, peerPort := 0, win := 0, agent := 0,
                                counter := 0, peerIp := 0 } with
    state := 2, outMsgs := [unsentMessage] }

/-- A device with that connection, and the ATOMIC waiting on it. -/
def busySender : State :=
  { State.reset with conns := [(0, busyConn)], work := { State.reset.work with nets := [waitingAtomic] } }

/-- Messages started so far, after a step that goes on. -/
def startedAfter (r : Res) : Option (List (Option Nat)) :=
  match r with
  | .next t => some (t.work.nets.map (·.msg))
  | _ => none

theorem busySender_starts : startedAfter (exec (.stagehandSend 0) busySender) = some [some 0] := by decide +kernel

/-- Refutes O55: STAGEHAND_SEND first starts the XFERs and ATOMICs that may start (R747). With an ATOMIC waiting, the state it leaves is
not that of `sendNext` alone, which the statement names. -/
theorem not_stagehandTimersAct : ¬ Obligations.StagehandTimersAct := by
  intro h
  obtain ⟨-, onConn, -⟩ := h busySender 0
  obtain ⟨-, -, next, -⟩ := onConn busyConn rfl
  have sent := next rfl rfl rfl unsentMessage (by decide)
  have started := busySender_starts
  rw [sent] at started
  revert started
  decide +kernel

end Sys2Proof.Machine
end

-- Delivery events and rule changes.
section
/-!
PROOFS. O56: cutoffs, staging, allotments and scoring batches (R234, R311, R327, R330, R369, R380, R422, R642). O57: the switch of a rule
table, its grace and its drain (R599, R776 to R782).
-/
namespace Sys2Proof.Machine
open Sys2Proof

/-! Allotments. -/

section Allot
variable {s : State} {c a : Nat} {op : AttOp} {t : Taken} (hc : c < 160) (next : nextAllot s = some (op, a))
  (found : s.taken.find? (·.seq == op.seq) = some t) (free : allotFree s c t.company = true)
include hc next found free

theorem allotmentDispatch_whole (whole : op.split = false) :
    let row := rowD op.rows (a / blocksOf (modelD s op.model) op)
    exec (.allotmentDispatch c) s = .next (progressAtt op.seq (modAtt op.seq
      (fun o => { o with todo := o.todo.tail, active := o.active ++ [(c, a)] })
      (translate row.mode (c / 10) t.company
        ((keptPages op (a / blocksOf (modelD s op.model) op)).map (rowScene row)) (holdAllot c t.company s)))) := by
  simp only [exec, execAllotmentDispatch, next, found]
  rw [if_neg (Nat.not_le.mpr hc), if_neg (by simp [free]), if_neg (by simp [whole])]
  simp only [whole]
  rfl

/-- In split-head mode a free value names the partner, one of the clusters that may take an allotment too. -/
theorem allotmentDispatch_split (split : op.split = true) (some_left : partners s c t.company ≠ []) :
    let row := rowD op.rows (a / blocksOf (modelD s op.model) op)
    ∃ d ∈ partners s c t.company, exec (.allotmentDispatch c) s = .next (progressAtt op.seq (modAtt op.seq
      (fun o => { o with todo := o.todo.tail, active := o.active ++ [(c, a), (d, a)] })
      (translate row.mode (c / 10) t.company
        ((keptPages op (a / blocksOf (modelD s op.model) op)).map (rowScene row))
        (holdAllot d t.company (holdAllot c t.company { s with free := s.free + 1 }))))) := by
  intro row
  have inside : (Config.freeWord s.free).toNat % (partners s c t.company).length < (partners s c t.company).length :=
    Nat.mod_lt _ (List.length_pos_iff.mpr some_left)
  refine ⟨(partners s c t.company).getD ((Config.freeWord s.free).toNat % (partners s c t.company).length) 0, ?_, ?_⟩
  · rw [List.getD_eq_getElem?_getD, List.getElem?_eq_getElem inside, Option.getD_some]
    exact List.getElem_mem inside
  · simp only [exec, execAllotmentDispatch, next, found]
    rw [if_neg (Nat.not_le.mpr hc), if_neg (by simp [free]), if_neg (by simp [some_left])]
    simp only [split]
    rfl

end Allot

/-- Settles O56: the row of each event by its definition, once what it names is found. -/
theorem deliveryEventsAct : Obligations.DeliveryEventsAct := by
  intro s r
  refine ⟨fun t op running found => ⟨fun quiet due => ?notBefore, fun mode open_ due => ?cutoff⟩, fun t op running found mode open_ due => ?attend,
    fun t running => ?slot, fun t op j running found mode layer unsent kept due => ?layer, fun c what waits => ?staging,
    fun g bytes allocated => ?land, fun c op a t hc next found free whole => allotmentDispatch_whole hc next found free whole,
    fun c op a t hc next found free split some_left => allotmentDispatch_split hc next found free split some_left,
    fun t o unread on running found => ?batch⟩
  case notBefore =>
    simp only [exec, execCueNotBefore, running, Option.bind_some, found]
    rw [if_neg (by simp [quiet, due])]
  case cutoff =>
    simp only [exec, execCueCutoff, running, found]
    rw [if_neg (by simp [mode, open_, Nat.not_lt.mpr due])]
  case attend =>
    simp only [exec, execAttendCutoff, running, found]
    rw [if_neg (by simp [mode, open_, Nat.not_lt.mpr due])]
  case slot => simp only [exec, execWeightsSlotFree, running]
  case layer =>
    simp only [exec, execWeightsLayerCutoff, running, found]
    rw [if_neg]
    rw [mode, unsent, kept, decide_eq_false (Nat.not_le.mpr layer), decide_eq_false (Nat.not_lt.mpr due)]
    decide
  case staging =>
    obtain ⟨g, mem, company, page, ended⟩ := waits
    simp only [exec, execStagingComplete]
    have some_here : (s.work.staging.filter fun g => g.company == c && g.what == what && g.ended.isSome).isEmpty = false := by
      rw [List.isEmpty_eq_false_iff_exists_mem]
      exact ⟨g, List.mem_filter.mpr ⟨mem, by simp [company, page, ended]⟩⟩
    rw [some_here]
    rfl
  case land =>
    simp only [landCopy]
    rw [if_neg (by simp [bytes]), if_pos allocated]
  case batch =>
    intro y
    have row : exec (.scoringBatchComplete r unread) s = if y.1.scores.length < pageCount y.1.rows then
        .next (modWork (fun w => { w with sketches := w.sketches.map fun z =>
          if z.seq == o.seq then { z with scores := y.1.scores } else z }) y.2)
      else .next (finish t (okWith (w64 y.1.scores.length) 0 0) (toHost t o.addr (y.1.scores.flatMap fun v => leBytes 2 v.toNat)
        (modWork (fun w => { w with sketches := w.sketches.filter (·.seq != o.seq) }) y.2))) := by
      simp only [exec, execScoringBatchComplete, running, found, Option.bind_some, Option.map_some]
      rw [if_neg (by simp [pd6Off, on])]
    exact ⟨fun more => row.trans (if_pos more), fun all => row.trans (if_neg (Nat.not_lt.mpr all))⟩

/-! Rule changes. -/

/-- What the turn of a COMPANY_RULES does: its last checks, and the switch. -/
def switchTurn (t : Taken) (o : RulesOp) (s : State) : State :=
  match firstOf [
      (if (companyOf s o.company).isNone then some (badAt 10 0) else none),
      (if connsOver s o.company o.table then some (status 0x302) else none),
      (if ((companyOf s o.company).map (·.ruleLock)).getD false then some (status 0x204) else none)] with
  | some c => finish t c (dropRules t.seq s)
  | none => switchRules t o s

theorem rulesSwitch_next {s : State} {r : CmdRef} {t : Taken} {o : RulesOp} (running : findRunning 0x0A r s = some t)
    (found : s.work.rules.find? (fun o => o.seq == t.seq && !o.switched) = some o)
    (turn : ∀ u ∈ s.taken, u.opcode = 0x0A → u.company = t.company → t.seq ≤ u.seq) :
    exec (.rulesSwitch r) s = .next (switchTurn t o s) := by
  have first : ¬ (s.taken.any fun u => u.opcode == 0x0A && u.company == t.company && decide (u.seq < t.seq)) = true := by
    rw [List.any_eq_true]
    rintro ⟨u, mem, earlier⟩
    simp only [Bool.and_eq_true, beq_iff_eq, decide_eq_true_eq] at earlier
    obtain ⟨⟨opcode, company⟩, before⟩ := earlier
    exact absurd before (Nat.not_lt.mpr (turn u mem opcode company))
  simp only [exec, execRulesSwitch, running, found]
  exact if_neg first

/-- The new table is in force and the epoch one on; the record and the queues shut leave the company as it is. -/
theorem companyOf_switchRules (t : Taken) {o : RulesOp} {s : State} (grace : o.table.graceMs ≠ 0) :
    companyOf (switchRules t o s) o.company = (companyOf s o.company).map fun k =>
      { k with table := o.table, epoch := k.epoch + 1, ruleLock := k.ruleLock || o.table.lock } := by
  simp only [switchRules]
  rw [if_neg (by simpa using grace)]
  exact kget_kmod_same ..

/-- Settles O57: the turn of a switch by its last checks, the rows of grace and drain by their definitions. -/
theorem rulesChangeInTurn : Obligations.RulesChangeInTurn := by
  intro s
  refine ⟨fun r t o running found turn => ?switch, fun t o k known grace => ?inForce, fun c o found due => ?grace,
    fun r t o running found drained => ?drain⟩
  case switch =>
    have row := rulesSwitch_next running found turn
    refine ⟨fun gone => ?_, fun k known over_ => ?_, fun k known room lock => ?_, fun k known room free => ?_⟩
    · rw [row, switchTurn, gone]; rfl
    · rw [row, switchTurn, known, over_]; rfl
    · rw [row, switchTurn, known, room, Option.map_some, lock]; rfl
    · rw [row, switchTurn, known, room, Option.map_some, free]; rfl
  case inForce =>
    exact ⟨_, (companyOf_switchRules t grace).trans (congrArg _ known), rfl, rfl, rfl⟩
  case grace =>
    simp only [exec, execRulesGraceExpiry, found]
    rw [if_neg (Nat.not_lt.mpr due)]
  case drain =>
    simp only [exec, execRulesDrainComplete, running, found]
    rw [if_neg (by simp [drained])]

end Sys2Proof.Machine
end

-- The Loft medium: its operations and its background work.
section
/-!
PROOFS. O58: programs, erases, stripe closes, journal records and reads of the Loft (R188, R190, R221, R259 to R262, R276 to R279, R285).
O59: its background work and the failures of its dies (R266 to R274, R291 to R293, R297).
-/
namespace Sys2Proof.Machine
open Sys2Proof

/-! Units of a stripe. -/

@[simp] theorem updateWear_stripes (s : State) : (updateWear s).loft.stripes = s.loft.stripes := rfl

@[simp] theorem countWritten_stripes (n : Nat) (s : State) : (countWritten n s).loft.stripes = s.loft.stripes := by
  unfold countWritten
  split <;> rfl

theorem unitOf_member {p : Stripe} {m : Nat} {u : LUnit} (h : unitOf p m = some u) : u.member = m := by
  simpa using List.find?_some h

/-- A change of one unit that keeps its member number reaches that unit alone. -/
theorem unitOf_changed (p : Stripe) (m : Nat) (f : LUnit → LUnit) (keeps : ∀ u, (f u).member = u.member) :
    unitOf { p with units := p.units.map fun u => if u.member == m then f u else u } m = (unitOf p m).map f := by
  have same : (fun u : LUnit => u.member == m) ∘ (fun u => if u.member == m then f u else u) = fun u => u.member == m := by
    funext u
    by_cases h : u.member = m <;> simp [h, keeps]
  unfold unitOf
  rw [List.find?_map, same]
  cases found : p.units.find? (fun u => u.member == m) with
  | none => rfl
  | some u => simp [unitOf_member (p := p) found]

/-- The unit whose program has ended stands done on the die's target blocks, with the data it had. -/
theorem landUnit_done (d : Nat) {k m : Nat} (r : Bool) {s : State} {p : Stripe} {u : LUnit} (stripe : kget s.loft.stripes k = some p)
    (unit : unitOf p m = some u) :
    ∃ q, kget (landUnit d k m r s).loft.stripes k = some q ∧ ∃ v, unitOf q m = some v ∧ v.st = .done ∧
      v.blocks = targetBlocks s d r ∧ v.data = u.data ∧ v.spans = u.spans := by
  let done : LUnit → LUnit := fun u => { u with st := .done, blocks := (takeLine d r s).1, line := (takeLine d r s).2.1 }
  refine ⟨{ p with units := p.units.map fun u => if u.member == m then done u else u }, ?_, done u, ?_, rfl, rfl, rfl, rfl⟩
  · have taken : kget (takeLine d r s).2.2.loft.stripes k = some p := stripe
    simp only [landUnit, countWritten_stripes, modUnit, modStripe, modLoft, kget_kmod_same, taken]
    rfl
  · exact (unitOf_changed p m done fun _ => rfl).trans (congrArg _ unit)

/-! Blocks. -/

theorem blk_modBlk_same (d b : Nat) (f : Blk → Blk) (s : State) : blk (die (modBlk d b f s) d) b = f (blk (die s d) b) := by
  simp only [modBlk, modDie, die, blk, kgetD_kmodD_same]

theorem blk_blockErased (d b : Nat) (s : State) : blk (die (blockErased d b s) d) b
    = { blk (die s d) b with pe := (blk (die s d) b).pe + 1, used := 0, reads := 0, moving := false } :=
  blk_modBlk_same d b _ s

/-! The rows. -/

/-- Settles O58: each row by its definition, once its guard holds. -/
theorem loftOperationsComplete : Obligations.LoftOperationsComplete := by
  intro s on
  refine ⟨fun u open_ first => ?writeBack, fun o k m hd hb works going => ⟨fun op => ⟨fun good => ?program, fun bad block => ?badProgram⟩,
      fun op good => ?rebuilt⟩,
    fun d k m r p u stripe unit => landUnit_done d r stripe unit,
    fun d b hd hb works op going held => ⟨?erased, ?badErase, blk_blockErased d b s⟩,
    fun h k p hh opened stripe units due => ?close, fun running => ?journal, fun free up due => ⟨?checkpoint, rfl⟩,
    fun c what o g found bytes => ⟨fun read => ?copy, fun failed above => ?fromAbove, fun failed bare kept => ?lost⟩⟩
  case writeBack =>
    rw [exec, execWriteBackStart, if_neg (by simp only [on, beq_false_of_ne open_]; decide), first, Option.getD_some]
  case program =>
    simp only [exec, execLoftProgramComplete, op]
    rw [if_neg (by simp [dieOk, blockOk, hd, hb]), if_neg (by simp [on, works, going]), if_neg (by simp [good])]
  case badProgram =>
    simp only [exec, execLoftProgramComplete, op]
    rw [if_neg (by simp [dieOk, blockOk, hd, hb]), if_neg (by simp [on, works, going]), if_pos bad, if_neg (by simpa using block)]
  case rebuilt =>
    simp only [exec, execLoftProgramComplete, op]
    rw [if_neg (by simp [dieOk, blockOk, hd, hb]), if_neg (by simp [on, works, going]), if_neg (by simp [good])]
  case erased =>
    rw [exec, execLoftEraseComplete, if_neg (by simp [dieOk, blockOk, hd, hb]), if_neg (by simp [on, works, op, going, held])]
    rfl
  case badErase =>
    rw [exec, execLoftEraseComplete, if_neg (by simp [dieOk, blockOk, hd, hb]), if_neg (by simp [on, works, op, going, held])]
    rfl
  case close =>
    simp only [exec, execStripeCloseTimer, opened, Option.bind_some, stripe, Option.map_some]
    rw [if_neg (Nat.not_le.mpr hh), if_neg (by simp [on, units, Nat.not_lt.mpr due])]
  case journal =>
    rw [exec, execJournalRecordComplete, if_neg (by simp [on, running])]
  case checkpoint =>
    rw [exec, execIndexCheckpoint, if_neg (by simp [on, free, up]), if_pos (by simpa using due)]
  case copy =>
    simp only [exec, execLoftReadComplete, found]
    rw [if_neg (by simpa using bytes), if_pos (by simpa using read)]
  case fromAbove =>
    simp only [exec, execLoftReadComplete, found]
    rw [if_neg (by simpa using bytes), if_neg (by simp [failed]), if_pos above]
  case lost =>
    simp only [exec, execLoftReadComplete, found]
    rw [if_neg (by simpa using bytes), if_neg (by simp [failed]), if_neg (by simp [bare]), if_neg (by simp [kept])]

/-! What a die's blocks keep. -/

/-- Every die of the first state is in the second with its blocks as they were. -/
def BlocksKept (r s : State) : Prop :=
  ∀ d x, kget r.loft.dies d = some x → ∃ y, kget s.loft.dies d = some y ∧ y.blocks = x.blocks

theorem BlocksKept.of_dies {r s : State} (h : s.loft.dies = r.loft.dies) : BlocksKept r s := fun _ x hx => ⟨x, h ▸ hx, rfl⟩

theorem BlocksKept.refl (s : State) : BlocksKept s s := .of_dies rfl

theorem BlocksKept.trans {r s u : State} (h : BlocksKept r s) (k : BlocksKept s u) : BlocksKept r u := fun d x hx => by
  obtain ⟨y, hy, first⟩ := h d x hx
  obtain ⟨z, hz, second⟩ := k d y hy
  exact ⟨z, hz, second.trans first⟩

theorem BlocksKept.modDie (d : Nat) {f : Die → Die} (keeps : ∀ x, (f x).blocks = x.blocks) (s : State) :
    BlocksKept s (modDie d f s) := fun j x hx => by
  by_cases h : j = d
  · subst h
    exact ⟨f x, by simp [Machine.modDie, kmodD, kgetD, hx], keeps x⟩
  · exact ⟨x, (kget_kset_other _ _ h).trans hx, rfl⟩

theorem BlocksKept.foldl {α : Type} {f : State → α → State} (h : ∀ s x, BlocksKept s (f s x)) (l : List α) (s : State) :
    BlocksKept s (l.foldl f s) := by
  induction l generalizing s with
  | nil => exact .refl s
  | cons x l ih => exact (h s x).trans (ih (f s x))

theorem noteIdle_blocks (t : Nat) (x : Die) : (noteIdle t x).blocks = x.blocks := by
  unfold noteIdle
  split <;> rfl

/-! Work on the dies that leaves the blocks as they are. -/

theorem foldl_dies {α : Type} {f : State → α → State} (h : ∀ s x, (f s x).loft.dies = s.loft.dies) (l : List α) (s : State) :
    (l.foldl f s).loft.dies = s.loft.dies := by
  induction l generalizing s with
  | nil => rfl
  | cons x l ih => exact (ih (f s x)).trans (h s x)

@[simp] theorem handOver_dies (s : State) : (handOver s).loft.dies = s.loft.dies := by
  unfold handOver
  split
  · rfl
  · refine foldl_dies (fun s q => ?_) _ _
    split <;> rfl

theorem closeIfFull_dies (k : Nat) (s : State) : (closeIfFull k s).loft.dies = s.loft.dies := by
  unfold closeIfFull
  split
  · split <;> rfl
  · rfl

theorem placeFoot_dies {s t : State} {f : Foot} (h : placeFoot s f = some t) : t.loft.dies = s.loft.dies := by
  unfold placeFoot at h
  simp only at h
  split at h
  · simp at h
  · split at h
    · simp at h
    · split at h
      · simp at h
      · cases h
        exact (closeIfFull_dies ..).trans (by rfl)

theorem openStripeFor_dies {s t : State} {h : Nat} (opens : openStripeFor s h = some t) : t.loft.dies = s.loft.dies := by
  unfold openStripeFor at opens
  split at opens
  · simp at opens
  · split at opens
    · simp at opens
    · simp only at opens
      split at opens
      · simp at opens
      · split at opens
        · simp at opens
        · cases opens; rfl

@[simp] theorem placeFeet_dies (n : Nat) (s : State) : (placeFeet n s).loft.dies = s.loft.dies := by
  induction n generalizing s with
  | zero => rfl
  | succ n ih =>
    rw [placeFeet]
    split
    · next t found =>
      obtain ⟨f, -, placed⟩ := List.exists_of_findSome?_eq_some found
      rw [ih, handOver_dies, placeFoot_dies placed]
    · split
      · next t found =>
        obtain ⟨h, -, opened⟩ := List.exists_of_findSome?_eq_some found
        rw [ih, openStripeFor_dies opened]
      · rfl

@[simp] theorem feedRebuild_dies (s : State) : (feedRebuild s).loft.dies = s.loft.dies := by
  unfold feedRebuild
  split
  · rfl
  · refine foldl_dies (fun s r => ?_) _ _
    split
    · rfl
    · split <;> rfl

/-- A die takes a next operation. -/
theorem begin_keeps {t : State} (d : Nat) (o : DieOp) {s : State} (same : t.loft.dies = s.loft.dies) :
    BlocksKept s (modDie d (fun x => noteIdle (now t) { x with op := some o, suspends := 0, suspended := false, duskHeld := false }) t) := by
  refine (BlocksKept.of_dies same).trans (.modDie d (fun x => ?_) t)
  exact noteIdle_blocks ..

theorem kick_keeps (d : Nat) (s : State) : BlocksKept s (kick d s) := by
  unfold kick
  simp only
  split
  · exact .refl s
  · split
    · next t program =>
      split at program
      · cases program
      · split at program
        · split at program
          · cases program
          · cases program
            exact begin_keeps d _ rfl
        · split at program
          · split at program
            · cases program
            · cases program
              exact begin_keeps d _ rfl
          · cases program
    · split
      · split
        · exact .refl s
        · exact begin_keeps d _ rfl
      · exact .refl s

theorem pump_keeps (s : State) : BlocksKept s (pump s) := by
  have placed : (feedRebuild (handOver (placeFeet (feetFuel s) (handOver s)))).loft.dies = s.loft.dies := by
    rw [feedRebuild_dies, handOver_dies, placeFeet_dies, handOver_dies]
  exact (BlocksKept.of_dies placed).trans (.foldl (fun s d => kick_keeps d s) _ _)

theorem startItem_keeps (kind : ItemKind) (company : Nat) (scene : Option SceneId) (set size : Nat)
    (l : List (LoftObj × Nat × List Byte)) (s : State) : BlocksKept s (startItem kind company scene set size l s) := by
  unfold startItem
  exact BlocksKept.trans (.of_dies (by rfl)) (pump_keeps _)

theorem moveData_keeps (d b : Nat) (s : State) : BlocksKept s (moveData d b s) :=
  .foldl (fun s _ => startItem_keeps _ _ _ _ _ _ s) _ _

theorem eraseLater_keeps (d b : Nat) (s : State) :
    BlocksKept s (modDie d (fun x => if x.erases.contains b then x else { x with erases := x.erases ++ [b] }) s) :=
  .modDie d (fun x => by split <;> rfl) s

theorem dropStale_keeps (s : State) : BlocksKept s (dropStale s) := by
  unfold dropStale
  simp only
  exact BlocksKept.trans (.of_dies (by rfl)) (.foldl (fun s (p : Nat × Die) => .foldl (fun s (q : Nat × Blk) => eraseLater_keeps p.1 q.1 s) _ s) _ _)

/-- The state in which `relocate` moves a block's data: the block is marked, and no longer open. -/
def markMoving (d b : Nat) (s : State) : State :=
  modDie d (fun x => { x with
    open_ := if x.open_.contains b then [] else x.open_, blocks := kmodD x.blocks b Blk.fresh fun y => { y with moving := true } }) s

/-- A relocation marks its block. -/
theorem relocate_marks {d b : Nat} {s : State} (rests : (blk (die s d) b).moving = false) :
    ∃ x, kget (relocate d b s).loft.dies d = some x ∧ (blk x b).moving = true := by
  unfold relocate
  rw [if_neg (by simp [rests])]
  obtain ⟨x, present, blocks⟩ := (moveData_keeps d b (markMoving d b s)).trans (dropStale_keeps _) d _ (kget_kset_same s.loft.dies d _)
  refine ⟨x, present, ?_⟩
  rw [blk, blocks, kgetD_kmodD_same]

theorem scrubBlock_found (d b : Nat) (lost : List (Nat × PageRef)) (s : State) :
    let t := modBlk d b (fun y => { y with scrubAt := s.health.lifeS.toNat }) s
    scrubBlock d b .hard lost s = t ∧
    (s.dev.roMode = false → (blk (die s d) b).moving = false → scrubBlock d b .retried lost s
      = relocate d b (modPerf (fun p => { p with retentionMoves := satInc p.retentionMoves }) t)) ∧
    (blockRebuilds t d b = true → scrubBlock d b .rebuilt lost s = badBlock d b t) ∧
    scrubBlock d b .failed lost s = badBlock d b (losePages (lost.filter (liesIn t d b)) t) := by
  intro t
  refine ⟨rfl, fun ro rests => ?_, fun can => ?_, rfl⟩
  · have still : (blk (die t d) b).moving = false := by
      rw [blk_modBlk_same]; exact rests
    have open_ : t.dev.roMode = false := ro
    have goes : ¬ (t.dev.roMode || (blk (die t d) b).moving) = true := by
      rw [open_, still]; decide
    exact if_neg goes
  · exact if_pos can

theorem die_modDie_state (d : Nat) (s : State) : (die (modDie d (fun x => { x with state := 3 }) s) d).state = 3 := by
  simp only [modDie, die, kgetD_kmodD_same]

theorem rebuildComplete_fields {s : State} {d : Nat} (hd : d < 1024) (on : loftOn s = true) (up : s.dev.curUp = true)
    (mine : d ∈ s.loft.rebuilding) (done : ∀ r ∈ s.loft.rebuilds, r.die ≠ d) :
    ∃ u, exec (.rebuildComplete d) s = .next u ∧ (die u d).state = 3 ∧ d ∉ u.loft.rebuilding ∧
      u.loft.rebuildActive = !u.loft.rebuilding.isEmpty := by
  have run := show exec (.rebuildComplete d) s = execRebuildComplete d s from rfl
  have here : s.loft.rebuilding.contains d = true := List.contains_iff_mem.mpr mine
  have none_left : s.loft.rebuilds.any (·.die == d) = false := by simpa using done
  rw [execRebuildComplete, if_neg (by simp [dieOk, hd]), if_neg (by simp only [on, up, here, none_left]; decide)] at run
  refine ⟨_, run, ?_, ?_, rfl⟩
  · exact die_modDie_state _ _
  · exact fun mem => by simpa using (List.mem_filter.mp mem).2

/-- A calibration that may run gives the die its table, or fails it. -/
theorem calibrationGoes {s : State} {d : Nat} (hd : d < 1024) (moved : Bool) (on : loftOn s = true) (works : dieWorks s d = true)
    (due : onHold s d = true ∨ (scrubFree s d = true ∧ (moved = true ∨ (die s d).calibAt + calibPeriod s ≤ now s))) :
    exec (.readRetryCalibration d true moved) s
      = .next (kick d (modDie d (fun x => { x with calibAt := now s, heldAt := none }) s)) ∧
    exec (.readRetryCalibration d false moved) s = .next (failDie d s) := by
  have goes : ¬ (!onHold s d && !(scrubFree s d && (moved || decide ((die s d).calibAt + calibPeriod s ≤ now s)))) = true := by
    rcases due with h | ⟨free, h⟩
    · simp [h]
    · simp only [free]
      rcases h with h | h <;> simp [h]
  have guard : ¬ (!loftOn s || !dieWorks s d) = true := by simp [on, works]
  constructor
  · rw [exec, execReadRetryCalibration, if_neg (by simp [dieOk, hd]), if_neg guard]
    exact (if_neg goes).trans (if_neg (by decide))
  · rw [exec, execReadRetryCalibration, if_neg (by simp [dieOk, hd]), if_neg guard]
    exact (if_neg goes).trans (if_pos (by decide))

/-- The hold of an overdue calibration. -/
theorem calibrationOverdue_next {s : State} {d : Nat} (hd : d < 1024) (moved : Option Nat) {t : Nat} (on : loftOn s = true)
    (works : dieWorks s d = true) (free : onHold s d = false) (since : calibSince s d moved + 30000000000 ≤ now s)
    (busy : (die s d).busySince = some t) (due : t + 30000000000 ≤ now s) :
    exec (.calibrationOverdue d moved) s = .next (redirectLoads d (modWork (fun w => { w with staging := w.staging.map (fun g =>
        if (g.issued && g.ended.isNone && g.dies.contains d) then { g with held := true } else g) })
      (modPerf (fun p => { p with calibHolds := satInc p.calibHolds })
        (modDie d (fun x => { x with heldAt := some (now s) }) s)))) := by
  rw [exec, execCalibrationOverdue, if_neg (by simp [dieOk, hd]), busy, Option.any_some, decide_eq_true due,
    if_neg (by rw [on, works, free, decide_eq_false (Nat.not_lt.mpr since)]; decide)]

/-- Settles O59: each row by its definition; a relocation leaves the blocks of every die marked as they were. -/
theorem backgroundWorkCompletes : Obligations.BackgroundWorkCompletes := by
  intro s d b hd hb
  have ok : ¬ (!(dieOk d && blockOk b)) = true := by simp [dieOk, blockOk, hd, hb]
  have okDie : ¬ (!dieOk d) = true := by simp [dieOk, hd]
  refine ⟨fun suspended due => ?resume, fun o lost free due => ?scrub, fun lost => scrubBlock_found d b lost s,
    fun moved on works due => calibrationGoes hd moved on works due, fun moved t on works free since busy due => calibrationOverdue_next hd moved on works free since busy due,
    fun idle ro rests => ⟨fun reads => ?refresh, fun few can most => ?reclaim, relocate_marks rests⟩,
    fun worn hw idle free ro spread cold most => ?level, fun on works => ?dieFails,
    fun on up mine done => rebuildComplete_fields hd on up mine done⟩
  case resume =>
    rw [exec, execSuspendExpiry]
    exact (if_neg okDie).trans (if_neg (by simpa [suspended] using due.resolve_left))
  case scrub =>
    rw [exec, execPatrolScrub, if_neg ok, if_neg (by simp [free, due])]
  case refresh =>
    rw [exec, execReadDisturbRefresh, if_neg ok, if_neg (by simp [idle, ro, rests, reads])]
  case reclaim =>
    have top : (die s d).blocks.any (fun q => reclaimable s d q.1 && decide (staleBytes s d b < staleBytes s d q.1)) = false := by
      rw [List.any_eq_false]
      intro q _
      by_cases h : reclaimable s d q.1 = true
      · simp [Nat.not_lt.mpr (most q.1 h)]
      · simp [h]
    rw [exec, execReclamation, if_neg ok, if_neg (by simp [idle, ro, few, can, top])]
  case level =>
    rw [exec, execStaticWearLevelling, if_neg (by simp [dieOk, blockOk, hd, hb, hw]),
      if_neg (by simp [idle, free, ro, spread, cold, most])]
  case dieFails =>
    rw [exec, execDieFailure, if_neg okDie, if_neg (by simp [on, works])]

end Sys2Proof.Machine
end

-- What every change keeps.
section
/-!
What every change of the state keeps: the queue of pending commands, the fuses, what has gone out, and the shapes of the state. A change is
`Kept` when it keeps these, and `Calm` when it leaves the cluster map and the repair map alone as well. The lemmas of the files that follow
say of each function of the model that it makes a calm change, or a kept one; they are about any property of states that such
changes keep, so that they compose by application.
-/
namespace Sys2Proof.Machine
open Sys2Proof

/-! The shapes, part by part. -/

/-- The shape of a cluster. -/
structure Formed (c : Cluster) : Prop where
  area      : rising c.work = true
  canonical : c.workFree = none → Memory.wf c.work = true
  pc        : c.core.pc.toNat % 4 = 0
  queue     : ∀ n ∈ c.engQ, n.pc % 4 = 0

theorem formed_fresh : Formed Cluster.fresh := ⟨rfl, fun _ => rfl, rfl, fun _ h => nomatch h⟩

theorem Formed.of {c d : Cluster} (h : Formed c) (work : d.work = c.work) (free : d.workFree = c.workFree)
    (pc : d.core.pc = c.core.pc) (queue : d.engQ = c.engQ) : Formed d where
  area := work ▸ h.area
  canonical := fun n => work ▸ h.canonical (free ▸ n)
  pc := pc ▸ h.pc
  queue := queue ▸ h.queue

theorem shaped_iff {s : State} : Shaped s ↔ ordered (s.clusters.map (·.1)) = true ∧ (∀ p ∈ s.clusters, Formed p.2) ∧
    (∀ p ∈ s.fw, Memory.wf p.2.image = true) ∧ (∀ p ∈ s.coherent, Memory.wf p.2 = true) ∧
    (∀ p ∈ s.store.scratch, Memory.wf p.2.mem = true) := by
  have listed : (memories s).all Memory.wf = true ↔ (∀ p ∈ s.fw, Memory.wf p.2.image = true) ∧
      (∀ p ∈ s.coherent, Memory.wf p.2 = true) ∧ (∀ p ∈ s.store.scratch, Memory.wf p.2.mem = true) ∧
      (∀ p ∈ s.clusters, p.2.workFree = none → Memory.wf p.2.work = true) := by
    simp only [memories, List.all_append, List.all_map, List.all_filter, Bool.and_eq_true, List.all_eq_true, Function.comp]
    simp only [and_assoc, Bool.or_eq_true, Bool.not_eq_true', Option.isNone_eq_false_iff, Option.isSome_iff_ne_none, ne_eq,
      Classical.or_iff_not_imp_left, Classical.not_not]
  constructor
  · rintro ⟨keys, canonical, areas, aligned⟩
    obtain ⟨fw, coherent, scratch, work⟩ := listed.mp canonical
    rw [pcAligned, List.all_eq_true] at aligned
    refine ⟨keys, fun p mem => ?_, fw, coherent, scratch⟩
    have here := aligned p mem
    simp only [Bool.and_eq_true, beq_iff_eq, List.all_eq_true] at here
    exact ⟨List.all_eq_true.mp areas p mem, work p mem, here.1, here.2⟩
  · rintro ⟨keys, formed, fw, coherent, scratch⟩
    refine ⟨keys, listed.mpr ⟨fw, coherent, scratch, fun p mem => (formed p mem).canonical⟩,
      List.all_eq_true.mpr fun p mem => (formed p mem).area, ?_⟩
    rw [pcAligned, List.all_eq_true]
    intro p mem
    simp only [Bool.and_eq_true, beq_iff_eq, List.all_eq_true]
    exact ⟨(formed p mem).pc, (formed p mem).queue⟩

/-! Changes. -/

/-- A change that keeps the queue, the fuses, what has gone out, and the shapes. -/
structure Kept (s u : State) : Prop where
  pending : u.pending = s.pending
  fuses   : fused u = fused s
  out     : s.out <:+ u.out
  shaped  : Shaped s → Shaped u

theorem Kept.refl (s : State) : Kept s s := ⟨rfl, rfl, List.suffix_refl _, id⟩

theorem Kept.trans {s t u : State} (h : Kept s t) (k : Kept t u) : Kept s u :=
  ⟨k.pending.trans h.pending, k.fuses.trans h.fuses, h.out.trans k.out, k.shaped ∘ h.shaped⟩

/-- A kept change that leaves the cluster map and the repair map as they are. -/
structure Calm (s u : State) : Prop extends Kept s u where
  mapState  : ∀ p, (cluster u p).mapState = (cluster s p).mapState
  repairMap : u.health.repairMap = s.health.repairMap

theorem Calm.refl (s : State) : Calm s s := ⟨.refl s, fun _ => rfl, rfl⟩

theorem Calm.trans {s t u : State} (h : Calm s t) (k : Calm t u) : Calm s u :=
  ⟨h.toKept.trans k.toKept, fun p => (k.mapState p).trans (h.mapState p), k.repairMap.trans h.repairMap⟩

/-- A property of states that calm changes keep. -/
structure Keeper where
  holds : State → Prop
  calm  : ∀ {s u}, Calm s u → holds s → holds u

/-- A property of states that kept changes keep. -/
structure Warden extends Keeper where
  kept  : ∀ {s u}, Kept s u → holds s → holds u

/-- To be reached from a state by calm changes; by kept ones. -/
def calmFrom (r : State) : Keeper := ⟨Calm r, fun k h => Calm.trans h k⟩

def keptFrom (r : State) : Warden := ⟨⟨Kept r, fun k h => Kept.trans h k.toKept⟩, fun k h => Kept.trans h k⟩

/-! Fields that no shape is about. -/

/-- All but the fields that a calm change keeps are put back. -/
def calmFields (u s : State) : State :=
  { s with pending := u.pending, fuses := u.fuses, out := u.out, clusters := u.clusters, coherent := u.coherent, fw := u.fw,
           store := { s.store with scratch := u.store.scratch }, health := { s.health with repairMap := u.health.repairMap } }

theorem Calm.of_only {s u : State} (e : Only calmFields s u) : Calm s u := by
  have field {α : Type} (f : State → α) : f (calmFields u s) = f s := congrArg f e
  have fuses : u.fuses = s.fuses := field State.fuses
  have clusters : u.clusters = s.clusters := field State.clusters
  have out : u.out = s.out := field State.out
  have fw : u.fw = s.fw := field State.fw
  have coherent : u.coherent = s.coherent := field State.coherent
  have scratch : u.store.scratch = s.store.scratch := field (·.store.scratch)
  refine ⟨⟨field State.pending, by rw [fused, fused, fuses], out ▸ List.suffix_refl _, fun h => ?_⟩, fun p => ?_,
    field (·.health.repairMap)⟩
  · rw [shaped_iff] at h ⊢
    rw [clusters, fw, coherent, scratch]
    exact h
  · rw [cluster, cluster, clusters]

section
variable {K : Keeper} {s u : State}

theorem Keeper.holds.only (h : K.holds s) (e : Only calmFields s u) : K.holds u := K.calm (.of_only e) h

theorem Only.calm_of_medium (e : Only mediumFields s u) : Only calmFields s u :=
  (show calmFields u s = calmFields (mediumFields u s) s from rfl).trans ((congrArg (fun x => calmFields x s) e).trans rfl)

theorem medium_holds (e : Only mediumFields s u) (h : K.holds s) : K.holds u := h.only e.calm_of_medium

theorem foldl_holds {α : Type} {f : State → α → State} {l : List α} (h : K.holds s)
    (each : ∀ s x, K.holds s → K.holds (f s x)) : K.holds (l.foldl f s) := by
  induction l generalizing s with
  | nil => exact h
  | cons x l ih => exact ih (each s x h)

/-! The fields one by one. -/

theorem modPerf_holds {f : PerfBlk → PerfBlk} (h : K.holds s) : K.holds (modPerf f s) := h.only rfl

theorem modPerf2_holds {f : PerfBlk2 → PerfBlk2} (h : K.holds s) : K.holds (modPerf2 f s) := h.only rfl

theorem modWork_holds {f : Work → Work} (h : K.holds s) : K.holds (modWork f s) := h.only rfl

theorem modLoft_holds {f : LoftBlk → LoftBlk} (h : K.holds s) : K.holds (modLoft f s) := h.only rfl

theorem modDev_holds {f : DevBlk → DevBlk} (h : K.holds s) : K.holds (modDev f s) := h.only rfl

theorem modPwr_holds {f : PwrBlk → PwrBlk} (h : K.holds s) : K.holds (modPwr f s) := h.only rfl

theorem modDie_holds {d : Nat} {f : Die → Die} (h : K.holds s) : K.holds (modDie d f s) := h.only rfl

theorem modPort_holds {k : Nat} {f : Port → Port} (h : K.holds s) : K.holds (modPort k f s) := h.only rfl

theorem modEth_holds {k : Nat} {f : EthPort → EthPort} (h : K.holds s) : K.holds (modEth k f s) := h.only rfl

theorem modQueue_holds {q : Nat} {f : Queue → Queue} (h : K.holds s) : K.holds (modQueue q f s) := h.only rfl

theorem modCompany_holds {c : Nat} {f : Company → Company} (h : K.holds s) : K.holds (modCompany c f s) := h.only rfl

theorem modConn_holds {k : Nat} {f : Conn → Conn} (h : K.holds s) : K.holds (modConn k f s) := h.only rfl

theorem modStream_holds {k : Nat} {f : Stream → Stream} (h : K.holds s) : K.holds (modStream k f s) := h.only rfl

theorem dropData_holds {g : LoftObj → Nat → Bool} (h : K.holds s) : K.holds (dropData g s) := h.only rfl

theorem modScene_holds {c : Nat} {id : SceneId} {f : Scene → Scene} (h : K.holds s) : K.holds (modScene c id f s) := h.only rfl

theorem emit_holds {o : Out} (h : K.holds s) : K.holds (emit o s) :=
  K.calm (s := s) ⟨⟨rfl, rfl, List.suffix_cons o s.out, fun shaped => shaped_iff.mpr (shaped_iff (s := s).mp shaped)⟩, fun _ => rfl, rfl⟩ h

/-! Rows. -/

/-- A row that answers goes to a state of the property. -/
def Keeper.goes (K : Keeper) (x : Res) : Prop := ∀ u, x = .next u → K.holds u

theorem next_goes (h : K.holds s) : K.goes (.next s) := fun u e => by cases e; exact h

theorem fault_goes {x : Fault} : K.goes (.fault x) := fun u e => by cases e

/-! Clusters. -/

theorem kget_mem {α : Type} {m : KMap α} {n : Nat} {x : α} (h : kget m n = some x) : (n, x) ∈ m := by
  induction m with
  | nil => cases h
  | cons p r ih =>
    obtain ⟨k, v⟩ := p
    rw [kget] at h
    split at h
    next e => cases h; subst e; exact .head _
    next => exact .tail _ (ih h)

theorem mem_kset {α : Type} {m : KMap α} {n : Nat} {x : α} {p : Nat × α} (h : p ∈ kset m n x) : p = (n, x) ∨ p ∈ m := by
  induction m with
  | nil => exact .inl (List.mem_singleton.mp h)
  | cons q r ih =>
    obtain ⟨k, v⟩ := q
    rw [kset] at h
    split at h
    next => exact (List.mem_cons.mp h)
    next =>
      split at h
      next => exact (List.mem_cons.mp h).imp_right (.tail _)
      next =>
        rcases List.mem_cons.mp h with h | h
        · exact .inr (h ▸ .head _)
        · exact (ih h).imp_right (.tail _)

theorem ordered_kset {α : Type} {m : KMap α} (n : Nat) (x : α) (h : ordered (m.map (·.1)) = true) :
    ordered ((kset m n x).map (·.1)) = true := by
  induction m with
  | nil => rfl
  | cons q r ih =>
    obtain ⟨k, v⟩ := q
    obtain ⟨low, rest⟩ := ordered_cons.mp h
    rw [kset]
    split
    next lt =>
      refine ordered_cons.mpr ⟨fun b hb => ?_, h⟩
      rcases List.mem_cons.mp hb with rfl | hb
      · exact lt
      · exact Nat.lt_trans lt (low b hb)
    next ge =>
      split
      next e => exact ordered_cons.mpr ⟨fun b hb => e ▸ low b hb, rest⟩
      next ne =>
        refine ordered_cons.mpr ⟨fun b hb => ?_, ih rest⟩
        obtain ⟨p, mem, rfl⟩ := List.mem_map.mp hb
        rcases mem_kset mem with rfl | mem
        · exact Nat.lt_of_le_of_ne (Nat.not_lt.mp ge) (Ne.symm ne)
        · exact low _ (List.mem_map_of_mem mem)

theorem formed_cluster (formed : ∀ p ∈ s.clusters, Formed p.2) (p : Nat) : Formed (cluster s p) := by
  unfold cluster kgetD
  cases found : kget s.clusters p with
  | none => exact formed_fresh
  | some c => exact formed _ (kget_mem found)

theorem Kept.modCluster {p : Nat} {f : Cluster → Cluster} (formed : Formed (cluster s p) → Formed (f (cluster s p))) :
    Kept s (modCluster p f s) := by
  refine ⟨rfl, rfl, List.suffix_refl _, fun h => ?_⟩
  obtain ⟨keys, clusters, rest⟩ := shaped_iff.mp h
  refine shaped_iff.mpr ⟨ordered_kset _ _ keys, fun q mem => ?_, rest⟩
  rcases mem_kset mem with rfl | mem
  · exact formed (formed_cluster clusters p)
  · exact clusters q mem

theorem Keeper.holds.cluster {p : Nat} {f : Cluster → Cluster} (h : K.holds s)
    (formed : Formed (cluster s p) → Formed (f (cluster s p))) (same : (f (Machine.cluster s p)).mapState = (Machine.cluster s p).mapState) :
    K.holds (modCluster p f s) := by
  refine K.calm ⟨.modCluster formed, fun q => ?_, rfl⟩ h
  by_cases hq : q = p
  · subst hq
    exact (congrArg Cluster.mapState (kgetD_kmodD_same ..)).trans same
  · exact congrArg Cluster.mapState (kgetD_kmodD_other _ _ _ _ hq)

/-- A change of a cluster that leaves alone what its shape is about, and its place in the cluster map. -/
def Aside (f : Cluster → Cluster) : Prop :=
  ∀ c, (f c).mapState = c.mapState ∧ (f c).work = c.work ∧ (f c).workFree = c.workFree ∧ (f c).core.pc = c.core.pc ∧ (f c).engQ = c.engQ

theorem aside_holds {p : Nat} {f : Cluster → Cluster} (aside : Aside f) (h : K.holds s) : K.holds (modCluster p f s) := by
  obtain ⟨same, work, free, pc, queue⟩ := aside (Machine.cluster s p)
  exact h.cluster (fun formed => formed.of work free pc queue) same

theorem Kept.kmap {f : Nat → Cluster → Cluster} (formed : ∀ p c, Formed c → Formed (f p c)) :
    Kept s { s with clusters := kmap s.clusters f } := by
  refine ⟨rfl, rfl, List.suffix_refl _, fun h => ?_⟩
  obtain ⟨keys, clusters, rest⟩ := shaped_iff.mp h
  refine shaped_iff.mpr ⟨(keys_kmap s.clusters f).symm ▸ keys, fun q mem => ?_, rest⟩
  obtain ⟨p, listed, rfl⟩ := List.mem_map.mp mem
  exact formed _ _ (clusters p listed)

theorem Keeper.holds.kmap {f : Nat → Cluster → Cluster} (h : K.holds s) (formed : ∀ p c, Formed c → Formed (f p c))
    (same : ∀ p c, (f p c).mapState = c.mapState) : K.holds { s with clusters := kmap s.clusters f } := by
  refine K.calm ⟨.kmap formed, fun q => ?_, rfl⟩ h
  unfold Machine.cluster kgetD
  rw [kget_kmap]
  cases kget s.clusters q with
  | none => rfl
  | some c => exact same q c

/-! Byte memories outside the clusters. -/

/-- All but the firmware images, windows and scratch objects is put back. -/
def memoryFields (u s : State) : State :=
  { s with pending := u.pending, fuses := u.fuses, out := u.out, clusters := u.clusters,
           health := { s.health with repairMap := u.health.repairMap } }

theorem Keeper.holds.memories (h : K.holds s) (e : Only memoryFields s u)
    (fw : (∀ p ∈ s.fw, Memory.wf p.2.image = true) → ∀ p ∈ u.fw, Memory.wf p.2.image = true)
    (coherent : (∀ p ∈ s.coherent, Memory.wf p.2 = true) → ∀ p ∈ u.coherent, Memory.wf p.2 = true)
    (scratch : (∀ p ∈ s.store.scratch, Memory.wf p.2.mem = true) → ∀ p ∈ u.store.scratch, Memory.wf p.2.mem = true) :
    K.holds u := by
  have field {α : Type} (f : State → α) : f (memoryFields u s) = f s := congrArg f e
  have fuses : u.fuses = s.fuses := field State.fuses
  have clusters : u.clusters = s.clusters := field State.clusters
  have out : u.out = s.out := field State.out
  refine K.calm ⟨⟨field State.pending, by rw [fused, fused, fuses], out ▸ List.suffix_refl _, fun h => ?_⟩, fun p => ?_,
    field (·.health.repairMap)⟩ h
  · obtain ⟨keys, formed, images, windows, objects⟩ := shaped_iff.mp h
    exact shaped_iff.mpr ⟨clusters ▸ keys, clusters ▸ formed, fw images, coherent windows, scratch objects⟩
  · rw [Machine.cluster, Machine.cluster, clusters]

theorem modStore_holds {f : Store → Store} (same : ∀ x, (f x).scratch = x.scratch) (h : K.holds s) : K.holds (modStore f s) :=
  h.memories rfl id id fun wf => (same s.store) ▸ wf

theorem modHealth_holds {f : HealthBlk → HealthBlk} (same : ∀ x, (f x).repairMap = x.repairMap) (h : K.holds s) :
    K.holds (modHealth f s) :=
  h.only (show calmFields (modHealth f s) s = s by rw [calmFields]; simp only [modHealth, same])

/-- A change of fields that no shape is about. -/
theorem update_holds {dev pwr lock evt arb loft perf perf2 ports agents snoops snoopWaits atomics sessions spdm measures eth shSpray shSel
    conns queues taken nextSeq turn errLog work ulb disk flash free} (h : K.holds s) :
    K.holds { s with
      dev := dev, pwr := pwr, lock := lock, evt := evt, arb := arb, loft := loft, perf := perf, perf2 := perf2, ports := ports,
      agents := agents, snoops := snoops, snoopWaits := snoopWaits, atomics := atomics, sessions := sessions, spdm := spdm,
      measures := measures, eth := eth, shSpray := shSpray, shSel := shSel, conns := conns, queues := queues, taken := taken,
      nextSeq := nextSeq, turn := turn, errLog := errLog, work := work, ulb := ulb, disk := disk, flash := flash, free := free } :=
  h.only rfl

theorem Keeper.holds.windows (h : K.holds s) {m : KMap Memory}
    (coherent : (∀ p ∈ s.coherent, Memory.wf p.2 = true) → ∀ p ∈ m, Memory.wf p.2 = true) : K.holds { s with coherent := m } :=
  h.memories rfl id coherent id

theorem Keeper.holds.images (h : K.holds s) {m : KMap FwSlot}
    (fw : (∀ p ∈ s.fw, Memory.wf p.2.image = true) → ∀ p ∈ m, Memory.wf p.2.image = true) : K.holds { s with fw := m } :=
  h.memories rfl fw id id

theorem Keeper.holds.objects (h : K.holds s) {f : Store → Store}
    (scratch : (∀ p ∈ s.store.scratch, Memory.wf p.2.mem = true) → ∀ p ∈ (f s.store).scratch, Memory.wf p.2.mem = true) :
    K.holds (modStore f s) :=
  h.memories rfl id id scratch

end

end Sys2Proof.Machine
end

-- What the end of a command keeps.
section
/-!
Ending commands: completions, flushes, aborts, and the waits that then end (R552, R553, R558, R562).
-/
namespace Sys2Proof.Machine
open Sys2Proof

section
variable {K : Keeper} {s u : State}

theorem kmap_holds {f : Nat → Cluster → Cluster} (aside : ∀ p, Aside (f p)) (h : K.holds s) :
    K.holds { s with clusters := kmap s.clusters f } :=
  h.kmap (fun p c formed => by obtain ⟨-, work, free, pc, queue⟩ := aside p c; exact formed.of work free pc queue)
    fun p c => (aside p c).1

theorem takeFree_snd_holds (h : K.holds s) : K.holds (takeFree s).2 := h.only rfl

theorem takeFree_holds {x} (h : K.holds s) (e : takeFree s = (x, u)) : K.holds u := by
  unfold takeFree at e
  cases e
  exact h.only rfl

theorem logError_holds {t c} (h : K.holds s) : K.holds (logError t c s) := by
  unfold logError
  split
  · exact h
  · exact h.only rfl

theorem countRefusal_holds {company} (h : K.holds s) : K.holds (countRefusal company s) := h.only rfl

theorem writeEntry_holds {qn c} (h : K.holds s) : K.holds (writeEntry qn c s) := by
  unfold writeEntry
  split
  · exact h
  · exact emit_holds (h.only rfl)

theorem postCompletion_holds {qn c} (h : K.holds s) : K.holds (postCompletion qn c s) := by
  unfold postCompletion
  split
  · exact h
  · simp only
    split
    · exact h.only rfl
    · exact writeEntry_holds (h.only rfl)

theorem postEvent_holds {a0 company d0 d1} (h : K.holds s) : K.holds (postEvent a0 company d0 d1 s) := h.only rfl

theorem reportMiss_holds {t c} (h : K.holds s) : K.holds (reportMiss t c s) := by
  unfold reportMiss
  simp only
  split
  · exact h.only rfl
  · split
    · refine modPerf2_holds ?_
      split
      · exact h
      · exact h.only rfl
    · exact h

theorem finishCore_holds {t c} (h : K.holds s) : K.holds (finishCore t c s) := by
  unfold finishCore
  refine postCompletion_holds (reportMiss_holds ?_)
  split
  · exact countRefusal_holds (logError_holds (h.only rfl))
  · exact logError_holds (h.only rfl)

theorem dma_holds {a n} (h : K.holds s) : K.holds (dma a n s) := by
  unfold dma
  split
  · exact h
  · exact h.only rfl

theorem toHost_holds {t addr d} (h : K.holds s) : K.holds (toHost t addr d s) := by
  unfold toHost
  split
  · exact h
  · exact emit_holds (dma_holds h)

theorem writeBitmap_holds {t addr items set} (h : K.holds s) : K.holds (writeBitmap t addr items set s) := by
  unfold writeBitmap
  split
  · exact h
  · exact emit_holds h

theorem removeQueue_holds {qn} (h : K.holds s) : K.holds (removeQueue qn s) := h.only rfl

theorem haltRun_holds {seq} (h : K.holds s) : K.holds (haltRun seq s) := by
  refine h.kmap (fun p c formed => ?_) fun p c => ?_
  · split
    · exact ⟨formed.area, formed.canonical, formed.pc, fun _ none => nomatch none⟩
    · exact formed
  · split <;> rfl

theorem releaseAllots_holds {cs} (h : K.holds s) : K.holds (releaseAllots cs s) := by
  refine kmap_holds (fun p c => ?_) h
  split <;> exact ⟨rfl, rfl, rfl, rfl, rfl⟩

theorem dropAtt_holds {op} (h : K.holds s) : K.holds (dropAtt op s) := releaseAllots_holds (h.only rfl)

theorem endCue_holds {t op st} (h : K.holds s) : K.holds (endCue t op st s) := by
  unfold endCue
  simp only
  split
  · exact finishCore_holds (writeBitmap_holds (h.only rfl))
  · exact finishCore_holds (h.only rfl)

theorem endWeights_holds {t op st} (h : K.holds s) : K.holds (endWeights t op st s) := by
  unfold endWeights
  refine finishCore_holds ?_
  split
  · exact writeBitmap_holds (h.only rfl)
  · exact h.only rfl

theorem abortUnrun_holds {st t} (h : K.holds s) : K.holds (abortUnrun st t s) := by
  unfold abortUnrun
  split
  · exact finishCore_holds h
  · split
    · exact finishCore_holds h
    · split
      · exact finishCore_holds (writeBitmap_holds h)
      · exact finishCore_holds (writeBitmap_holds h)

theorem modRun_holds {seq f} (h : K.holds s) : K.holds (modRun seq f s) := h.only rfl

theorem abortOne_holds {st t} (h : K.holds s) : K.holds (abortOne st t s) := by
  unfold abortOne
  split
  · exact abortUnrun_holds h
  · split
    · split
      · exact endCue_holds h
      · exact h
    · split
      · exact endCue_holds h
      · exact h
    · split
      · exact endWeights_holds h
      · exact h
    · split
      · exact finishCore_holds (dropAtt_holds h)
      · exact h
    · split
      · exact finishCore_holds (dropAtt_holds h)
      · exact h
    · exact finishCore_holds (h.only rfl)
    · split
      · split
        · exact finishCore_holds (h.only rfl)
        · exact haltRun_holds (h.only rfl)
      · exact h
    · exact finishCore_holds h
    · exact finishCore_holds h
    · exact finishCore_holds (h.only rfl)
    · exact finishCore_holds (h.only rfl)
    · exact h

theorem abortAll_fst_holds {st p} (h : K.holds s) : K.holds (abortAll st p s).1 :=
  foldl_holds h fun _ _ h => abortOne_holds h

theorem flushQueue_fst_holds {y st keep} (h : K.holds s) : K.holds (flushQueue y st keep s).1 := by
  unfold flushQueue
  split
  · exact h
  · exact abortAll_fst_holds (h.only rfl)

theorem flushQueue_holds {y st keep n} (h : K.holds s) (e : flushQueue y st keep s = (u, n)) : K.holds u :=
  (show (flushQueue y st keep s).1 = u from congrArg Prod.fst e) ▸ flushQueue_fst_holds h

theorem completeWait_holds {t abort c} (h : K.holds s) : K.holds (completeWait t abort c s) := by
  unfold completeWait
  split
  · split
    next x u y z found =>
      exact finishCore_holds (flushQueue_holds h found)
  · exact finishCore_holds h

theorem endWait_holds {n w c} (h : K.holds s) : K.holds (endWait n w c s) := by
  unfold endWait
  simp only
  split
  · split
    · exact flushQueue_fst_holds (h.only rfl)
    · exact h.only rfl
  · exact completeWait_holds (h.only rfl)

theorem settleN_holds {n} (h : K.holds s) : K.holds (settleN n s) := by
  induction n generalizing s with
  | zero => exact h
  | succ n ih =>
    unfold settleN
    split
    · exact ih (endWait_holds h)
    · exact ih (endWait_holds h)
    · split
      · refine ih (finishCore_holds ?_)
        split
        · exact h.only rfl
        · exact h.only rfl
      · exact h

theorem settle_holds (h : K.holds s) : K.holds (settle s) := settleN_holds h

theorem finish_holds {t c} (h : K.holds s) : K.holds (finish t c s) := by
  unfold finish
  split
  · exact settle_holds (finishCore_holds h)
  · exact h

theorem checked_holds {t checks go} (h : K.holds s) (goes : ∀ s, K.holds s → K.holds (go s)) : K.holds (checked t checks s go) := by
  unfold checked
  split
  · exact finish_holds h
  · exact goes s h

theorem runRow_goes {op c body} (h : K.holds s) (runs : ∀ t s, K.holds s → K.holds (body t s)) : K.goes (runRow op c s body) := by
  unfold runRow
  split
  · exact next_goes (runs _ s h)
  · exact next_goes h

end

end Sys2Proof.Machine
end

-- What changes of the store keep.
section
/-!
The store: rooms made, scenes sealed and removed, streams, models and companies (R179 to R185, R221, R231 to R237).
-/
namespace Sys2Proof.Machine
open Sys2Proof

section
variable {K : Keeper} {s u : State}

theorem tick_holds (h : K.holds s) : K.holds (tick s) := by
  unfold tick
  split
  · exact h
  · exact h.only rfl

theorem applyFeature_holds {c f v save data} (h : K.holds s) : K.holds (applyFeature c f v save data s) := by
  unfold applyFeature
  split
  · exact h.only rfl
  · split
    · exact h.only rfl
    · split
      · refine modCompany_holds ?_
        split
        · exact h.only rfl
        · exact h
      · split
        · simp only
          split
          · exact h.only rfl
          · exact h.only rfl
        · refine modEth_holds ?_
          split
          · exact h.only rfl
          · exact h

theorem mem_of_mem_kdel {α : Type} {m : KMap α} {n : Nat} {p : Nat × α} (h : p ∈ kdel m n) : p ∈ m := by
  induction m with
  | nil => exact h
  | cons q r ih =>
    obtain ⟨k, v⟩ := q
    rw [kdel] at h
    split at h
    · exact .tail _ h
    · rcases List.mem_cons.mp h with h | h
      · exact h ▸ .head _
      · exact .tail _ (ih h)

theorem zeroRegions_holds {c} (h : K.holds s) : K.holds (zeroRegions c s) :=
  h.memories rfl id (fun wf p mem => wf p (mem_of_mem_kdel mem)) id

theorem startJournal_holds (h : K.holds s) : K.holds (startJournal s) := h.only rfl

theorem formRecord_holds {k cmd} (h : K.holds s) : K.holds (formRecord k cmd s) := h.only rfl

theorem holdFor_holds {k t c} (h : K.holds s) : K.holds (holdFor k t c s) := h.only rfl

theorem issueRead_holds {g} (h : K.holds s) : K.holds (issueRead g s) := by
  unfold issueRead
  simp only
  split
  · exact h
  · split
    · exact h.only rfl
    · exact foldl_holds (h.only rfl) fun _ _ h => medium_holds (reachDie_only ..) h

theorem issueReads_holds (h : K.holds s) : K.holds (issueReads s) := foldl_holds h (fun _ _ k => issueRead_holds k)

theorem dropCopies_holds {p} (h : K.holds s) : K.holds (dropCopies p s) := by
  unfold dropCopies
  refine issueReads_holds (foldl_holds (h.only rfl) (fun t x k => ?_))
  split
  · exact foldl_holds k (fun _ _ k' => medium_holds (leaveDie_only ..) k')
  · exact k

theorem dropMedium_holds {c} (h : K.holds s) : K.holds (dropMedium c s) :=
  medium_holds (pump_only ..) (modWork_holds (dropCopies_holds (medium_holds (dropStale_only ..) (dropData_holds (modLoft_holds (h.only rfl))))))

theorem destroyCompany_holds {c} (h : K.holds s) : K.holds (destroyCompany c s) := by
  unfold destroyCompany
  have before := dropMedium_holds (c := c) h
  generalize dropMedium c s = t at before
  have emptied : K.holds { t with clusters := kmap t.clusters fun _ x =>
      if !t.store.tenancy || x.company == c then { x with work := [], imem := [], imageLen := 0 } else x } := by
    refine before.kmap (fun p x formed => ?_) fun p x => ?_
    · split
      · exact ⟨rfl, fun _ => rfl, formed.pc, formed.queue⟩
      · exact formed
    · split <;> rfl
  exact emptied.memories rfl id id fun wf p mem => wf p (List.mem_filter.mp mem).1

theorem setRunning_holds {seq} (h : K.holds s) : K.holds (setRunning seq s) := h.only rfl

theorem onceRoom_holds {t v} (h : K.holds s) (k : K.holds u) : K.holds (onceRoom t s v u) := by
  unfold onceRoom
  split
  · exact h
  · exact k

theorem inRoomMade_holds {t made go} (h : K.holds s) (room : ∀ u, made = some u → K.holds u) (goes : ∀ s, K.holds s → K.holds (go s)) :
    K.holds (inRoomMade t s made go) := by
  unfold inRoomMade
  split
  · exact goes s h
  · exact onceRoom_holds h (goes _ (room _ rfl))

theorem dropWorking_holds {c id} (h : K.holds s) : K.holds (dropWorking c id s) := h.only rfl

theorem invalidate_holds {c id} (h : K.holds s) : K.holds (invalidate c id s) := h.only rfl

theorem queueWriteBack_holds {c id} (h : K.holds s) : K.holds (queueWriteBack c id s) := by
  unfold queueWriteBack
  split
  · exact h
  · exact h.only rfl

theorem removeScene_holds {c id} (h : K.holds s) : K.holds (removeScene c id s) := by
  unfold removeScene
  split
  · exact h
  · simp only
    split
    · exact formRecord_holds (invalidate_holds (medium_holds (dropStale_only ..) (dropData_holds (h.only rfl))))
    · exact invalidate_holds (medium_holds (dropStale_only ..) (dropData_holds (h.only rfl)))

theorem dropCopy_holds {t c id} (h : K.holds s) : K.holds (dropCopy t c id s) := h.only rfl

theorem dropWeights_holds {t n} (h : K.holds s) : K.holds (dropWeights t n s) := h.only rfl

theorem nextDrop_holds {t c keep} (h : K.holds s) (e : nextDrop s t c keep = some u) : K.holds u := by
  unfold nextDrop at e
  split at e
  · cases e
    exact h.only rfl
  · split at e
    · cases e
      exact h.only rfl
    · cases e

theorem dropN_holds {t c keep enough n} (h : K.holds s) : K.holds (dropN t c keep enough n s) := by
  induction n generalizing s with
  | zero => exact h
  | succ n ih =>
    unfold dropN
    split
    · exact h
    · split
      next found => exact ih (nextDrop_holds h found)
      next => exact h

theorem makeRoomBy_holds {t c keep removals enough} (h : K.holds s) (e : makeRoomBy t c keep removals enough s = some u) : K.holds u := by
  unfold makeRoomBy at e
  simp only at e
  split at e
  · cases e
    exact dropN_holds h
  · split at e
    · cases e
    · split at e
      · cases e
      · split at e
        · cases e
          exact foldl_holds (dropN_holds h) (fun _ _ k => removeScene_holds k)
        · cases e

theorem shrinkTo_holds {t c n} (h : K.holds s) (e : shrinkTo t c n s = some u) : K.holds u := makeRoomBy_holds h e

theorem shrinkAll_holds {c st wi lo} (h : K.holds s) (e : shrinkAll c st wi lo s = some u) : K.holds u := by
  obtain ⟨t, e, loft⟩ := Option.bind_eq_some_iff.mp e
  obtain ⟨v, stage, wings⟩ := Option.bind_eq_some_iff.mp e
  exact shrinkTo_holds (shrinkTo_holds (shrinkTo_holds h stage) wings) loft

theorem removeAll_holds {p n} (h : K.holds s) : K.holds (removeAll p n s) := by
  induction n generalizing s with
  | zero => exact h
  | succ n ih =>
    unfold removeAll
    split
    · exact h
    · exact ih (removeScene_holds h)

theorem retireModel_holds {t k} (h : K.holds s) : K.holds (retireModel t k s) :=
  holdFor_holds (modWork_holds (modStore_holds (fun _ => rfl) (removeAll_holds (h.only rfl))))

theorem makeRoomBeside_holds {keep t c n} (h : K.holds s) (e : makeRoomBeside keep t c n s = some u) : K.holds u :=
  makeRoomBy_holds h e

theorem makeRoom_holds {t c n} (h : K.holds s) (e : makeRoom t c n s = some u) : K.holds u := makeRoomBeside_holds h e

theorem openNew_holds {t} {x} (h : K.holds s) (e : openNew t s = (x, u)) : K.holds u := by
  unfold openNew at e
  cases e
  exact h.only rfl

theorem letGo_holds {t j ids} (h : K.holds s) : K.holds (letGo t j ids s) := by
  unfold letGo
  simp only
  split
  · exact h
  · exact h.only rfl

theorem closeStream_holds {t j} (h : K.holds s) : K.holds (closeStream t j s) := by
  unfold closeStream
  exact modStore_holds (fun _ => rfl) (letGo_holds h)

theorem tailRoom_holds {c n stage} (h : K.holds s) (e : tailRoom c n stage s = some u) : K.holds u := by
  unfold tailRoom at e
  split at e
  · cases e
  next found =>
    split at e
    · exact makeRoom_holds (makeRoom_holds h found) e
    · cases e
      exact makeRoom_holds h found

theorem putTail_holds {j m fp image sketch} (h : K.holds s) : K.holds (putTail j m fp image sketch s) := h.only rfl

theorem indexRoom_holds (h : K.holds s) (e : indexRoom s = some u) : K.holds u := by
  unfold indexRoom at e
  split at e
  · cases e
    exact h
  · split at e
    · cases e
      exact removeScene_holds h
    · cases e

/-- A scene that is sealed again, or anew. -/
theorem sealed_holds {id i : SceneId} {j f} (e : some (id, modStream j f s) = some (i, u)) (h : K.holds s) : K.holds u :=
  (show modStream j f s = u from congrArg Prod.snd (Option.some.inj e)) ▸ modStream_holds h

theorem sealTailOf_holds {j id} (h : K.holds s) (e : sealTailOf j s = some (id, u)) : K.holds u := by
  unfold sealTailOf at e
  simp only at e
  split at e
  · cases e
  split at e
  · cases e
  split at e
  · refine sealed_holds e ?_
    split
    · exact modStore_holds (fun _ => rfl) (queueWriteBack_holds (dropWorking_holds (medium_holds (dropStale_only ..)
        (dropData_holds (modScene_holds h)))))
    · exact modScene_holds h
  · split at e
    · cases e
    next found =>
      exact sealed_holds e (queueWriteBack_holds (modStore_holds (fun _ => rfl) (indexRoom_holds h found)))

theorem appendN_holds {m a n i last} (h : K.holds s) : K.holds (appendN m a n i last s).2.2.2 := by
  induction n generalizing i last s with
  | zero => exact h
  | succ n ih =>
    unfold appendN
    simp only
    split
    · exact h
    next id t sealed =>
      have before : K.holds t := by
        split at sealed
        · exact sealTailOf_holds h sealed
        · cases sealed; exact h
      split
      · split
        · exact putTail_holds before
        next found => exact ih (sealTailOf_holds (putTail_holds before) found)
      · exact ih (putTail_holds before)

theorem unmap_holds {c v} (h : K.holds s) : K.holds (unmap c v s) := h.only rfl

end

end Sys2Proof.Machine
end

-- What motion and delivery keep.
section
/-!
Placement and delivery: objects moved and mapped, cues, allotments, streams of weights, transfers to peers, and what the loss of a page ends (R223, R232, R242 to R245, R320, R369, R642).
-/
namespace Sys2Proof.Machine
open Sys2Proof

section
variable {K : Keeper} {s u : State}

theorem failMove_holds {t st what} (h : K.holds s) : K.holds (failMove t st what s) := finish_holds (h.only rfl)

theorem moveRoom_holds {t o tier} (h : K.holds s) (e : moveRoom t o tier s = some u) : K.holds u := by
  unfold moveRoom at e
  split at e
  · exact makeRoomBeside_holds h e
  · cases e
    exact h

theorem newScratch_snd_holds {c size stage} (h : K.holds s) : K.holds (newScratch c size stage s).2 := by
  simp only [newScratch, takeFree]
  refine (takeFree_snd_holds h).objects fun wf p mem => ?_
  rcases mem_kset mem with rfl | mem
  · rfl
  · exact wf p mem

theorem newScratch_holds {c size stage n} (h : K.holds s) (e : newScratch c size stage s = (n, u)) : K.holds u :=
  (show (newScratch c size stage s).2 = u from congrArg Prod.snd e) ▸ newScratch_snd_holds h

theorem mapObject_holds {c v bytes stage off} (e : mapObject c v bytes stage s = some (off, u)) (h : K.holds s) : K.holds u := by
  unfold mapObject at e
  simp only at e
  split at e
  · cases e
    exact h
  · obtain ⟨x, -, e⟩ := Option.map_eq_some_iff.mp e
    exact (Prod.mk.inj e).2 ▸ modStore_holds (fun _ => rfl) (takeFree_snd_holds (unmap_holds h))

theorem setPlaced_holds {c ids j p} (h : K.holds s) : K.holds (setPlaced c ids j p s) := by
  unfold setPlaced
  simp only
  split
  · exact h.only rfl
  · exact h.only rfl

theorem setPage_holds {c what stage} (h : K.holds s) : K.holds (setPage c what stage s) := by
  unfold setPage
  split
  · exact h.only rfl
  · exact h.only rfl

theorem askPage_holds {q c what stage background onward allocated} (h : K.holds s) : K.holds (askPage q c what stage background onward allocated s) := by
  unfold askPage
  simp only
  split
  · exact issueReads_holds (h.only rfl)
  · exact issueRead_holds (h.only rfl)

theorem copyPageUp_holds {q c stage what} (h : K.holds s) : K.holds (copyPageUp q c stage what s) := by
  unfold copyPageUp
  split
  · exact setPage_holds h
  · exact askPage_holds h

theorem copyUp_holds {q c id stage} (h : K.holds s) : K.holds (copyUp q c id stage s) := by
  unfold copyUp
  split
  · exact h
  · exact foldl_holds h (fun _ _ k => copyPageUp_holds k)

theorem writeBackNow_holds {c ids} (h : K.holds s) : K.holds (writeBackNow c ids s) := h.only rfl

theorem dropAbove_holds {c own ids} (h : K.holds s) : K.holds (dropAbove c own ids s) := by
  unfold dropAbove
  refine foldl_holds h (fun t x k => ?_)
  simp only
  split
  · split
    · exact k
    · split
      · split
        · exact k
        · exact k.only rfl
      · split
        · exact k
        · exact k.only rfl
  · split
    · split
      · split
        · exact k
        · exact k.only rfl
      · split
        · split
          · split
            · exact k
            · exact k.only rfl
          · split
            · exact k.only rfl
            · exact dropCopy_holds (k.only rfl)
        · split
          · split
            · exact k
            · exact k.only rfl
          · split
            · exact k.only rfl
            · exact dropCopy_holds (k.only rfl)
    · split
      · split
        · exact k
        · exact k.only rfl
      · split
        · split
          · split
            · exact k
            · exact k.only rfl
          · split
            · exact k.only rfl
            · exact dropCopy_holds (k.only rfl)
        · split
          · split
            · exact k
            · exact k.only rfl
          · split
            · exact k.only rfl
            · exact dropCopy_holds (k.only rfl)

theorem moveScenes_holds {t ids j tier place} (h : K.holds s) : K.holds (moveScenes t ids j tier place s) := by
  unfold moveScenes
  simp only
  split
  · split
    · refine modStream_holds (foldl_holds ?_ (fun _ _ k => copyUp_holds k))
      split
      · exact h.only rfl
      · exact h
    · refine foldl_holds ?_ (fun _ _ k => copyUp_holds k)
      split
      · exact h.only rfl
      · exact h
  · split
    · split
      · exact writeBackNow_holds (setPlaced_holds h)
      · exact dropAbove_holds (h.only rfl)
    · split
      · exact setPlaced_holds h
      · exact h

theorem moveWeights_holds {t n tier place} (h : K.holds s) : K.holds (moveWeights t n tier place s) := by
  unfold moveWeights
  split
  · exact h
  · simp only
    split
    · refine foldl_holds ?_ (fun _ _ k => copyPageUp_holds k)
      split
      · exact h.only rfl
      · exact h
    · split
      · split
        · split
          · split
            · exact h.only rfl
            · exact h
          · refine dropWeights_holds ?_
            split
            · exact h.only rfl
            · exact h
        · refine dropWeights_holds ?_
          split
          · split
            · exact h.only rfl
            · exact h
          · refine dropWeights_holds ?_
            split
            · exact h.only rfl
            · exact h
      · split
        · exact h.only rfl
        · exact h

theorem mem_kmod {α : Type} {m : KMap α} {n : Nat} {f : α → α} {p : Nat × α} (h : p ∈ kmod m n f) :
    p ∈ m ∨ ∃ x, (n, x) ∈ m ∧ p = (n, f x) := by
  unfold kmod at h
  split at h
  next x found => exact (mem_kset h).symm.imp_right fun e => ⟨x, kget_mem found, e⟩
  next => exact .inl h

/-- A change of one scratch object whose bytes keep their form. -/
theorem scratch_holds {j : Nat} {f : Scratch → Scratch} (formed : ∀ x, Memory.wf x.mem = true → Memory.wf (f x).mem = true)
    (h : K.holds s) : K.holds (modStore (fun st => { st with scratch := kmod st.scratch j f }) s) := by
  refine h.objects fun wf p mem => ?_
  rcases mem_kmod mem with mem | ⟨x, listed, rfl⟩
  · exact wf p mem
  · exact formed x (wf (j, x) listed)

theorem moveScratch_holds {j tier place} (h : K.holds s) : K.holds (moveScratch j tier place s) := scratch_holds (fun _ wf => wf) h

theorem moveObj_holds {t o tier place} (h : K.holds s) : K.holds (moveObj t o tier place s) := by
  unfold moveObj
  split
  · exact moveScenes_holds h
  · exact moveScenes_holds h
  · exact foldl_holds h (fun _ _ k => moveWeights_holds k)
  · exact moveScratch_holds h
  · exact h
  · exact h

theorem finishMove_holds {t o c} (h : K.holds s) : K.holds (finishMove t o c s) := settle_holds (h.only rfl)

theorem remap_holds {c what stage} {x} (e : remap c what stage s = some (x, u)) (h : K.holds s) : K.holds u := by
  unfold remap at e
  split at e
  · cases e
    exact h
  · split at e
    · cases e
      exact h
    · split at e
      · cases e
        exact h
      · exact mapObject_holds e (h.only rfl)

theorem failCue_holds {t st k id} (h : K.holds s) : K.holds (failCue t st k id s) := finish_holds (h.only rfl)

theorem usherLookup_holds {unit c id} (h : K.holds s) : K.holds (usherLookup unit c id s) := by
  unfold usherLookup
  simp only
  split
  · exact h.only rfl
  · exact h.only rfl

theorem translate_holds {mode unit c ids} (h : K.holds s) : K.holds (translate mode unit c ids s) := by
  unfold translate
  split
  · exact h
  · exact foldl_holds h (fun _ _ k => usherLookup_holds k)

theorem translateCue_holds {t es} (h : K.holds s) : K.holds (translateCue t es s) :=
  foldl_holds h (fun _ _ k => translate_holds k)

theorem setItem_holds {seq k f} (h : K.holds s) : K.holds (setItem seq k f s) := h.only rfl

theorem queueMessage_holds {k id m} (h : K.holds s) : K.holds (queueMessage k id m s) := h.only rfl

theorem startMessage_holds {k m} (h : K.holds s) : K.holds (startMessage k m s) := h.only rfl

theorem writeItem_holds {c op k i} (h : K.holds s) : K.holds (writeItem c op k i s) := by
  unfold writeItem
  simp only
  split
  · split
    · exact h
    · exact setItem_holds (h.only rfl)
  · exact modWork_holds (setItem_holds (foldl_holds h (fun _ _ k' => emit_holds (dma_holds k'))))

theorem finishVisible_holds {t last c} (h : K.holds s) : K.holds (finishVisible t last c s) := by
  unfold finishVisible
  simp only
  split
  · exact finish_holds (h.only rfl)
  · exact foldl_holds (h.only rfl) (fun _ _ k => emit_holds (dma_holds k))

theorem endIfDone_holds {t op} (h : K.holds s) : K.holds (endIfDone t op s) := by
  unfold endIfDone
  split
  · exact h
  · simp only
    split
    · exact finishVisible_holds (writeBitmap_holds h)
    · split
      · split
        · exact finishVisible_holds h
        · exact finishVisible_holds (writeBitmap_holds h)
      · split
        · split
          · exact finishVisible_holds h
          · exact finishVisible_holds h
        · exact finishVisible_holds h

theorem progressCue_holds {seq} (h : K.holds s) : K.holds (progressCue seq s) := by
  unfold progressCue
  split
  · simp only
    split
    · refine endIfDone_holds ?_
      split
      · exact h
      · refine foldl_holds h (fun t x k => ?_)
        split
        · exact k
        · split
          · exact k
          · exact writeItem_holds k
    · split
      · exact h
      · refine foldl_holds h (fun t x k => ?_)
        split
        · exact k
        · split
          · exact k
          · exact writeItem_holds k
  · exact h

theorem progressCues_holds (h : K.holds s) : K.holds (progressCues s) := foldl_holds h (fun _ _ k => progressCue_holds k)

theorem wantPage_holds {q c what} (h : K.holds s) : K.holds (wantPage q c what s) := by
  unfold wantPage
  split
  · exact h
  · exact askPage_holds h

theorem stageItems_holds {t op} (h : K.holds s) : K.holds (stageItems t op s) :=
  foldl_holds h (fun _ _ k => foldl_holds k (fun _ _ k' => wantPage_holds k'))

theorem modAtt_holds {seq f} (h : K.holds s) : K.holds (modAtt seq f s) := h.only rfl

theorem excludePages_holds {op p} (h : K.holds s) : K.holds (excludePages op p s) := h.only rfl

theorem beginAttend_holds {t op} (h : K.holds s) : K.holds (beginAttend t op s) := by
  unfold beginAttend
  simp only
  split
  · split
    · exact modAtt_holds (excludePages_holds (h.only rfl))
    · exact h.only rfl
  · split
    · exact modAtt_holds (excludePages_holds (h.only rfl))
    · exact h.only rfl

theorem failAtt_holds {t op st i id} (h : K.holds s) : K.holds (failAtt t op st i id s) := finish_holds (dropAtt_holds h)

theorem meetRow_holds {t seq i} (h : K.holds s) : K.holds (meetRow t seq i s) := by
  unfold meetRow
  split
  · exact h
  · simp only
    split
    · split
      · exact failAtt_holds h
      · split
        · exact h.only rfl
        · exact foldl_holds (h.only rfl) (fun _ _ k => wantPage_holds k)
    · split
      · exact h
      · exact foldl_holds h (fun _ _ k => wantPage_holds k)

theorem weightsRoom_holds {c n} (h : K.holds s) (e : weightsRoom c n s = some u) : K.holds u := by
  obtain ⟨t, wings, loft⟩ := Option.bind_eq_some_iff.mp e
  exact makeRoom_holds (makeRoom_holds h wings) loft

theorem modWs_holds {seq f} (h : K.holds s) : K.holds (modWs seq f s) := h.only rfl

theorem writeLayer_holds {op j} (h : K.holds s) : K.holds (writeLayer op j s) := by
  unfold writeLayer
  simp only
  split
  · split
    · exact h
    · exact modWs_holds (h.only rfl)
  · exact modWs_holds (emit_holds (dma_holds h))

theorem endStreamIfDone_holds {t op} (h : K.holds s) : K.holds (endStreamIfDone t op s) := by
  unfold endStreamIfDone
  split
  · exact h
  · simp only
    split
    · exact finishVisible_holds (writeBitmap_holds h)
    · split
      · exact finishVisible_holds h
      · exact finishVisible_holds h

theorem progressStream_holds {seq} (h : K.holds s) : K.holds (progressStream seq s) := by
  unfold progressStream
  split
  · simp only
    split
    · refine endStreamIfDone_holds (foldl_holds h (fun t x k => ?_))
      split
      · exact k
      · split
        · exact writeLayer_holds k
        · exact wantPage_holds k
    · refine foldl_holds h (fun t x k => ?_)
      split
      · exact k
      · split
        · exact writeLayer_holds k
        · exact wantPage_holds k
  · exact h

theorem endNet_holds {seq c} (h : K.holds s) : K.holds (endNet seq c s) := by
  unfold endNet
  split
  · exact finish_holds (h.only rfl)
  · exact h.only rfl

theorem startNet_holds {o} (h : K.holds s) : K.holds (startNet o s) := by
  unfold startNet
  simp only
  split
  · exact startMessage_holds (h.only rfl)
  · split
    · exact startMessage_holds (h.only rfl)
    · split
      · exact startMessage_holds (h.only rfl)
      · exact endNet_holds h

theorem beginNet_holds {t o} (h : K.holds s) : K.holds (beginNet t o s) := by
  unfold beginNet
  simp only
  split
  · exact startNet_holds (foldl_holds (h.only rfl) (fun _ _ k => wantPage_holds k))
  · exact foldl_holds (h.only rfl) (fun _ _ k => wantPage_holds k)

theorem setLoft_holds {c what b} (h : K.holds s) : K.holds (setLoft c what b s) := by
  unfold setLoft
  split
  · exact h.only rfl
  · exact h.only rfl

theorem rewritePage_holds {c what} (h : K.holds s) : K.holds (rewritePage c what s) := by
  unfold rewritePage
  simp only
  split
  · exact setLoft_holds (h.only rfl)
  · split
    · exact medium_holds (startItem_only ..) (h.only rfl)
    · exact medium_holds (startItem_only ..) (h.only rfl)

theorem movesLose_holds {c mine page} (h : K.holds s) : K.holds (movesLose c mine page s) := by
  unfold movesLose
  refine foldl_holds h (fun t x k => ?_)
  split
  · exact failMove_holds k
  · exact k

theorem xfersLose_holds {c mine page} (h : K.holds s) : K.holds (xfersLose c mine page s) := by
  refine kmap_holds (fun p x => ?_) h
  split <;> exact ⟨rfl, rfl, rfl, rfl, rfl⟩

theorem writeRow_holds {t md op row a4} (h : K.holds s) : K.holds (writeRow t md op row a4 s) := toHost_holds (toHost_holds h)

theorem computeAllot_holds {t a op} (h : K.holds s) : K.holds (computeAllot t a op s) :=
  foldl_holds h (fun _ _ k => foldl_holds k (fun _ _ k' => foldl_holds k' (fun _ _ h1 => writeRow_holds h1)))

theorem endAtt_holds {t op} (h : K.holds s) : K.holds (endAtt t op s) := by
  unfold endAtt
  simp only
  split
  · split
    · split
      · refine finish_holds ?_
        split
        · exact toHost_holds (modPerf2_holds (dropAtt_holds h))
        · exact modPerf2_holds (dropAtt_holds h)
      · split
        · refine finish_holds (writeBitmap_holds ?_)
          split
          · exact toHost_holds (modPerf2_holds (dropAtt_holds h))
          · exact modPerf2_holds (dropAtt_holds h)
        · refine finish_holds ?_
          split
          · exact toHost_holds (modPerf2_holds (dropAtt_holds h))
          · exact modPerf2_holds (dropAtt_holds h)
    · split
      · split
        · exact finish_holds (toHost_holds (modPerf2_holds (dropAtt_holds h)))
        · split
          · exact finish_holds (writeBitmap_holds (toHost_holds (modPerf2_holds (dropAtt_holds h))))
          · exact finish_holds (toHost_holds (modPerf2_holds (dropAtt_holds h)))
      · split
        · exact finish_holds (modPerf2_holds (dropAtt_holds h))
        · split
          · exact finish_holds (writeBitmap_holds (modPerf2_holds (dropAtt_holds h)))
          · exact finish_holds (modPerf2_holds (dropAtt_holds h))
  · split
    · refine finish_holds ?_
      split
      · exact toHost_holds (modPerf2_holds (dropAtt_holds h))
      · exact modPerf2_holds (dropAtt_holds h)
    · split
      · refine finish_holds (writeBitmap_holds ?_)
        split
        · exact toHost_holds (modPerf2_holds (dropAtt_holds h))
        · exact modPerf2_holds (dropAtt_holds h)
      · refine finish_holds ?_
        split
        · exact toHost_holds (modPerf2_holds (dropAtt_holds h))
        · exact modPerf2_holds (dropAtt_holds h)

theorem progressAtt_holds {seq} (h : K.holds s) : K.holds (progressAtt seq s) := by
  unfold progressAtt
  split
  · simp only
    split
    · split
      · exact endAtt_holds (foldl_holds h (fun _ _ k => releaseAllots_holds (modAtt_holds (computeAllot_holds k))))
      · exact foldl_holds h (fun _ _ k => releaseAllots_holds (modAtt_holds (computeAllot_holds k)))
    · exact foldl_holds h (fun _ _ k => releaseAllots_holds (modAtt_holds (computeAllot_holds k)))
  · exact h

theorem attsLose_holds {c id page} (h : K.holds s) : K.holds (attsLose c id page s) := by
  unfold attsLose
  refine foldl_holds h (fun t x k => ?_)
  split
  · exact k
  · simp only
    split
    · exact k
    · split
      · exact k
      · split
        · exact progressAtt_holds (k.only rfl)
        · exact failAtt_holds k

theorem cuesLose_holds {c id page} (h : K.holds s) : K.holds (cuesLose c id page s) := by
  unfold cuesLose
  refine foldl_holds h (fun t x k => ?_)
  split
  · exact k
  · split
    · exact k
    · split
      · exact k
      · split
        · exact progressCue_holds (k.only rfl)
        · exact failCue_holds k

theorem sceneLost_holds {c id page} (h : K.holds s) : K.holds (sceneLost c id page s) :=
  dropCopies_holds (movesLose_holds (xfersLose_holds (attsLose_holds (cuesLose_holds h))))

theorem retireScene_holds {c id page} (h : K.holds s) : K.holds (retireScene c id page s) := sceneLost_holds (h.only rfl)

theorem netsLose_holds {n page} (h : K.holds s) : K.holds (netsLose n page s) := by
  unfold netsLose
  refine foldl_holds h (fun t x k => ?_)
  split
  · exact finish_holds (k.only rfl)
  · exact k

theorem streamsLose_holds {n layer} (h : K.holds s) : K.holds (streamsLose n layer s) := by
  unfold streamsLose
  refine foldl_holds h (fun t x k => ?_)
  split
  · exact k
  · simp only
    split
    · exact k
    · split
      · exact progressStream_holds (k.only rfl)
      · exact finish_holds (k.only rfl)

theorem setLost_holds {c n layer} (h : K.holds s) : K.holds (setLost c n layer s) :=
  dropCopies_holds (movesLose_holds (xfersLose_holds (netsLose_holds (streamsLose_holds h))))

theorem retireSet_holds {c n layer} (h : K.holds s) : K.holds (retireSet c n layer s) := by
  unfold retireSet
  split
  · exact h
  · exact setLost_holds (h.only rfl)

theorem retirePage_holds {c what found} (h : K.holds s) : K.holds (retirePage c what found s) := by
  unfold retirePage
  split
  · exact retireScene_holds h
  · exact retireSet_holds h

theorem losePage_holds {c what} (h : K.holds s) : K.holds (losePage c what s) := by
  unfold losePage
  split
  · exact h
  · split
    · exact rewritePage_holds h
    · exact retirePage_holds h

theorem losePages_holds {l} (h : K.holds s) : K.holds (losePages l s) := foldl_holds h (fun _ _ k => losePage_holds k)

end

end Sys2Proof.Machine
end

-- What changes of the medium and its health keep.
section
/-!
The Loft medium and the health of the device: failed blocks and dies, rows that are lost, and causes raised (R265 to R298, R807, R808, R818).
-/
namespace Sys2Proof.Machine
open Sys2Proof

section
variable {K : Keeper} {s u : State}

theorem scrubBlock_holds {d b o lost} (h : K.holds s) : K.holds (scrubBlock d b o lost s) := by
  unfold scrubBlock
  simp only
  split
  · exact h.only rfl
  · split
    · exact h.only rfl
    · exact medium_holds (relocate_only ..) (h.only rfl)
  · split
    · exact medium_holds (badBlock_only ..) (h.only rfl)
    · exact h.only rfl
  · exact medium_holds (badBlock_only ..) (losePages_holds (h.only rfl))

theorem healthRecord_holds {kind outcome target repl} (h : K.holds s) : K.holds (healthRecord kind outcome target repl s) :=
  h.only rfl

theorem pldmEvent_holds {sensor reading} (h : K.holds s) : K.holds (pldmEvent sensor reading s) := by
  unfold pldmEvent
  split
  · exact emit_holds h
  · exact h.only rfl

theorem reportHealth_holds {c} (h : K.holds s) : K.holds (reportHealth c s) := by
  simp only [reportHealth, takeFree]
  split
  · exact h
  · split
    · exact h.only rfl
    · exact pldmEvent_holds (h.only rfl)

theorem failService_holds (h : K.holds s) : K.holds (failService s) := by
  unfold failService
  split
  · exact settle_holds (foldl_holds (settle_holds (abortAll_fst_holds h)) (fun _ _ k => finishCore_holds (k.only rfl)))
  · exact h

theorem syncHealth_holds (h : K.holds s) : K.holds (syncHealth s) := by
  unfold syncHealth
  simp only
  split
  · exact reportHealth_holds (h.only rfl)
  · exact failService_holds (reportHealth_holds (h.only rfl))

theorem raiseCause_holds {bits} (h : K.holds s) : K.holds (raiseCause bits s) := by
  unfold raiseCause
  simp only
  split
  · exact reportHealth_holds (h.only rfl)
  · exact failService_holds (reportHealth_holds (h.only rfl))

theorem updateRo_holds (h : K.holds s) : K.holds (updateRo s) := by
  unfold updateRo
  refine syncHealth_holds ?_
  split
  · exact h.only rfl
  · exact h.only rfl

theorem checkMedium_holds (h : K.holds s) : K.holds (checkMedium s) := by
  unfold checkMedium
  split
  · exact updateRo_holds (h.only rfl)
  · exact syncHealth_holds h

theorem retireBlock_holds {d b} (h : K.holds s) : K.holds (retireBlock d b s) := healthRecord_holds (modLoft_holds (h.only rfl))

theorem retireBad_holds (h : K.holds s) : K.holds (retireBad s) :=
  foldl_holds h (fun _ _ k => foldl_holds k (fun _ _ k' => retireBlock_holds k'))

theorem chaseMoves_holds (h : K.holds s) : K.holds (chaseMoves s) := by
  unfold chaseMoves
  split
  · exact h
  · exact foldl_holds h (fun _ _ k => foldl_holds k (fun _ _ k' => medium_holds (moveData_only ..) k'))

theorem completeItem_holds {a0} (h : K.holds s) : K.holds (completeItem a0 s) := by
  unfold completeItem
  simp only
  split
  · split
    · exact formRecord_holds (modScene_holds (h.only rfl))
    · exact modScene_holds (h.only rfl)
  · split
    · split
      · exact formRecord_holds (h.only rfl)
      · exact h.only rfl
    · exact h.only rfl
  · exact foldl_holds (h.only rfl) (fun _ _ k => setLoft_holds k)
  · exact invalidate_holds (h.only rfl)
  · exact h.only rfl

theorem completeItems_holds (h : K.holds s) : K.holds (completeItems s) := by
  unfold completeItems
  refine foldl_holds h (fun t x k => ?_)
  split
  · exact completeItem_holds k
  · exact k

theorem afterMedium_holds (h : K.holds s) : K.holds (afterMedium s) :=
  checkMedium_holds (medium_holds (pump_only ..) (retireBad_holds (medium_holds (dropStale_only ..) (chaseMoves_holds (completeItems_holds h)))))

theorem endPass_holds (h : K.holds s) : K.holds (endPass s) := by
  unfold endPass
  split
  · exact h.only rfl
  · exact h

theorem scrubPass_snd_holds {o l} (h : K.holds s) : K.holds (scrubPass o l s).2.2 := by
  unfold scrubPass
  dsimp only
  exact afterMedium_holds (endPass_holds (foldl_holds h fun _ _ h => scrubBlock_holds h))

theorem scrubPass_holds {o l m n} (h : K.holds s) (e : scrubPass o l s = (m, n, u)) : K.holds u :=
  (show (scrubPass o l s).2.2 = u from congrArg (fun x => x.2.2) e) ▸ scrubPass_snd_holds h

theorem endRivals_holds {t checks} (h : K.holds s) : K.holds (endRivals t checks s) := foldl_holds h (fun _ _ k => finish_holds k)

theorem reportRepair_holds (h : K.holds s) : K.holds (reportRepair s) := by
  unfold reportRepair
  simp only
  split
  · exact postEvent_holds (syncHealth_holds h)
  · exact syncHealth_holds h

theorem recountRows_holds (h : K.holds s) : K.holds (recountRows s) := h.only rfl

theorem killLink_holds {p dir} (h : K.holds s) : K.holds (killLink p dir s) := syncHealth_holds (h.only rfl)

theorem steerLanes_holds {p dir failing} (h : K.holds s) : K.holds (steerLanes p dir failing s) := by
  unfold steerLanes
  split
  · exact h
  · split
    · exact h
    · simp only
      split
      · exact killLink_holds (h.only rfl)
      · exact h.only rfl

theorem repairRow_snd_holds {stack row} (h : K.holds s) : K.holds (repairRow stack row s).2 := by
  unfold repairRow
  simp only
  split
  · exact syncHealth_holds (healthRecord_holds (modHealth_holds (fun _ => rfl) h))
  · exact healthRecord_holds (modHealth_holds (fun _ => rfl) h)

theorem repairRow_holds {stack row n} (h : K.holds s) (e : repairRow stack row s = (n, u)) : K.holds u :=
  (show (repairRow stack row s).2 = u from congrArg Prod.snd e) ▸ repairRow_snd_holds h

theorem repairWings_holds {t v} (h : K.holds s) : K.holds (repairWings t v s) := by
  unfold repairWings
  split
  · exact finish_holds h
  · split
    next x y u found =>
      exact finish_holds (repairRow_holds h found)

theorem failRow_holds {stack row} (h : K.holds s) : K.holds (failRow stack row s) := by
  unfold failRow
  split
  · exact raiseCause_holds (h.only rfl)
  · exact repairRow_snd_holds h

theorem fileUnits_snd_holds {d} (h : K.holds s) : K.holds (fileUnits d s).2 := by
  unfold fileUnits
  dsimp only
  exact modLoft_holds h

theorem clearUnits_holds {d} (h : K.holds s) : K.holds (clearUnits d s) := h.only rfl

theorem endStripes_holds {d} (h : K.holds s) : K.holds (endStripes d s) := by
  unfold endStripes
  refine foldl_holds h (fun t x k => ?_)
  split
  · split
    · exact k.only rfl
    · exact k
  · exact k

theorem redirectLoads_holds {d} (h : K.holds s) : K.holds (redirectLoads d s) :=
  foldl_holds h (fun _ _ k => foldl_holds (foldl_holds (k.only rfl) (fun _ _ k' => medium_holds (reachDie_only ..) k')) (fun _ _ k' => medium_holds (leaveDie_only ..) k'))

theorem redirectReads_holds {d} (h : K.holds s) : K.holds (redirectReads d s) := by
  unfold redirectReads
  refine redirectLoads_holds (foldl_holds h (fun t x k => ?_))
  simp only
  split
  · exact k.only rfl
  · exact foldl_holds (foldl_holds (k.only rfl) (fun _ _ k' => medium_holds (reachDie_only ..) k')) (fun _ _ k' => medium_holds (leaveDie_only ..) k')

theorem doubleDie_holds (h : K.holds s) : K.holds (doubleDie s) := by
  unfold doubleDie
  refine raiseCause_holds ?_
  split
  · exact h.only rfl
  · exact h

theorem failDie_holds {d} (h : K.holds s) : K.holds (failDie d s) := by
  unfold failDie
  simp only
  split
  · exact afterMedium_holds (losePages_holds (doubleDie_holds (healthRecord_holds (redirectReads_holds (modLoft_holds (fileUnits_snd_holds (clearUnits_holds (endStripes_holds (h.only rfl)))))))))
  · exact afterMedium_holds (losePages_holds (healthRecord_holds (redirectReads_holds (modLoft_holds (fileUnits_snd_holds (clearUnits_holds (endStripes_holds (h.only rfl))))))))

theorem blockFails_holds {d b} (h : K.holds s) : K.holds (blockFails d b s) := by
  unfold blockFails
  simp only
  split
  · exact failDie_holds (modDie_holds (medium_holds (badBlock_only ..) h))
  · exact afterMedium_holds (modDie_holds (medium_holds (badBlock_only ..) h))

theorem repairDie_holds {t d} (h : K.holds s) : K.holds (repairDie t d s) := by
  unfold repairDie
  split
  · exact finish_holds h
  · split
    · exact finish_holds h
    · simp only
      split
      · exact finish_holds h
      · exact finish_holds (failDie_holds h)

theorem beginShutdown_holds {restart} (h : K.holds s) : K.holds (beginShutdown restart s) := h.only rfl

theorem reportQuiesce_holds {was} (h : K.holds s) : K.holds (reportQuiesce was s) := by
  unfold reportQuiesce
  split
  · exact h
  · exact h.only rfl

theorem dropPageCopy_holds {stage c what} (h : K.holds s) : K.holds (dropPageCopy stage c what s) := by
  unfold dropPageCopy
  split
  · exact h
  · simp only
    split
    · split
      · split
        · split
          · exact h
          · exact retirePage_holds h
        · split
          · exact h.only rfl
          · exact retirePage_holds (h.only rfl)
      · split
        · split
          · exact h
          · exact retirePage_holds h
        · split
          · exact h.only rfl
          · exact retirePage_holds (h.only rfl)
    · split
      · split
        · exact h.only rfl
        · exact retirePage_holds (h.only rfl)
      · split
        · exact h.only rfl
        · exact retirePage_holds (h.only rfl)

theorem poisonTails_holds {stage l} (h : K.holds s) : K.holds (poisonTails stage l s) := h.only rfl

theorem poisonUnits_holds {stage l} (h : K.holds s) : K.holds (poisonUnits stage l s) := by
  unfold poisonUnits
  refine h.objects fun wf p mem => ?_
  obtain ⟨q, listed, rfl⟩ := List.mem_map.mp mem
  dsimp only
  split <;> exact wf q listed

theorem loseRow_holds {stage o} (h : K.holds s) : K.holds (loseRow stage o s) :=
  foldl_holds (poisonTails_holds (poisonUnits_holds h)) (fun _ _ k => dropPageCopy_holds k)

theorem failRun_holds {p c stageRow} (h : K.holds s) : K.holds (failRun p c stageRow s) := by
  simp only [failRun, takeFree]
  split
  · exact h
  · exact haltRun_holds (modRun_holds (aside_holds (fun _ => ⟨rfl, rfl, rfl, rfl, rfl⟩) (h.only rfl)))

theorem dropReaching_holds {p c} (h : K.holds s) : K.holds (dropReaching p c s) := by
  unfold dropReaching
  split
  · exact h
  · refine kmap_holds (fun q x => ?_) h
    split <;> exact ⟨rfl, rfl, rfl, rfl, rfl⟩

theorem returnAllots_holds {c} (h : K.holds s) : K.holds (returnAllots c s) := by
  unfold returnAllots
  refine foldl_holds h (fun t x k => ?_)
  simp only
  split
  · exact k
  · exact releaseAllots_holds (k.only rfl)

theorem dropSliceCopies_holds (h : K.holds s) : K.holds (dropSliceCopies s) := by
  unfold dropSliceCopies
  split
  · exact h
  · split
    next x y t found =>
      exact modWork_holds (takeFree_holds h found)

end

end Sys2Proof.Machine
end

-- What repairs and a Dawn keep.
section
/-!
Repairs of clusters and links, and the phases of a Dawn: these change the cluster map, the repair map and whether the fuses are loaded (R52 to R68, R113 to R120, R813 to R822).
-/
namespace Sys2Proof.Machine
open Sys2Proof

section
variable {K : Keeper} {W : Warden} {s u : State}

/-- Any change of the health block is kept. -/
theorem modHealth_kept {f : HealthBlk → HealthBlk} (h : W.holds s) : W.holds (modHealth f s) :=
  W.kept (s := s) ⟨rfl, rfl, List.suffix_refl _, fun shaped => shaped_iff.mpr (shaped_iff (s := s).mp shaped)⟩ h

theorem modCluster_kept {p : Nat} {f : Cluster → Cluster} (formed : ∀ c, Formed c → Formed (f c)) (h : W.holds s) :
    W.holds (modCluster p f s) :=
  W.kept (.modCluster (formed _)) h

theorem addDefect_holds {p} (h : W.holds s) : W.holds (addDefect p s) := modHealth_kept h

theorem retireCluster_holds {p c stageRow} (h : W.holds s) : W.holds (retireCluster p c stageRow s) := by
  unfold retireCluster
  exact addDefect_holds (modCluster_kept (fun _ _ => formed_fresh.of rfl rfl rfl rfl) (modWork_holds (failRun_holds
    (dropReaching_holds (returnAllots_holds (dropSliceCopies_holds h))))))

theorem installUnderstudy_holds {p c v} (h : W.holds s) : W.holds (installUnderstudy p c v s) :=
  healthRecord_holds (modCluster_kept (fun _ _ => formed_fresh.of rfl rfl rfl rfl) h)

theorem dropUnderstudy_holds {p} (h : W.holds s) : W.holds (dropUnderstudy p s) :=
  addDefect_holds (modCluster_kept (fun _ formed => formed.of rfl rfl rfl rfl) h)

theorem takeOver_holds {p stageRow lost} (h : W.holds s) : W.holds (takeOver p stageRow lost s) := by
  unfold takeOver
  simp only
  split
  · exact reportRepair_holds (recountRows_holds (installUnderstudy_holds (loseRow_holds (retireCluster_holds h))))
  · exact raiseCause_holds (healthRecord_holds (recountRows_holds (loseRow_holds (retireCluster_holds h))))

theorem failCluster_holds {p stageRow lost} (h : W.holds s) : W.holds (failCluster p stageRow lost s) := by
  unfold failCluster
  split
  · exact takeOver_holds h
  · split
    · exact syncHealth_holds (dropUnderstudy_holds h)
    · exact h

theorem healMesh_holds {n} (h : W.holds s) : W.holds (healMesh n s) := by
  induction n generalizing s with
  | zero => exact h
  | succ n ih =>
    simp only [healMesh, takeFree]
    split
    · exact h
    · exact ih (failCluster_holds (h.only rfl))

theorem repairCluster_holds {t c} (h : W.holds s) : W.holds (repairCluster t c s) := by
  unfold repairCluster
  split
  · exact finish_holds (reportRepair_holds (recountRows_holds (addDefect_holds (installUnderstudy_holds
      (modCluster_kept (fun _ formed => formed.of rfl rfl rfl rfl) h)))))
  · exact finish_holds h

theorem repairLanes_holds {t p o} (h : W.holds s) : W.holds (repairLanes t p o s) := by
  simp only [repairLanes, takeFree]
  have steered := healMesh_holds (n := 176) (foldl_holds (l := o.lanes.filter fun x => (linkAt p x.1).isSome && decide (x.2 ≤ linkLanes)) h
    fun _ x h => steerLanes_holds (p := p) (dir := x.1) (failing := x.2) h)
  split
  · exact finish_holds steered
  · exact finish_holds (update_holds steered)

theorem failRegion_holds {k} (h : W.holds s) : W.holds (failRegion k s) := by
  unfold failRegion
  refine foldl_holds ?_ (fun _ _ k' => addDefect_holds k')
  split
  · exact foldl_holds h (fun _ _ k' => failCluster_holds k')
  · exact h

theorem dropFree_holds {k} (h : W.holds s) : W.holds (dropFree k s) := by
  unfold dropFree
  split
  · exact foldl_holds h (fun _ _ k' => dropUnderstudy_holds k')
  · exact h

theorem selfTest_snd_holds {kind o} (h : W.holds s) : W.holds (selfTest kind o s).2.2 := by
  unfold selfTest
  split
  · exact syncHealth_holds (foldl_holds h fun _ _ h => dropUnderstudy_holds h)
  · exact foldl_holds h fun s _ h => failRow_holds h
  · exact foldl_holds h fun _ _ h => failDie_holds h

theorem selfTest_holds {kind o m n} (h : W.holds s) (e : selfTest kind o s = (m, n, u)) : W.holds u :=
  (show (selfTest kind o s).2.2 = u from congrArg (fun x => x.2.2) e) ▸ selfTest_snd_holds h

theorem images_holds {k : Nat} {f : FwSlot → FwSlot} (formed : ∀ x, Memory.wf x.image = true → Memory.wf (f x).image = true)
    (h : K.holds s) : K.holds { s with fw := kmodD s.fw k FwSlot.fresh f } := by
  refine h.images fun wf p mem => ?_
  rcases mem_kset mem with rfl | mem
  · refine formed _ ?_
    unfold kgetD
    cases found : kget s.fw k with
    | none => rfl
    | some x => exact wf _ (kget_mem found)
  · exact wf p mem

theorem recordVerdict_holds {k v} (h : K.holds s) : K.holds (recordVerdict k v s) := images_holds (fun _ wf => wf) h

theorem judgeSlot_holds {k} (h : K.holds s) : K.holds (judgeSlot k s) := by
  unfold judgeSlot
  simp only
  split
  · exact h
  · refine h.images fun wf p mem => ?_
    rcases mem_kmod mem with mem | ⟨x, listed, rfl⟩
    · exact wf p mem
    · exact wf (k, x) listed

theorem dropVolatile_holds (h : K.holds s) : K.holds (dropVolatile s) := by
  unfold dropVolatile
  have cleared : K.holds { s with clusters := kmap s.clusters fun _ c =>
      { Cluster.fresh with mapState := c.mapState, logical := c.logical, rowsUsed := c.rowsUsed } } :=
    h.kmap (fun _ _ _ => formed_fresh.of rfl rfl rfl rfl) fun _ _ => rfl
  exact cleared.memories rfl id (fun _ _ none => nomatch none) fun _ _ none => nomatch none

theorem kept_reset {f : Nat → Cluster → Cluster} (pending : u.pending = s.pending) (fuses : fused u = fused s) (out : u.out = s.out)
    (clusters : u.clusters = kmap s.clusters f) (formed : ∀ p c, Formed (f p c)) (images : u.fw = s.fw)
    (windows : u.coherent = s.coherent) (objects : u.store.scratch = []) : Kept s u := by
  refine ⟨pending, fuses, out ▸ List.suffix_refl _, fun shaped => ?_⟩
  obtain ⟨keys, -, fw, coherent, -⟩ := shaped_iff.mp shaped
  rw [shaped_iff, clusters, images, windows, objects]
  refine ⟨(keys_kmap s.clusters f).symm ▸ keys, fun q mem => ?_, fw, coherent, fun _ none => nomatch none⟩
  obtain ⟨p, -, rfl⟩ := List.mem_map.mp mem
  exact formed _ _

theorem resetAll_holds {keep} (h : W.holds s) : W.holds (resetAll keep s) := by
  unfold resetAll
  refine medium_holds (dropStale_only ..) (dropVolatile_holds (W.kept (s := s) ?_ h))
  exact kept_reset (f := fun _ c => { Cluster.fresh with rowsUsed := c.rowsUsed }) rfl rfl rfl rfl
    (fun _ _ => formed_fresh.of rfl rfl rfl rfl) rfl rfl rfl

theorem clearFailed_holds (h : K.holds s) : K.holds (clearFailed s) := reportHealth_holds (h.only rfl)

theorem portsDown_holds (h : K.holds s) : K.holds (portsDown s) := h.only rfl

theorem startDawn_holds (h : W.holds s) : W.holds (startDawn s) := by
  unfold startDawn
  exact updateRo_holds (clearFailed_holds (update_holds (resetAll_holds h)))

theorem setSupply_holds {mv} (h : K.holds s) : K.holds (setSupply mv s) := h.only rfl

theorem powerUp_holds (h : W.holds s) : W.holds (powerUp s) := by
  unfold powerUp
  exact update_holds (resetAll_holds (h.only rfl))

theorem stopDawn_holds {bits} (h : K.holds s) : K.holds (stopDawn bits s) := raiseCause_holds (h.only rfl)

theorem judgeSlots_holds (h : K.holds s) : K.holds (judgeSlots s) := by
  unfold judgeSlots
  simp only
  split
  · exact judgeSlot_holds h
  · exact judgeSlot_holds (judgeSlot_holds h)

theorem measureFuse_holds {slot} (h : K.holds s) : K.holds (measureFuse slot s) := h.only rfl

theorem enterPhase_holds {p domains} (h : K.holds s) : K.holds (enterPhase p domains s) := h.only rfl

theorem enterTrim_holds (h : K.holds s) : K.holds (enterTrim s) := by
  unfold enterTrim
  split
  next x y t found =>
    exact enterPhase_holds (modPwr_holds (takeFree_holds h found))

theorem loadedFuses_holds {b : Bool} {pwr} (h : W.holds s) : W.holds { s with fuses := { s.fuses with loaded := b }, pwr := pwr } :=
  W.kept (s := s) ⟨rfl, rfl, List.suffix_refl _, fun shaped => shaped_iff.mpr (shaped_iff (s := s).mp shaped)⟩ h

theorem endFuse_holds {o} (h : W.holds s) : W.holds (endFuse o s) := by
  unfold endFuse
  simp only
  split
  · exact stopDawn_holds (loadedFuses_holds h)
  · have judged := measureFuse_holds (slot := bootSlot s) (judgeSlots_holds (loadedFuses_holds (b := true) (pwr := s.pwr) h))
    split
    · refine stopDawn_holds (measureFuse_holds ?_)
      split
      · exact update_holds (modDev_holds (judgeSlots_holds (loadedFuses_holds h)))
      · exact modDev_holds (judgeSlots_holds (loadedFuses_holds h))
    · refine enterTrim_holds (measureFuse_holds ?_)
      split
      · exact update_holds (modDev_holds (judgeSlots_holds (loadedFuses_holds h)))
      · exact modDev_holds (judgeSlots_holds (loadedFuses_holds h))

theorem measureHoldup_holds {us} (h : K.holds s) : K.holds (measureHoldup us s) := by
  unfold measureHoldup
  simp only
  split
  · exact postEvent_holds (syncHealth_holds (h.only rfl))
  · exact syncHealth_holds (h.only rfl)

theorem endPhy_holds {o} (h : K.holds s) : K.holds (endPhy o s) := by
  unfold endPhy
  simp only
  split
  · exact stopDawn_holds (measureHoldup_holds h)
  · exact enterPhase_holds (measureHoldup_holds h)

theorem foldl_fst_holds {α β : Type} {f : State × α → β → State × α} {l : List β} {q : State × α}
    (each : ∀ q x, K.holds q.1 → K.holds (f q x).1) (h : K.holds q.1) : K.holds (l.foldl f q).1 := by
  induction l generalizing q with
  | nil => exact h
  | cons x l ih => exact ih (each q x h)

theorem foldl_snd_holds {α β : Type} {f : α × State → β → α × State} {l : List β} {q : α × State}
    (each : ∀ q x, K.holds q.2 → K.holds (f q x).2) (h : K.holds q.2) : K.holds (l.foldl f q).2 := by
  induction l generalizing q with
  | nil => exact h
  | cons x l ih => exact ih (each q x h)

theorem endWings_holds {o} (h : K.holds s) : K.holds (endWings o s) := by
  unfold endWings
  have repaired : K.holds (o.wingsRows.foldl (fun q p =>
      if q.1.health.wingsRsv == 0 then (q.1, false) else ((repairRow p.1 p.2 q.1).2, q.2)) (s, true)).1 := by
    refine foldl_fst_holds (fun q p h => ?_) h
    split
    · exact h
    · exact repairRow_snd_holds h
  simp only
  split
  · exact stopDawn_holds repaired
  · exact enterPhase_holds (update_holds repaired)

theorem dropUnnamed_holds (h : K.holds s) : K.holds (dropUnnamed s) := medium_holds (dropStale_only ..) (h.only rfl)

theorem loadIndex_holds {o} (h : K.holds s) : K.holds (loadIndex o s) := by
  unfold loadIndex
  simp only
  split <;> exact h.only rfl

theorem writeCheckpoint_holds (h : K.holds s) : K.holds (writeCheckpoint s) := h.only rfl

theorem dawnCheckpoint_holds (h : K.holds s) : K.holds (dawnCheckpoint s) := h.only rfl

theorem endLoft_holds {o} (h : K.holds s) : K.holds (endLoft o s) := by
  unfold endLoft
  refine enterPhase_holds ?_
  split
  · refine foldl_holds (dropUnnamed_holds (loadIndex_holds h)) (fun t x k => ?_)
    split
    · exact failDie_holds k
    · exact k
  · refine startJournal_holds (afterMedium_holds (dawnCheckpoint_holds (foldl_holds (dropUnnamed_holds (loadIndex_holds h)) (fun t x k => ?_))))
    split
    · exact failDie_holds k
    · exact k

theorem replaceRows_snd_holds {p n} (h : K.holds s) : K.holds (replaceRows p n s).2 := by
  unfold replaceRows
  dsimp only
  split
  · exact foldl_holds (aside_holds (fun _ => ⟨rfl, rfl, rfl, rfl, rfl⟩) h) fun _ _ h => healthRecord_holds h
  · exact healthRecord_holds (foldl_holds (aside_holds (fun _ => ⟨rfl, rfl, rfl, rfl, rfl⟩) h) fun _ _ h => healthRecord_holds h)

theorem setMap_holds {bad} (h : W.holds s) : W.holds (setMap bad s) := by
  unfold setMap
  refine W.kept (s := s) ⟨rfl, rfl, List.suffix_refl _, fun shaped => ?_⟩ h
  obtain ⟨-, formed, rest⟩ := shaped_iff.mp shaped
  refine shaped_iff.mpr ⟨?_, fun q mem => ?_, rest⟩
  · have keys : ordered (upto 176) = true := by decide +kernel
    simpa [Function.comp_def] using keys
  · obtain ⟨p, -, rfl⟩ := List.mem_map.mp mem
    dsimp only
    split <;> exact (formed_cluster formed p).of rfl rfl rfl rfl

theorem mendMesh_snd_holds {n bad} (h : W.holds s) : W.holds (mendMesh n bad s).2 := by
  induction n generalizing bad s with
  | zero => exact setMap_holds h
  | succ n ih =>
    simp only [mendMesh, takeFree]
    split
    · exact setMap_holds h
    · exact ih (update_holds (setMap_holds h))

/-- The lanes, rows and defects that CLUSTERS has found are dealt with. -/
def repairs (o : PhaseOutcome) (s : State) : List Nat × State :=
  let s := o.lanes.foldl (fun s x => steerLanes x.1 x.2.1 x.2.2 s) s
  let (short, s) := o.stageRows.foldl (fun q x =>
    let (ok, s) := replaceRows x.1 x.2 q.2
    (if ok then q.1 else q.1 ++ [x.1], s)) (([] : List Nat), s)
  let bad := s.health.repairMap ++ ((o.defective ++ short).eraseDups.filter fun p => !s.health.repairMap.contains p && decide (p < 176))
  if 16 < bad.length then (bad, setMap bad s) else mendMesh 176 bad s

theorem repairs_snd_holds {o} (h : W.holds s) : W.holds (repairs o s).2 := by
  unfold repairs
  have steered := foldl_holds (l := o.lanes) h fun s x h => steerLanes_holds (p := x.1) (dir := x.2.1) (failing := x.2.2) h
  have replaced : W.holds (o.stageRows.foldl (fun q x =>
      let (ok, s) := replaceRows x.1 x.2 q.2
      (if ok then q.1 else q.1 ++ [x.1], s)) (([] : List Nat), o.lanes.foldl (fun s x => steerLanes x.1 x.2.1 x.2.2 s) s)).2 :=
    foldl_snd_holds (fun _ _ h => replaceRows_snd_holds h) steered
  simp only
  split
  · exact setMap_holds replaced
  · exact mendMesh_snd_holds replaced

/-- CLUSTERS ends with these defects. -/
def clustersDone (o : PhaseOutcome) (bad : List Nat) (s : State) : State :=
  let failed := fun (n : Nat) (was is : Bool) (s : State) =>
    if is && !was then healthRecord 9 2 (Config.recordTarget 9 n 0) (Config.recordRepl 9 n none) s else s
  let s := failed 1 s.health.stagehandFailed (o.stagehandFails && hasStagehand s)
    (failed 0 s.health.prompterFailed (o.prompterFails && hasPrompter s) s)
  let s := modHealth (fun h => { h with repairMap := bad
                                        prompterFailed := o.prompterFails && hasPrompter s
                                        stagehandFailed := o.stagehandFails && hasStagehand s }) s
  let s := recountRows s
  let units := if s.health.prompterFailed || s.health.stagehandFailed then 2 ^ 10 else 0
  if 16 < bad.length then stopDawn (2 ^ 16 + 2 ^ 18 + units) s
  else
    let s := enterPhase 7 0 s
    raiseCause units s

theorem recordUnit_holds {b : Bool} {m n k l : Nat} (h : K.holds s) : K.holds (if b then healthRecord m n k l s else s) := by
  split
  · exact healthRecord_holds h
  · exact h

theorem clustersDone_holds {o bad} (h : W.holds s) : W.holds (clustersDone o bad s) := by
  unfold clustersDone
  dsimp only
  split
  · exact stopDawn_holds (recountRows_holds (modHealth_kept (recordUnit_holds (recordUnit_holds h))))
  · exact raiseCause_holds (enterPhase_holds (recountRows_holds (modHealth_kept (recordUnit_holds (recordUnit_holds h)))))

theorem endClusters_holds {o} (h : W.holds s) : W.holds (endClusters o s) := clustersDone_holds (repairs_snd_holds h)

theorem measureConfig_holds (h : K.holds s) : K.holds (measureConfig s) := h.only rfl

theorem openConns_holds {c} (h : K.holds s) : K.holds (openConns c s) := foldl_holds h (fun _ _ k => k.only rfl)

theorem resumePrograms_holds (h : K.holds s) : K.holds (resumePrograms s) := by
  unfold resumePrograms
  refine startJournal_holds (medium_holds (pump_only ..) ?_)
  split
  · exact h.only rfl
  · exact h

theorem actForceRo_holds (h : K.holds s) : K.holds (actForceRo s) := by
  unfold actForceRo
  split
  · exact h
  · exact updateRo_holds (h.only rfl)

theorem actQuiesce_holds (h : K.holds s) : K.holds (actQuiesce s) := by
  unfold actQuiesce
  split
  · exact h
  · exact reportQuiesce_holds (h.only rfl)

theorem endHouse_holds (h : K.holds s) : K.holds (endHouse s) :=
  resumePrograms_holds (actForceRo_holds (actQuiesce_holds (modPwr_holds (modDev_holds (measureConfig_holds (foldl_holds (h.only rfl) (fun _ _ k => openConns_holds k)))))))

theorem writeRecords_holds {n} (h : K.holds s) : K.holds (writeRecords n s) := by
  unfold writeRecords
  simp only
  split
  · exact h
  · exact h.only rfl

theorem flushJournal_holds (h : K.holds s) : K.holds (flushJournal s) := modLoft_holds (writeRecords_holds h)

theorem flushBuffer_holds (h : K.holds s) : K.holds (flushBuffer s) := by
  unfold flushBuffer
  refine completeItems_holds (foldl_holds (foldl_holds h (fun t x k => ?_)) (fun t x k => ?_))
  · split
    · exact medium_holds (landUnit_only ..) k
    · exact k
  · split
    · split
      · exact medium_holds (landRebuilt_only ..) k
      · exact k
    · exact k

theorem closeLoft_holds (h : K.holds s) : K.holds (closeLoft s) := by
  unfold closeLoft
  split
  · exact h
  · refine modDev_holds ?_
    split
    · exact flushJournal_holds (flushBuffer_holds h)
    · split
      · exact writeCheckpoint_holds (flushJournal_holds (flushBuffer_holds h))
      · exact dawnCheckpoint_holds (flushJournal_holds (flushBuffer_holds h))

theorem runFlush_holds (h : K.holds s) : K.holds (runFlush s) := by
  unfold runFlush
  refine update_holds (dropVolatile_holds (portsDown_holds ?_))
  split
  · exact modPwr_holds (modLoft_holds (flushJournal_holds (flushBuffer_holds h)))
  · exact h

theorem setTherm_holds {b} (h : K.holds s) : K.holds (setTherm b s) := by
  unfold setTherm
  split
  · exact h
  · exact pldmEvent_holds (h.only rfl)

end

end Sys2Proof.Machine
end

-- What the clusters keep.
section
/-!
Clusters: what a core does keeps its pc at a word, and stores keep the form of the working area (R434 to R456, R463, R511).
-/
namespace Sys2Proof.Machine
open Sys2Proof

section
variable {K : Keeper} {s u : State}

theorem aligned_next {k : Core} (h : k.pc.toNat % 4 = 0) : (nextPc k).pc.toNat % 4 = 0 := by
  have four : (4 : BitVec 16).toNat = 4 := rfl
  simp only [nextPc, BitVec.toNat_add, four]
  omega
@[simp] theorem pc_setS (r : Nat) (v : Word64) (k : Core) : (setS r v k).pc = k.pc := by
  unfold setS
  split <;> rfl
@[simp] theorem pc_setP (n : Nat) (b : Bool) (k : Core) : (setP n b k).pc = k.pc := by
  unfold setP
  split <;> rfl

theorem aligned_set {r : Nat} {v : Word64} {k : Core} (h : k.pc.toNat % 4 = 0) : (nextPc (setS r v k)).pc.toNat % 4 = 0 :=
  aligned_next ((pc_setS r v k).symm ▸ h)

/-- What a core does leaves the shape of its cluster when the pc stays at a word. -/
theorem Formed.core {c d : Cluster} (h : Formed c) (work : d.work = c.work) (free : d.workFree = c.workFree) (queue : d.engQ = c.engQ)
    (aligned : d.core.pc.toNat % 4 = 0) : Formed d :=
  ⟨work ▸ h.area, fun none => work ▸ h.canonical (free ▸ none), aligned, queue ▸ h.queue⟩

theorem setCore_holds {x f} (aligned : ∀ k, k.pc.toNat % 4 = 0 → (f k).pc.toNat % 4 = 0) (h : K.holds s) : K.holds (setCore x f s) :=
  h.cluster (fun formed => formed.core rfl rfl rfl (aligned _ formed.pc)) rfl

theorem setCore_next_holds {x} {f : Core → Core} (same : ∀ k, (f k).pc = k.pc) (h : K.holds s) : K.holds (setCore x (fun k => nextPc (f k)) s) :=
  setCore_holds (fun k aligned => aligned_next ((same k) ▸ aligned)) h

theorem setCore_pc_holds {x} {f : Core → Core} (same : ∀ k, (f k).pc = k.pc) (h : K.holds s) : K.holds (setCore x f s) :=
  setCore_holds (fun k aligned => (same k) ▸ aligned) h

theorem ret_holds {x rd v} (h : K.holds s) : K.holds (ret x rd v s) := setCore_next_holds (fun _ => pc_setS ..) h

theorem next_holds {x} (h : K.holds s) : K.holds (setCore x nextPc s) := setCore_holds (fun _ => aligned_next) h

theorem coreFault_holds {x code info pc} (h : K.holds s) : K.holds (coreFault x code info pc s) := by
  unfold coreFault
  exact haltRun_holds (modRun_holds (h.cluster (fun formed => ⟨formed.area, formed.canonical, formed.pc, fun _ none => nomatch none⟩) rfl))

theorem faultWhenClear_holds {a0 code info} (h : K.holds s) : K.holds (faultWhenClear a0 code info s) := by
  unfold faultWhenClear
  split
  · exact coreFault_holds h
  · exact h

theorem bump_holds {p k v} (h : K.holds s) : K.holds (bump p k v s) := by
  refine h.cluster (fun formed => ?_) ?_
  · dsimp only
    split
    · exact formed.core rfl rfl rfl (aligned_set formed.pc)
    · exact formed.core rfl rfl rfl formed.pc
  · dsimp only
    split <;> rfl

theorem endWaitc_holds {p v} (h : K.holds s) : K.holds (endWaitc p v s) :=
  h.cluster (fun formed => formed.core rfl rfl rfl (aligned_set formed.pc)) rfl

theorem issue_holds {x t} (h : K.holds s) : K.holds (issue x t s) := h.cluster (fun formed => formed.core rfl rfl rfl (aligned_next formed.pc)) rfl

theorem enqueue_holds {x n} (h : K.holds s) : K.holds (enqueue x n s) := by
  refine h.cluster (fun formed => ⟨formed.area, formed.canonical, aligned_next formed.pc, fun m mem => ?_⟩) rfl
  rcases List.mem_append.mp mem with mem | mem
  · exact formed.queue m mem
  · exact (congrArg EngEntry.pc (List.mem_singleton.mp mem)).symm ▸ formed.pc

theorem formed_areaPut {c : Cluster} (a : Nat) (b : Byte) (h : Formed c) : Formed (areaPut c a b) := by
  unfold areaPut
  split
  next none => exact ⟨rising_write a b h.area, fun _ => write_wf _ _ _ (h.canonical none), h.pc, h.queue⟩
  next some => exact ⟨rising_insert a b h.area, fun none => (nomatch some.symm.trans none), h.pc, h.queue⟩

theorem formed_areaPuts {c : Cluster} (a : Nat) (l : List Byte) (h : Formed c) : Formed (areaPuts c a l) := by
  induction l generalizing c a with
  | nil => exact h
  | cons b l ih => exact ih _ (formed_areaPut a b h)

theorem formed_areaStore {c : Cluster} (a : Nat) (l : List Byte) (h : Formed c) : Formed (areaStore a l c) :=
  (formed_areaPuts a l h).of rfl rfl rfl rfl

theorem mapState_areaStore (a : Nat) (l : List Byte) (c : Cluster) : (areaStore a l c).mapState = c.mapState := by
  show (areaPuts c a l).mapState = c.mapState
  induction l generalizing c a with
  | nil => rfl
  | cons b l ih =>
    refine (ih _ _).trans ?_
    unfold areaPut
    split <;> rfl

theorem areaStore_holds {p a l} (h : K.holds s) : K.holds (modCluster p (areaStore a l) s) :=
  h.cluster (formed_areaStore a l) (mapState_areaStore a l _)

theorem spend_holds (h : K.holds s) : K.holds (spend s) := h.only rfl

theorem csrRead_holds {a0 n} {x} (h : K.holds s) (e : csrRead a0 n s = (x, u)) : K.holds u := by
  unfold csrRead at e
  simp only at e
  split at e
  · cases e
    exact h
  · split at e
    · cases e
      exact h
    · split at e
      · cases e
        exact h
      · split at e
        · cases e
          exact h
        · split at e
          · cases e
            exact h
          · split at e
            · exact takeFree_holds h e
            · split at e
              · cases e
                exact h.only rfl
              · split at e
                · cases e
                  exact h
                · split at e
                  · cases e
                    exact h
                  · split at e
                    · cases e
                      exact h
                    · cases e
                      exact h

theorem sendItem_holds {i} (h : K.holds s) : K.holds (sendItem i s) := h.only rfl

theorem dropXfer_holds {a0 id} (h : K.holds s) : K.holds (dropXfer a0 id s) := aside_holds (fun _ => ⟨rfl, rfl, rfl, rfl, rfl⟩) h

theorem landHere_holds {x t d} (h : K.holds s) : K.holds (landHere x t d s) := bump_holds (areaStore_holds (dropXfer_holds h))

theorem writeScratch_holds {j off b} (h : K.holds s) : K.holds (writeScratch j off b s) := scratch_holds (fun _ wf => writes_wf b _ off wf) h

theorem bufWrite_holds {r b off d} (h : K.holds s) : K.holds (bufWrite r b off d s) := by
  unfold bufWrite
  split
  · exact emit_holds (dma_holds h)
  · exact writeScratch_holds h

theorem trimWorking_holds (h : K.holds s) : K.holds (trimWorking s) := h.only rfl

theorem breakCluster_holds {c} (h : K.holds s) : K.holds (breakCluster c s) := by
  unfold breakCluster
  split
  · exact h
  · exact modPerf2_holds (postEvent_holds (endWaitc_holds h))

theorem breakQueue_holds {q} (h : K.holds s) : K.holds (breakQueue q s) := by
  unfold breakQueue
  split
  · exact h
  · split
    · exact h
    · exact endWait_holds (h.only rfl)

theorem flushMailbox_holds {p k} (h : K.holds s) : K.holds (flushMailbox p k s) :=
  aside_holds (fun _ => ⟨rfl, rfl, rfl, rfl, rfl⟩) (modWork_holds h)

/-- What an instruction does at issue goes to a state of the property. -/
def Keeper.does (K : Keeper) (x : CoreRes) : Prop := ∀ t, x = .done t → K.holds t

theorem wait_does : K.does .wait := fun _ e => nomatch e

theorem fault_does {code info : Nat} : K.does (.fault code info) := fun _ e => nomatch e

theorem done_does (h : K.holds s) : K.does (.done s) := fun t e => by cases e; exact h

theorem coreRow_goes {op c legal regs body} (h : K.holds s) (does : ∀ x, running c s = some x → K.does (body x s)) :
    K.goes (coreRow op c legal regs body s) := by
  unfold coreRow
  split
  · exact fault_goes
  · split
    · exact next_goes h
    next x runs =>
      split
      · exact next_goes h
      · split
        · exact next_goes (faultWhenClear_holds h)
        · split
          · exact next_goes (next_holds h)
          · split
            · exact next_goes h
            · split
              · exact next_goes h
              · exact next_goes (faultWhenClear_holds h)
              next t done => exact next_goes (does x runs t done)

theorem engRow_goes {op c legal regs body} (h : K.holds s) : K.goes (engRow op c legal regs body s) := by
  unfold engRow
  split
  · exact fault_goes
  · split
    · exact next_goes h
    · dsimp only
      split
      · exact next_goes h
      · split
        · exact next_goes (enqueue_holds h)
        · split
          · exact next_goes (enqueue_holds h)
          · split
            · exact next_goes h
            · split <;> exact next_goes (enqueue_holds (spend_holds (spend_holds h)))

end

end Sys2Proof.Machine
end

-- Failures in service.
section
/-!
PROOFS. O60: failed clusters, rows, mesh links and units (R119, R120, R813 to R824).
-/
namespace Sys2Proof.Machine
open Sys2Proof

/-! Failed clusters. -/

/-- Cluster p is out of service and in the repair map: calm changes keep it so. -/
def retired (p : Nat) : Keeper where
  holds u := (cluster u p).mapState = 2 ∧ p ∈ u.health.repairMap
  calm k h := ⟨(k.mapState p).trans h.1, k.repairMap ▸ h.2⟩

theorem addDefect_retired {p : Nat} {s : State} (h : (cluster s p).mapState = 2) : (retired p).holds (addDefect p s) := by
  refine ⟨h, ?_⟩
  show p ∈ (if s.health.repairMap.contains p then s.health else { s.health with repairMap := s.health.repairMap ++ [p] }).repairMap
  split
  next found => exact List.contains_iff_mem.mp found
  next => exact List.mem_append_right _ (.head _)

theorem dropUnderstudy_retired (p : Nat) (s : State) : (retired p).holds (dropUnderstudy p s) :=
  addDefect_retired (congrArg Cluster.mapState (cluster_modCluster_same ..))

theorem retireCluster_retired (p c : Nat) (row : Bool) (s : State) : (retired p).holds (retireCluster p c row s) :=
  addDefect_retired (congrArg Cluster.mapState (cluster_modCluster_same ..))

theorem understudyFor_free {c u : Nat} {s : State} (h : understudyFor c s = some u) : (cluster s u).mapState = 1 := by
  obtain ⟨x, -, found⟩ := List.exists_of_findSome?_eq_some h
  exact eq_of_beq (List.mem_filter.mp (List.mem_of_find?_eq_some found)).2

theorem installUnderstudy_retired {p c u : Nat} {s : State} (free : (cluster s u).mapState = 1) (h : (retired p).holds s) :
    (retired p).holds (installUnderstudy p c u s) := by
  obtain ⟨out, listed⟩ := h
  have other : p ≠ u := fun e => absurd ((e ▸ out).symm.trans free) (by decide)
  exact healthRecord_holds (K := retired p) ⟨(congrArg Cluster.mapState ((cluster_modCluster ..).trans (if_neg other))).trans out, listed⟩

theorem takeOver_retired (p : Nat) (row : Bool) (lost : RowLoss) (s : State) : (retired p).holds (takeOver p row lost s) := by
  have gone : (retired p).holds (loseRow true lost (retireCluster p (cluster s p).logical.toNat row s)) :=
    loseRow_holds (retireCluster_retired ..)
  unfold takeOver
  simp only
  split
  next found => exact reportRepair_holds (recountRows_holds (installUnderstudy_retired (understudyFor_free found) gone))
  next => exact raiseCause_holds (healthRecord_holds (recountRows_holds gone))

theorem failCluster_retired {p : Nat} {s : State} (row : Bool) (lost : RowLoss) (works : clusterWorks s p = true) :
    (retired p).holds (failCluster p row lost s) := by
  unfold failCluster
  split
  · exact takeOver_retired ..
  · exact syncHealth_holds (dropUnderstudy_retired p s)

/-! Failed rows. -/

theorem getD_modAt {α : Type} (f : α → α) (d : α) {l : List α} {k : Nat} (h : k < l.length) :
    (modAt l k f).getD k d = f (l.getD k d) := by
  induction l generalizing k with
  | nil => cases h
  | cons y r ih =>
    cases k with
    | zero => rfl
    | succ k => exact ih (Nat.lt_of_succ_lt_succ h)

/-- A row of a stack that has lines left takes one of them, and none of the reserve. -/
theorem failRow_line {stack row : Nat} {s : State} (rsv : s.health.wingsRsv ≠ 0) (left : s.health.pprLeft.getD stack 0 ≠ 0)
    (listed : stack < s.health.pprLeft.length) :
    (failRow stack row s).health.pprLeft.getD stack 0 = s.health.pprLeft.getD stack 0 - 1 ∧
    (failRow stack row s).health.wingsRsv = s.health.wingsRsv := by
  have some : (s.health.pprLeft.getD stack 0).toNat ≠ 0 := fun e => left (BitVec.eq_of_toNat_eq e)
  rw [failRow, if_neg (by simpa using rsv), repairRow, if_pos (by simpa using some)]
  exact ⟨((syncHealth_only _).field (·.health.pprLeft.getD stack 0) rfl).trans (getD_modAt _ _ listed),
    (syncHealth_only _).field (·.health.wingsRsv) rfl⟩

theorem raiseCause_bit {bits k : Nat} {s : State} (h : bit (BitVec.ofNat 32 bits) k = true) : bit (raiseCause bits s).health.cause k = true := by
  rw [raiseCause_cause]
  exact bit_or_left (bit_or_right h _) _

/-! Dead links. -/

theorem lanesDead_of {n : Nat} (most : n ≤ 34) (many : 19 ≤ n) : lanesDead n = true := by
  rw [lanesDead, linkLanes, decide_eq_true_eq]
  omega

theorem killLink_dead {p dir : Nat} {k : Link} (s : State) (h : linkAt p dir = some k) : (deadSet (killLink p dir s)).contains k = true := by
  have links : (killLink p dir s).health.deadLinks = s.health.deadLinks ++ [(p, dir)] :=
    (syncHealth_only _).field (·.health.deadLinks) rfl
  rw [deadSet, links]
  exact List.contains_iff_mem.mpr (List.mem_filterMap.mpr ⟨(p, dir), List.mem_append_right _ (.head _), h⟩)

/-! Failed units. -/

/-- Puts back all but the connections and the health block. -/
def connFields (u s : State) : State := { s with conns := u.conns, health := u.health }

theorem connFields_putsBack : PutsBack connFields := ⟨fun _ => rfl, fun _ _ _ => rfl⟩

theorem Only.conn_of_end {s u : State} (h : Only endFields s u) : Only connFields s u :=
  (show connFields u s = connFields (endFields u s) s from rfl).trans ((congrArg (fun x => connFields x s) h).trans rfl)

theorem endNet_conn (seq : Nat) (c : Completion) (s : State) : Only connFields s (endNet seq c s) := by
  unfold endNet
  split
  · exact Only.after connFields_putsBack (t := dropNet seq s) (Only.conn_of_end (finish_only ..)) rfl
  · rfl

theorem resetStreams_conn (p : WsOp → Bool) (s : State) : Only connFields s (resetStreams p s) := by
  refine Only.foldl connFields_putsBack _ (fun s op => ?_) _ s
  split
  · split
    · exact Only.after connFields_putsBack (Only.conn_of_end (settle_only _)) (Only.conn_of_end (endWeights_only ..))
    · rfl
  · rfl

theorem resetCues_conn (p : CueDest → Bool) (s : State) : Only connFields s (resetCues p s) := by
  refine Only.foldl connFields_putsBack _ (fun s op => ?_) _ s
  split
  · split
    · exact Only.after connFields_putsBack (Only.conn_of_end (settle_only _)) (Only.conn_of_end (endCue_only ..))
    · rfl
  · rfl

/-- What loseConn does before the connection restarts. -/
def endConnWork (k : Nat) (s : State) : State :=
  resetStreams (fun o => o.stagehand && o.target == k) (resetCues (fun d => d.stagehand && d.conn == k)
    ((s.work.nets.filter fun o => o.conn == k && o.msg.isSome).foldl (fun s o => endNet o.seq (status 0x602) s) s))

theorem endConnWork_conn (k : Nat) (s : State) : Only connFields s (endConnWork k s) :=
  Only.after connFields_putsBack (resetStreams_conn ..) (Only.after connFields_putsBack (resetCues_conn ..)
    (Only.foldl connFields_putsBack _ (fun _ _ => endNet_conn ..) _ s))

/-- The connection restarted, with its loss counted and reported; what waits for it stays unanswered. -/
def closeConn (k : Nat) (x : Conn) (s : State) : State :=
  let mine : ShTag → Bool := fun t => (t.map (·.1)) == some k
  let quiet : LoftLoad → LoftLoad := fun l => if mine l.sh then { l with answered := true } else l
  let s := modWork (fun w => { w with loads := w.loads.map quiet }) s
  let (f, s) := takeFree s
  let ports := (upto 4).filter fun j => bit x.entry.ports j
  let port := ports.getD (f.toNat % ports.length) 0
  let s := postEvent 7 x.company (w64 (k * 65536 + port * 256 + 3)) 0 (modPerf2 (fun p => { p with shLost := satInc p.shLost }) s)
  let y := restartConn s x.company x.entry
  let y := if s.health.stagehandFailed then { y with state := 0 } else y
  { s with conns := kset s.conns k y, free := s.free + 1 }

theorem loseConn_some {k : Nat} {x : Conn} {s : State} (here : conn s k = some x) : loseConn k s = closeConn k x (endConnWork k s) := by
  rw [loseConn, here]
  rfl

theorem closeConn_health (k : Nat) (x : Conn) (s : State) : (closeConn k x s).health = s.health := rfl

theorem closeConn_conns (k : Nat) (x : Conn) {s : State} (failed : s.health.stagehandFailed = true) :
    ∃ y, y.state = 0 ∧ (closeConn k x s).conns = kset s.conns k y := by
  refine ⟨_, ?_, rfl⟩
  show (if s.health.stagehandFailed then _ else _ : Conn).state = 0
  rw [if_pos failed]

/-- Once the Stagehand has failed, a connection that is lost restarts closed; the others stay. -/
theorem loseConn_failed {k : Nat} {s : State} (failed : s.health.stagehandFailed = true) :
    (loseConn k s).health = s.health ∧
    ∀ j y, conn (loseConn k s) j = some y → (j = k → y.state = 0) ∧ (j ≠ k → conn s j = some y) := by
  cases here : conn s k with
  | none =>
    rw [loseConn, here]
    simp only
    refine ⟨trivial, fun j y found => ⟨fun e => ?_, fun _ => found⟩⟩
    subst e
    cases here.symm.trans found
  | some x =>
    have conns : (endConnWork k s).conns = s.conns := (endConnWork_conn k s).field State.conns rfl
    have health : (endConnWork k s).health = s.health := (endConnWork_conn k s).field State.health rfl
    obtain ⟨z, shut, after⟩ := closeConn_conns k x (health ▸ failed)
    rw [loseConn_some here]
    refine ⟨(closeConn_health ..).trans health, fun j y found => ?_⟩
    rw [conn, after, conns, kget_kset] at found
    split at found
    next e => cases found; exact ⟨fun _ => shut, fun ne => absurd e ne⟩
    next ne => exact ⟨fun e => absurd e ne, fun _ => found⟩

theorem loseConns_failed (l : List Nat) {s : State} (failed : s.health.stagehandFailed = true)
    (h : ∀ k x, conn s k = some x → k ∉ l → x.state = 0) :
    (l.foldl (fun s k => loseConn k s) s).health = s.health ∧
    ∀ k x, conn (l.foldl (fun s k => loseConn k s) s) k = some x → x.state = 0 := by
  induction l generalizing s with
  | nil => exact ⟨rfl, fun k x found => h k x found (List.not_mem_nil)⟩
  | cons k l ih =>
    obtain ⟨health, after⟩ := loseConn_failed (k := k) failed
    obtain ⟨same, shut⟩ := ih (s := loseConn k s) (health ▸ failed) fun j y found fresh => by
      by_cases e : j = k
      · exact (after j y found).1 e
      · exact h j y ((after j y found).2 e) fun mem => (List.mem_cons.mp mem).elim e fresh
    exact ⟨same.trans health, shut⟩

/-- A failed unit marked and reported. -/
def reportUnit (stagehand : Bool) (s : State) : State :=
  raiseCause (2 ^ 10) (healthRecord 9 2 (Config.recordTarget 9 (b2n stagehand) 0) (Config.recordRepl 9 (b2n stagehand) none)
    (modHealth (fun h => if stagehand then { h with stagehandFailed := true } else { h with prompterFailed := true }) s))

theorem prompter_fails {s : State} (unit : hasPrompter s = true) (up : upFrom 7 s = true) (working : s.health.prompterFailed = false) :
    ∃ u, exec (.unitFailure false) s = .next u ∧ u.health.prompterFailed = true ∧ bit u.health.cause 10 = true := by
  have run : exec (.unitFailure false) s = .next (settle (abortAll 0x603 (needsPrompter (reportUnit false s)) (reportUnit false s)).1) := by
    simp only [exec, execUnitFailure]
    rw [if_neg (by simp [unit, up, working])]
    rfl
  have health : (settle (abortAll 0x603 (needsPrompter (reportUnit false s)) (reportUnit false s)).1).health = (reportUnit false s).health :=
    ((settle_only _).field State.health rfl).trans ((abortAll_only ..).field State.health rfl)
  refine ⟨_, run, ?_, ?_⟩
  · rw [health]
    exact (raiseCause_only ..).field (·.health.prompterFailed) rfl
  · rw [health]
    exact raiseCause_bit (by decide)

theorem stagehand_fails {s : State} (unit : hasStagehand s = true) (up : upFrom 7 s = true) (working : s.health.stagehandFailed = false) :
    ∃ u, exec (.unitFailure true) s = .next u ∧ u.health.stagehandFailed = true ∧ bit u.health.cause 10 = true ∧
      ∀ k x, conn u k = some x → x.state = 0 := by
  have run : exec (.unitFailure true) s = .next (((reportUnit true s).conns.map (·.1)).foldl (fun s k => loseConn k s) (reportUnit true s)) := by
    simp only [exec, execUnitFailure]
    rw [if_neg (by simp [unit, up, working])]
    rfl
  have failed : (reportUnit true s).health.stagehandFailed = true := (raiseCause_only ..).field (·.health.stagehandFailed) rfl
  obtain ⟨health, shut⟩ := loseConns_failed ((reportUnit true s).conns.map (·.1)) failed
    fun k x found fresh => absurd (List.mem_map_of_mem (f := (·.1)) (kget_mem found)) fresh
  exact ⟨_, run, health ▸ failed, health ▸ raiseCause_bit (by decide), shut⟩

/-- Settles O60: a failed cluster is retired whether an understudy takes over or not; the other rows end with the repair, or with the
cause of R120, R816 or R824 raised. -/
theorem failuresAreRepaired : Obligations.FailuresAreRepaired := by
  intro s up
  have up5 : upFrom 5 s = true := by
    simp only [upFrom, Bool.and_eq_true, decide_eq_true_eq] at up ⊢
    exact ⟨⟨⟨up.1.1.1, Nat.le_trans (by decide) up.1.1.2⟩, up.1.2⟩, up.2⟩
  refine ⟨fun p row lost hp works => ?_, fun p row lost hp hr works => ⟨fun full => ?_, fun spare serves => ?_⟩, fun stack row lost hs => ?_,
    fun stack row none => ?_, fun stack row rsv left listed => failRow_line rsv left listed, fun p dir failing k link alive most many => ⟨?_, fun more => ?_⟩,
    fun unit working => prompter_fails unit up working, fun unit working => stagehand_fails unit up working⟩
  case _ =>
    obtain ⟨out, listed⟩ := failCluster_retired row lost works
    refine ⟨_, ?_, rfl, out, listed⟩
    rw [exec, execClusterFailure, if_neg (Nat.not_le.mpr hp), if_neg (by simp [up, works])]
  case _ =>
    simp only [exec, execStageRowRepair]
    rw [if_neg (by simpa [stageRowOk] using ⟨hp, hr⟩), if_neg (by simp [up, works]), spareRows, if_pos full]
  case _ =>
    simp only [exec, execStageRowRepair]
    rw [if_neg (by simpa [stageRowOk] using ⟨hp, hr⟩), if_neg (by simp [up, works]), spareRows, if_neg (Nat.not_le.mpr spare),
      if_neg (by rcases serves with h | h <;> simp [h])]
  case _ => rw [exec, execWingsRowRepair, if_neg (Nat.not_le.mpr hs), if_neg (by simp [up5])]
  case _ =>
    rw [failRow, if_pos (by simp [none])]
    exact raiseCause_bit (by decide)
  case _ =>
    have lanes := lanesDead_of most many
    rw [exec, execLinkDeath, link]
    simp only
    rw [if_neg (show ¬ linkLanes < failing from Nat.not_lt.mpr most), if_neg (by simp only [up, alive, lanes]; decide)]
  case _ =>
    have lanes := lanesDead_of most many
    rw [steerLanes, link]
    simp only
    rw [if_neg (by simp only [alive, Bool.false_or, decide_eq_true_eq]; exact Nat.not_le.mpr more), if_pos lanes]
    exact killLink_dead _ link

end Sys2Proof.Machine
end

-- What register writes and resets keep.
section
/-!
The rings, the registers of BAR0, and the resets of a port (R68 to R147, R549 to R575, R885 to R902).
-/
namespace Sys2Proof.Machine
open Sys2Proof

section
variable {K : Keeper} {s u : State}

theorem setTail_holds {qn v} (h : K.holds s) : K.holds (setTail qn v s) := by
  unfold setTail
  split
  · exact h
  · split
    · exact h.only rfl
    · exact h.only rfl

theorem drainSpill_holds {qn n} (h : K.holds s) : K.holds (drainSpill qn n s) := by
  induction n generalizing s with
  | zero => exact h
  | succ n ih =>
    rw [drainSpill]
    split
    · exact h
    · split
      · exact h
      · split
        · exact h
        · exact ih (writeEntry_holds (h.only rfl))

theorem setCqHead_holds {qn v} (h : K.holds s) : K.holds (setCqHead qn v s) := by
  unfold setCqHead
  split
  · exact h
  · split
    · exact h.only rfl
    · exact drainSpill_holds (h.only rfl)

theorem startReads_holds {t} (h : K.holds s) : K.holds (startReads t s) :=
  foldl_holds (h.only rfl) (fun _ _ k => emit_holds (dma_holds k))

theorem sendMsix_holds {a v} (h : K.holds s) : K.holds (sendMsix a v s) := by
  unfold sendMsix
  simp only
  split
  · exact h
  · split
    · exact h.only rfl
    · exact emit_holds h

theorem sendPending_holds {k ld} (h : K.holds s) : K.holds (sendPending k ld s) := by
  unfold sendPending
  split
  · exact h
  · refine foldl_holds h (fun t x k' => ?_)
    split
    · exact sendMsix_holds (k'.only rfl)
    · exact k'

theorem writeMsix_holds {a off v} (h : K.holds s) : K.holds (writeMsix a off v s) := sendPending_holds (h.only rfl)

theorem writeComponent_holds {a off v} (h : K.holds s) : K.holds (writeComponent a off v s) := by
  unfold writeComponent
  split
  · exact writeMsix_holds h
  · split
    · exact h
    · exact h.only rfl

theorem after_holds {x : Res} (goes : K.goes x) (h : K.holds s) : K.holds (after x s) := by
  unfold after
  split
  · exact goes _ rfl
  · exact h

theorem ite_holds {c : Prop} [Decidable c] (h : K.holds s) (k : K.holds t) : K.holds (if c then s else t) := by
  split
  · exact h
  · exact k

theorem execClusSignal_goes {a p part v} (h : K.holds s) : K.goes (execClusSignal a p part v s) := by
  unfold execClusSignal
  split
  · exact fault_goes
  · split
    · exact next_goes h
    · simp only
      split
      · exact next_goes (aside_holds (fun _ => ⟨rfl, rfl, rfl, rfl, rfl⟩) h)
      · exact next_goes (bump_holds (aside_holds (fun _ => ⟨rfl, rfl, rfl, rfl, rfl⟩) h))

theorem execMailboxFlush_goes {a p v} (h : K.holds s) : K.goes (execMailboxFlush a p v s) := by
  unfold execMailboxFlush
  split
  · exact fault_goes
  · split
    · exact next_goes h
    · refine next_goes (foldl_holds h (fun t x k => ?_))
      split
      · exact flushMailbox_holds k
      · exact k

theorem execDoorbell_goes {a q part v} (h : K.holds s) : K.goes (execDoorbell a q part v s) := by
  unfold execDoorbell
  split
  · exact fault_goes
  · split
    · exact next_goes h
    · split
      · exact next_goes (setTail_holds h)
      · exact next_goes (setCqHead_holds h)
      · exact next_goes (setCqHead_holds (setTail_holds h))

theorem writeWindow_holds {a reg part v} (h : K.holds s) : K.holds (writeWindow a reg part v s) := by
  unfold writeWindow
  simp only
  split
  · exact h
  · split
    · exact after_holds (execClusSignal_goes h) h
    · split
      · exact after_holds (execMailboxFlush_goes h) h
      · split
        · exact aside_holds (fun _ => ⟨rfl, rfl, rfl, rfl, rfl⟩) h
        · exact h

theorem writeAtomic_holds {a woff size v} (h : K.holds s) : K.holds (writeAtomic a woff size v s) := by
  unfold writeAtomic
  simp only
  split
  · exact h
  · split
    · exact h.only rfl
    · exact h.only rfl

theorem writeArbCtrl_holds {j part v} (h : K.holds s) : K.holds (writeArbCtrl j part v s) := by
  unfold writeArbCtrl
  split
  · exact h
  · exact h.only rfl

theorem writeOwner64_holds {reg part v} (h : K.holds s) : K.holds (writeOwner64 reg part v s) := by
  unfold writeOwner64
  split
  · split
    · exact h.only rfl
    · exact h
  · split
    · exact writeArbCtrl_holds h
    · split
      · split
        · exact h
        · exact h.only rfl
      · split
        · split
          · exact h
          · exact h.only rfl
        · exact h

theorem writeDevCtrl_holds {v} (h : K.holds s) : K.holds (writeDevCtrl v s) := by
  unfold writeDevCtrl
  split
  · exact h
  · split
    · exact h.only rfl
    · exact h.only rfl

theorem writeAgentMap_holds {a v} (h : K.holds s) : K.holds (writeAgentMap a v s) := by
  unfold writeAgentMap
  split
  · exact h
  · exact h.only rfl

theorem writeBandwidth_holds {a v} (h : K.holds s) : K.holds (writeBandwidth a v s) := h.only rfl

theorem writeGate_holds {g} (h : K.holds s) : K.holds (writeGate g s) := by
  unfold writeGate
  split
  · exact h
  · split
    · exact h.only rfl
    · split
      · exact h.only rfl
      · exact h.only rfl

theorem endEverything_holds (h : K.holds s) : K.holds (endEverything s) := by
  unfold endEverything
  have ended : K.holds (List.foldl (fun s t => finishCore t (status 0x602) s) (abortAll 0x602 (fun _ => true) s).1
      (abortAll 0x602 (fun _ => true) s).1.taken) := foldl_holds (abortAll_fst_holds h) (fun _ _ k => finishCore_holds k)
  exact modWork_holds (f := fun _ => Work.reset) (ended.kmap (f := fun _ c => { scrubbed c.company c with run := none, xfers := [] }) (fun _ _ _ => formed_fresh.of rfl rfl rfl rfl) (fun _ _ => rfl))

theorem startSanitize_holds (h : K.holds s) : K.holds (startSanitize s) := by
  unfold startSanitize
  have ended : K.holds (endEverything { s with flash := { s.flash with marker := true } }) := endEverything_holds (update_holds h)
  exact ended.memories rfl id (fun _ _ none => nomatch none) fun _ _ none => nomatch none

theorem writeLock_holds {a off reg v v64} (h : K.holds s) : K.holds (writeLock a off reg v v64 s) := by
  unfold writeLock
  simp only
  split
  · split
    · exact h.only rfl
    · split
      · exact h
      · exact h.only rfl
  · split
    · split
      · exact h.only rfl
      · split
        · exact h
        · exact h.only rfl
    · split
      · split
        · exact h.only rfl
        · split
          · exact h
          · exact h.only rfl
      · split
        · split
          · split
            · exact h
            · exact h.only rfl
          · split
            · exact startSanitize_holds (h.only rfl)
            · exact h.only rfl
        · exact h

theorem writeEpoch_holds {v} (h : K.holds s) : K.holds (writeEpoch v s) := by
  unfold writeEpoch
  split
  · exact h
  · exact h.only rfl

theorem writeActrl_holds {v} (h : K.holds s) : K.holds (writeActrl v s) := by
  unfold writeActrl
  split
  · split
    · exact h
    · exact h.only rfl
  · simp only
    split
    · exact h.only rfl
    · exact h.only rfl

theorem writeOwner32_holds {a off reg v v64} (h : K.holds s) : K.holds (writeOwner32 a off reg v v64 s) := by
  unfold writeOwner32
  refine ite_holds (ite_holds (modDev_holds h) h) (ite_holds (writeDevCtrl_holds h) (ite_holds (modPort_holds h) ?_))
  refine ite_holds (writeAgentMap_holds h) (ite_holds (writeBandwidth_holds h) (ite_holds (ite_holds (update_holds h) h) ?_))
  refine ite_holds (ite_holds (update_holds h) h) (ite_holds (writeGate_holds h) (ite_holds (modPwr_holds h) ?_))
  refine ite_holds (modPwr_holds h) (ite_holds (writeLock_holds h) (ite_holds (update_holds h) (ite_holds (update_holds h) ?_)))
  refine ite_holds (update_holds h) (ite_holds (update_holds h) (ite_holds (update_holds h) (ite_holds (modLoft_holds h) ?_)))
  exact ite_holds (modLoft_holds h) (ite_holds (writeEpoch_holds h) (ite_holds (writeActrl_holds h) h))

theorem writeReg_holds {a off size v} (h : K.holds s) : K.holds (writeReg a off size v s) := by
  unfold writeReg
  simp only
  split
  · exact after_holds (execDoorbell_goes h) h
  · split
    · exact writeWindow_holds h
    · split
      · exact writeAtomic_holds h
      · split
        · exact h
        · split
          · exact writeOwner64_holds h
          · split
            · exact writeOwner32_holds h
            · exact h

theorem dropRequests_holds {mine} (h : K.holds s) : K.holds (dropRequests mine s) :=
  foldl_holds (h.only rfl) (fun _ _ k => k.only rfl)

theorem resetQueue_holds {y} (h : K.holds s) : K.holds (resetQueue y s) :=
  update_holds (foldl_holds (abortAll_fst_holds (h.only rfl)) (fun _ _ k => finishCore_holds k))

theorem resetAdmin_holds (h : K.holds s) : K.holds (resetAdmin s) := by
  unfold resetAdmin
  split
  · exact h
  · exact update_holds (resetQueue_holds h)

theorem resetStreams_holds {p} (h : K.holds s) : K.holds (resetStreams p s) := by
  unfold resetStreams
  refine foldl_holds h (fun t x k => ?_)
  split
  · split
    · exact settle_holds (endWeights_holds k)
    · exact k
  · exact k

theorem resetCues_holds {p} (h : K.holds s) : K.holds (resetCues p s) := by
  unfold resetCues
  refine foldl_holds h (fun t x k => ?_)
  split
  · split
    · exact settle_holds (endCue_holds k)
    · exact k
  · exact k

theorem freeLine_holds {x} (h : K.holds s) (e : freeLine s = (x, u)) : K.holds u := by
  unfold freeLine at e
  cases e
  exact h.only rfl

theorem writeLine_holds {c line off b} (h : K.holds s) : K.holds (writeLine c line off b s) := by
  refine h.windows fun wf p mem => ?_
  rcases mem_kset mem with rfl | mem
  · refine writes_wf b _ _ ?_
    unfold windowOf kgetD
    cases found : kget s.coherent c with
    | none => rfl
    | some m => exact wf _ (kget_mem found)
  · exact wf p mem

end

end Sys2Proof.Machine
end

-- What requests to coherent lines and memory accesses keep.
section
/-!
The coherent window, its snoops, the accesses of the host's ports, and what messages of Stagehand carry (R235, R655 to R697).
-/
namespace Sys2Proof.Machine
open Sys2Proof

section
variable {K : Keeper} {s u : State}

theorem sendControl_holds {k opcode payload} (h : K.holds s) : K.holds (sendControl k opcode payload s) := by
  unfold sendControl
  split
  · exact h
  · split
    next x y t found =>
      simp only
      split
      · exact takeFree_holds h found
      · exact emit_holds (takeFree_holds h found)

theorem sendAck_holds {k} (h : K.holds s) : K.holds (sendAck k s) := by
  unfold sendAck
  split
  · exact h
  · split
    next x y t found =>
      exact modConn_holds (sendControl_holds (takeFree_holds h found))

theorem received_holds {k psn force} (h : K.holds s) : K.holds (received k psn force s) := by
  unfold received
  simp only
  split
  · exact sendAck_holds (h.only rfl)
  · exact h.only rfl

theorem dropInMsg_holds {k id opcode} (h : K.holds s) : K.holds (dropInMsg k id opcode s) := h.only rfl

theorem notifyArrival_holds {k} (h : K.holds s) : K.holds (notifyArrival k s) := by
  unfold notifyArrival
  split
  · exact h
  · split
    · exact h
    · exact h.only rfl

theorem setInMsg_holds {k m} (h : K.holds s) : K.holds (setInMsg k m s) := h.only rfl

theorem writeVisible_holds {k p} (h : K.holds s) : K.holds (writeVisible k p s) := by
  unfold writeVisible
  split
  · exact received_holds h
  · simp only
    split
    · refine received_holds ?_
      split
      · exact notifyArrival_holds (h.only rfl)
      · exact h.only rfl
    · exact received_holds (h.only rfl)

theorem readReady_holds {k r} (h : K.holds s) : K.holds (readReady k r s) := by
  unfold readReady
  split
  · exact h
  · simp only
    split
    · exact h.only rfl
    · exact h.only rfl

theorem shContinue_holds {tag} (h : K.holds s) : K.holds (shContinue tag s) := by
  unfold shContinue
  split
  · exact h
  · split
    · exact h
    · split
      · exact h
      · split
        · split
          · exact h
          · exact writeVisible_holds (h.only rfl)
        · split
          · exact h
          · exact readReady_holds h

theorem snoopFor_holds {w shared} (h : K.holds s) : K.holds (snoopFor w shared s) :=
  foldl_holds (h.only rfl) (fun _ _ k => emit_holds k)

theorem toAgent_holds {sh : ShTag} {f : State → State} (each : ∀ t, K.holds t → K.holds (f t)) (h : K.holds s) : K.holds (toAgent sh f s) := by
  unfold toAgent
  split
  · exact h
  · exact each _ h

theorem answerAck_holds {a d} (h : K.holds s) : K.holds (answerAck a d s) := emit_holds h

theorem shPoison_holds {tag} (h : K.holds s) : K.holds (shPoison tag s) := by
  unfold shPoison
  split
  · exact h
  · exact h.only rfl

theorem answerPoison_holds {a d} (h : K.holds s) : K.holds (answerPoison a d s) := emit_holds h

theorem setSnoop_holds {a0} (h : K.holds s) : K.holds (setSnoop a0 s) := by
  unfold setSnoop
  split
  · exact h.only rfl
  · exact h.only rfl

theorem answerData_holds {a d b} (h : K.holds s) : K.holds (answerData a d b s) := emit_holds h

theorem grant_holds {w} (h : K.holds s) : K.holds (grant w s) := by
  unfold grant
  simp only
  split
  · split
    · exact toAgent_holds (fun _ k => answerAck_holds k) h
    · exact shPoison_holds (toAgent_holds (fun _ k => answerPoison_holds k) h)
  · split
    · exact toAgent_holds (fun _ k => answerAck_holds k) (writeLine_holds h)
    · refine toAgent_holds (fun _ k => answerData_holds k) ?_
      split
      · exact h
      · exact setSnoop_holds h
      · exact setSnoop_holds h

theorem coherentRequest_holds {w} (h : K.holds s) : K.holds (coherentRequest w s) := by
  unfold coherentRequest
  simp only
  split
  · exact snoopFor_holds h
  · split
    · split
      · exact grant_holds h
      · split
        · exact grant_holds (h.only rfl)
        · exact snoopFor_holds h
    · exact grant_holds h

theorem answered_holds {c line j} (h : K.holds s) : K.holds (answered c line j s) :=
  foldl_holds (h.only rfl) (fun _ _ k => shContinue_holds (coherentRequest_holds k))

theorem release_holds {c line j keepShared} (h : K.holds s) : K.holds (release c line j keepShared s) := by
  unfold release
  split
  · exact h
  · simp only
    split
    · split
      · exact h.only rfl
      · exact setSnoop_holds h
    · split
      · exact h.only rfl
      · exact setSnoop_holds h

theorem dropHolder_holds {a} (h : K.holds s) : K.holds (dropHolder a s) := by
  unfold dropHolder
  refine foldl_holds h (fun t x k => answered_holds (release_holds ?_))
  split
  · split
    next y z u found =>
      exact writeLine_holds (freeLine_holds k found)
  · exact k

theorem endDoe_holds {k} (h : K.holds s) : K.holds (endDoe k s) := h.only rfl

theorem configWrite_holds {k ld reg v} (h : K.holds s) : K.holds (configWrite k ld reg v s) := by
  unfold configWrite
  split
  · exact h.only rfl
  · split
    · exact sendPending_holds (h.only rfl)
    · split
      · exact h.only rfl
      · exact h

theorem withOpen_holds {v mask} {x} (h : K.holds s) (e : withOpen v mask s = (x, u)) : K.holds u := by
  unfold withOpen at e
  split at e
  next y z t found =>
    cases e
    exact takeFree_holds h found

theorem configValue_holds {k ld reg} {x} (h : K.holds s) (e : configValue k ld reg s = (x, u)) : K.holds u := by
  unfold configValue at e
  simp only at e
  split at e
  · cases e
    exact h
  · split at e
    · exact withOpen_holds h e
    · split at e
      · exact withOpen_holds h e
      · split at e
        · exact withOpen_holds h e
        · split at e
          · cases e
            exact h
          · split at e
            · cases e
              exact h
            · split at e
              · exact withOpen_holds h e
              · split at e
                · exact withOpen_holds h e
                · exact withOpen_holds h e

theorem poisonUnmapped_holds {a d sh} (h : K.holds s) : K.holds (poisonUnmapped a d sh s) :=
  shPoison_holds (toAgent_holds (fun _ k => answerPoison_holds k) (h.only rfl))

theorem poisonMedia_holds {a d sh unified} (h : K.holds s) : K.holds (poisonMedia a d sh unified s) :=
  shPoison_holds (toAgent_holds (fun _ k => answerPoison_holds k) (h.only rfl))

theorem startLoad_holds {a c d what off sh arrival} (h : K.holds s) : K.holds (startLoad a c d what off sh arrival s) := by
  unfold startLoad
  split
  · exact h
  · exact foldl_holds (h.only rfl) (fun _ _ k => medium_holds (reachDie_only ..) k)

theorem readPage_holds {a c d stage what off b sh arrival} (h : K.holds s) : K.holds (readPage a c d stage what off b sh arrival s) := by
  unfold readPage
  split
  · split
    · exact toAgent_holds (fun _ k => answerData_holds k) h
    · split
      · exact poisonMedia_holds h
      · exact poisonUnmapped_holds h
  · split
    · exact toAgent_holds (fun _ k => answerData_holds k) h
    · split
      · exact poisonMedia_holds h
      · exact startLoad_holds h

theorem readScene_holds {a c d stage id l off sh arrival} (h : K.holds s) : K.holds (readScene a c d stage id l off sh arrival s) := by
  unfold readScene
  split
  · exact toAgent_holds (fun _ k => answerData_holds k) h
  · exact readPage_holds h

theorem readWeights_holds {a c d stage name off sh arrival} (h : K.holds s) : K.holds (readWeights a c d stage name off sh arrival s) := by
  unfold readWeights
  split
  · exact poisonUnmapped_holds h
  · split
    · exact readPage_holds h

theorem serveRead_holds {a c d hold sh arrival} (h : K.holds s) : K.holds (serveRead a c d hold sh arrival s) := by
  unfold serveRead
  split
  · exact shPoison_holds (toAgent_holds (fun _ k => answerPoison_holds k) h)
  · split
    · exact coherentRequest_holds h
    · split
      · exact poisonUnmapped_holds h
      · split
        · exact poisonUnmapped_holds h
        · split
          · exact readScene_holds h
          · exact readWeights_holds h
          · split
            next x y t found =>
              exact toAgent_holds (fun _ k => answerData_holds k) (freeLine_holds h found)
          · exact toAgent_holds (fun _ k => answerData_holds k) h
          · split
            · exact toAgent_holds (fun _ k => answerData_holds k) h
            · exact shPoison_holds (toAgent_holds (fun _ k => answerPoison_holds k) h)
          · split
            · exact toAgent_holds (fun _ k => answerData_holds k) h
            · exact shPoison_holds (toAgent_holds (fun _ k => answerPoison_holds k) h)

theorem serveWrite_holds {a c d b sh arrival} (h : K.holds s) : K.holds (serveWrite a c d b sh arrival s) := by
  unfold serveWrite
  simp only
  split
  · exact toAgent_holds (fun _ k => answerAck_holds k) h
  · split
    · exact coherentRequest_holds h
    · split
      · exact toAgent_holds (fun _ k => answerAck_holds k) (h.only rfl)
      · split
        · exact toAgent_holds (fun _ k => answerAck_holds k) (h.only rfl)
        · split
          · exact toAgent_holds (fun _ k => answerAck_holds k) (h.only rfl)
          · exact toAgent_holds (fun _ k => answerAck_holds k) (h.only rfl)
          · refine toAgent_holds (fun _ k => answerAck_holds k) ?_
            split
            · exact h.only rfl
            · exact h.only rfl
          · exact toAgent_holds (fun _ k => answerAck_holds k) (writeScratch_holds h)
          · exact toAgent_holds (fun _ k => answerAck_holds k) h
          · exact toAgent_holds (fun _ k => answerAck_holds k) h

theorem serveHeld_holds {i arrival} (h : K.holds s) : K.holds (serveHeld i arrival s) := by
  unfold serveHeld
  split
  · exact serveRead_holds h
  · exact serveWrite_holds h
  · exact h

theorem throughBucket_holds {a i} (h : K.holds s) : K.holds (throughBucket a i s) := by
  unfold throughBucket
  split
  · exact serveHeld_holds h
  · split
    · exact serveHeld_holds (h.only rfl)
    · exact h.only rfl

theorem dropLoad_holds {id} (h : K.holds s) : K.holds (dropLoad id s) := h.only rfl

theorem poisonLate_holds {a0} (h : K.holds s) : K.holds (poisonLate a0 s) :=
  shPoison_holds (toAgent_holds (fun _ k => answerPoison_holds k) (h.only rfl))

theorem readTimedOut_holds {p} (h : K.holds s) : K.holds (readTimedOut p s) := emit_holds (h.only rfl)

theorem reply_holds {ep code body} (h : K.holds s) : K.holds (reply ep code body s) := emit_holds h

theorem spdmError_holds {ep a1} (h : K.holds s) : K.holds (spdmError ep a1 s) := reply_holds h

theorem countDrop_holds (h : K.holds s) : K.holds (countDrop s) := h.only rfl

theorem heardFrom_holds {k p} (h : K.holds s) : K.holds (heardFrom k p s) := h.only rfl

theorem sendNak_holds {k code p} (h : K.holds s) : K.holds (sendNak k code p s) := by
  unfold sendNak
  refine queueMessage_holds ?_
  split
  · exact h.only rfl
  · exact h

theorem refuseMsg_holds {k code opcode p} (h : K.holds s) : K.holds (refuseMsg k code opcode p s) := by
  unfold refuseMsg
  refine received_holds (sendNak_holds ?_)
  split
  · exact h.only rfl
  · exact h.only rfl

theorem writeCounters_holds {woff b} (h : K.holds s) : K.holds (writeCounters woff b s) := foldl_holds h (fun _ _ k => k.only rfl)

theorem placePayload_holds {k a1 p} (h : K.holds s) : K.holds (placePayload k a1 p s) := by
  unfold placePayload
  simp only
  split
  · exact writeCounters_holds h
  · exact foldl_holds h (fun _ _ k' => serveWrite_holds k')

theorem messageFailed_holds {m st} (h : K.holds s) : K.holds (messageFailed m st s) := by
  unfold messageFailed
  split
  · exact h
  · split
    · exact settle_holds (endCue_holds h)
    · exact settle_holds (endWeights_holds h)
    · split
      · exact endNet_holds h
      · exact h

theorem dropOut_holds {k id resp} (h : K.holds s) : K.holds (dropOut k id resp s) := h.only rfl

theorem landBytes_holds {o off b} (h : K.holds s) : K.holds (landBytes o off b s) := by
  unfold landBytes
  split
  · split
    · exact writeScratch_holds h
    · split
      · exact toHost_holds h
      · exact h

theorem afterRoom_holds (h : K.holds s) : K.holds (afterRoom s) :=
  foldl_holds (progressCues_holds h) (fun _ _ k => progressStream_holds k)

end

end Sys2Proof.Machine
end

-- What connections, journal records and staged work keep.
section
/-!
Connections that are lost, messages that are sent, work that goes on and journal records that complete (R206 to R236, R620 to R746).
-/
namespace Sys2Proof.Machine
open Sys2Proof

section
variable {K : Keeper} {s u : State}

theorem endConnWork_holds {k} (h : K.holds s) : K.holds (endConnWork k s) :=
  resetStreams_holds (resetCues_holds (foldl_holds h (fun _ _ k' => endNet_holds k')))

theorem closeConn_holds {k x} (h : K.holds s) : K.holds (closeConn k x s) := h.only rfl

theorem loseConn_holds {k} (h : K.holds s) : K.holds (loseConn k s) := by
  cases here : conn s k with
  | none =>
    rw [loseConn, here]
    exact h
  | some x =>
    rw [loseConn_some here]
    exact closeConn_holds (endConnWork_holds h)

theorem declareLost_holds {k l} (h : K.holds s) : K.holds (declareLost k l s) := by
  unfold declareLost
  split
  · exact loseConn_holds h
  · exact foldl_holds h (fun _ _ k' => k'.only rfl)

theorem cueItemAcked_holds {seq k} (h : K.holds s) : K.holds (cueItemAcked seq k s) := progressCues_holds (h.only rfl)

theorem layerAcked_holds {seq j} (h : K.holds s) : K.holds (layerAcked seq j s) := progressStream_holds (h.only rfl)

theorem messageDone_holds {m} (h : K.holds s) : K.holds (messageDone m s) := by
  unfold messageDone
  split
  · exact h
  · split
    · exact cueItemAcked_holds h
    · split
      · exact layerAcked_holds h
      · split
        · exact endNet_holds h
        · exact h

theorem sweepOut_holds {k} (h : K.holds s) : K.holds (sweepOut k s) := by
  unfold sweepOut
  split
  · exact h
  · exact foldl_holds (h.only rfl) (fun _ _ k' => messageDone_holds k')

theorem wakeConn_holds {k} (h : K.holds s) : K.holds (wakeConn k s) := h.only rfl

theorem takeSync_holds {k p} (h : K.holds s) : K.holds (takeSync k p s) := h.only rfl

theorem startWaiting_holds {k} (h : K.holds s) : K.holds (startWaiting k s) := by
  unfold startWaiting
  refine foldl_holds h (fun t x k' => ?_)
  split
  · exact k'
  · split
    · exact startNet_holds k'
    · exact endNet_holds k'

theorem setUp_holds {k} (h : K.holds s) : K.holds (setUp k s) := startWaiting_holds (h.only rfl)

theorem nextPath_holds {k x a b} (e : nextPath k x s = some (a, b, u)) (h : K.holds s) : K.holds u := by
  unfold nextPath at e
  simp only at e
  split at e
  · cases e
  · cases e
    exact modConn_holds h

theorem chargeSend_holds {a n} (h : K.holds s) : K.holds (chargeSend s a n) := by
  unfold chargeSend
  split
  · exact h.only rfl
  · exact h

theorem resend_holds {k a1 q} (h : K.holds s) : K.holds (resend k a1 q s) := by
  unfold resend
  simp only
  split
  · exact h
  · split
    · exact h
    next x y z t found =>
      exact emit_holds (modPerf2_holds (modConn_holds (chargeSend_holds (takeFree_snd_holds (nextPath_holds found h)))))

theorem sendNext_holds {k a1 m} (h : K.holds s) : K.holds (sendNext k a1 m s) := by
  unfold sendNext
  split
  · exact h
  next x y z t found =>
    simp only
    split
    · exact h
    · exact emit_holds (modConn_holds (chargeSend_holds (takeFree_snd_holds (nextPath_holds found h))))

theorem pruneTransient_holds (h : K.holds s) : K.holds (pruneTransient s) := h.only rfl

theorem progressStreams_holds (h : K.holds s) : K.holds (progressStreams s) := foldl_holds h (fun _ _ k => progressStream_holds k)

theorem progressAtts_holds (h : K.holds s) : K.holds (progressAtts s) := foldl_holds h (fun _ _ k => progressAtt_holds k)

theorem resume_holds (h : K.holds s) : K.holds (resume s) :=
  pruneTransient_holds (settle_holds (progressStreams_holds (progressAtts_holds (progressCues_holds h))))

theorem countLate_holds {g} (h : K.holds s) : K.holds (countLate g s) := h.only rfl

theorem roomForCopy_holds {owner t c n} (e : roomForCopy owner t c n s = some u) (h : K.holds s) : K.holds u := by
  unfold roomForCopy at e
  exact makeRoomBy_holds h e

theorem holdCopy_holds {g} (h : K.holds s) : K.holds (holdCopy g s) := by
  unfold holdCopy
  simp only
  split
  · exact setPage_holds h
  · exact trimWorking_holds (modWork_holds (setPage_holds h))

theorem landCopy_holds {g} (h : K.holds s) : K.holds (landCopy g s) := by
  unfold landCopy
  simp only
  split
  · exact h.only rfl
  · split
    · exact setPage_holds (h.only rfl)
    · split
      · exact h.only rfl
      · split
        next x t found =>
          split
          · exact h
          · exact holdCopy_holds (countLate_holds (modWork_holds (roomForCopy_holds found h)))
        · exact h.only rfl

theorem holdAllot_holds {c company} (h : K.holds s) : K.holds (holdAllot c company s) := by
  unfold holdAllot
  split
  · exact h
  · exact trimWorking_holds (aside_holds (fun _ => ⟨rfl, rfl, rfl, rfl, rfl⟩) h)

theorem startWriteBack_holds {p} (e : startWriteBack s p = some u) (h : K.holds s) : K.holds u := by
  unfold startWriteBack at e
  split at e
  · split at e
    · cases e
    · split at e
      · cases e
      · obtain ⟨x, found, e⟩ := Option.map_eq_some_iff.mp e
        cases e
        exact medium_holds (startItem_only ..) (modLoft_holds (makeRoomBeside_holds h found))

theorem completeRecord_holds {r} (h : K.holds s) : K.holds (completeRecord r s) := by
  unfold completeRecord
  split
  · exact h
  · split
    · exact h.only rfl
    · split
      · exact finishCore_holds h
      · exact h

theorem freeModel_holds {n} (h : K.holds s) : K.holds (freeModel n s) := by
  unfold freeModel
  split
  · exact h.only rfl
  · exact h

theorem dropMigrated_holds {c id} (h : K.holds s) : K.holds (dropMigrated c id s) :=
  foldl_holds h (fun _ _ k => dropAbove_holds k)

theorem recordDone_holds {k} (h : K.holds s) : K.holds (recordDone k s) := by
  unfold recordDone
  split
  · exact freeModel_holds h
  · exact dropMigrated_holds (h.only rfl)
  · exact h.only rfl
  · exact h

theorem readEnds_holds {g o} (h : K.holds s) : K.holds (readEnds g o s) := by
  unfold readEnds
  simp only
  split
  · exact foldl_holds (h.only rfl) (fun _ _ k => medium_holds (countReads_only ..) k)
  · exact foldl_holds (foldl_holds (h.only rfl) (fun _ _ k => medium_holds (countReads_only ..) k)) (fun _ _ k => medium_holds (leaveDie_only ..) k)

theorem endWaiters_holds {c what} (h : K.holds s) : K.holds (endWaiters c what s) := by
  unfold endWaiters
  split
  · exact sceneLost_holds h
  · exact setLost_holds h

theorem endOlder_holds {o k} (h : K.holds s) : K.holds (endOlder o k s) := by
  unfold endOlder
  refine foldl_holds (h.only rfl) (fun t x k' => ?_)
  split
  next y z u found =>
    exact queueMessage_holds (takeFree_holds k' found)

theorem endGrace_holds {o} (h : K.holds s) : K.holds (endGrace o s) :=
  settle_holds (foldl_holds (abortAll_fst_holds h) (fun _ _ k => endOlder_holds k))

theorem switchRules_holds {t o} (h : K.holds s) : K.holds (switchRules t o s) := by
  unfold switchRules
  simp only
  split
  · exact endGrace_holds (formRecord_holds (h.only rfl))
  · exact formRecord_holds (h.only rfl)

theorem joinConn_holds {c a1} (h : K.holds s) : K.holds (joinConn c a1 s) := by
  unfold joinConn
  split
  · simp only
    split
    · exact h.only rfl
    · exact h.only rfl
  · split
    · exact h.only rfl
    · exact h.only rfl

theorem dropConn_holds {k} (h : K.holds s) : K.holds (dropConn k s) :=
  update_holds (resetStreams_holds (resetCues_holds (foldl_holds h (fun _ _ k' => endNet_holds k'))))

theorem changeConns_holds {c} (h : K.holds s) : K.holds (changeConns c s) :=
  foldl_holds (foldl_holds h (fun _ _ k => dropConn_holds k)) (fun _ _ k => joinConn_holds k)

theorem deleteShut_holds {t l} (h : K.holds s) : K.holds (deleteShut t l s) :=
  foldl_holds h (fun _ _ k => removeQueue_holds (flushQueue_fst_holds k))

theorem fetchNet_holds {a0} (h : K.holds s) : K.holds (fetchNet a0 s) := by
  unfold fetchNet
  simp only
  split
  · exact h
  · exact h.only rfl

theorem holdRecords_holds {l} (h : K.holds s) : K.holds (holdRecords l s) := h.only rfl

theorem prestageRow_holds {c layer r sc} (h : K.holds s) : K.holds (prestageRow c layer r sc s) := by
  unfold prestageRow
  simp only
  split
  · exact h
  · refine foldl_holds h (fun t x k => ?_)
    split
    · exact k
    · exact askPage_holds k

theorem runBatch_holds {t a1 unread} {x} (h : K.holds s) (e : runBatch t a1 unread s = (x, u)) : K.holds u := by
  unfold runBatch at e
  cases e
  refine foldl_holds (modPerf2_holds ?_) (fun _ _ k => prestageRow_holds k)
  split
  · exact fetchNet_holds h
  · exact holdRecords_holds (fetchNet_holds h)

theorem selectRow_holds {t seq i} (h : K.holds s) : K.holds (selectRow t seq i s) := by
  unfold selectRow
  split
  · exact h
  · exact meetRow_holds (h.only rfl)

end

end Sys2Proof.Machine
end

-- Rows of the shapes that many commands share.
section
/-!
What the rows of messages, requests and packets keep.
-/
namespace Sys2Proof.Machine
open Sys2Proof

section
variable {K : Keeper} {s u : State}

theorem onlyIf_goes {b : Bool} (h : K.holds s) : K.goes (onlyIf b s) := by
  unfold onlyIf
  split
  · exact next_goes h
  · exact fault_goes

theorem shRow_goes {p go} (h : K.holds s) (each : ∀ k x s, K.holds s → K.holds (go k x s)) : K.goes (shRow p s go) := by
  unfold shRow
  split
  · exact fault_goes
  · split
    · exact next_goes h
    · split
      · exact next_goes (countDrop_holds h)
      · exact next_goes (each _ _ _ h)

theorem dataRow_goes {p go} (h : K.holds s) (each : ∀ k x s, K.holds s → K.holds (go k x s)) : K.goes (dataRow p s go) := by
  refine shRow_goes h fun k x s h => ?_
  dsimp only
  split
  · exact countDrop_holds h
  · split
    · exact sendAck_holds (heardFrom_holds h)
    · split
      · exact countDrop_holds h
      · exact each _ _ _ (dma_holds (heardFrom_holds h))

theorem spdmRow_goes {ep level go} (h : K.holds s) (each : ∀ s, K.holds s → K.holds (go s)) : K.goes (spdmRow ep level s go) := by
  unfold spdmRow
  split
  · exact fault_goes
  · split
    · exact next_goes h
    · split
      · exact next_goes (spdmError_holds h)
      · exact next_goes (each _ h)

theorem ideRow_goes {ep session code ok go} (h : K.holds s) (each : ∀ k s, K.holds s → K.holds (go k s)) :
    K.goes (ideRow ep session code ok go s) := by
  unfold ideRow
  split
  · exact fault_goes
  · split
    · exact next_goes h
    · split
      · exact next_goes (emit_holds h)
      · split
        · exact next_goes (emit_holds (each _ _ h))
        · exact next_goes (emit_holds h)

theorem fmRow_goes {k go} (h : K.holds s) (each : ∀ s, K.holds s → K.holds (go s)) : K.goes (fmRow k s go) := by
  unfold fmRow
  split
  · exact fault_goes
  · split
    · exact next_goes h
    · exact next_goes (each _ h)

theorem smbusRow_goes {go} (h : K.holds s) (each : ∀ s, K.holds s → K.holds (go s)) : K.goes (smbusRow s go) := by
  unfold smbusRow
  split
  · exact next_goes (each _ h)
  · exact next_goes h

end

end Sys2Proof.Machine
end

-- What the rows of queues, clusters and the Loft keep.
section
/-!
Each row of the first half of the instructions goes to a state that every keeper holds of.
-/
namespace Sys2Proof.Machine
open Sys2Proof

section
variable {K : Keeper} {s u : State}

theorem execNop_goes {r} (h : K.holds s) : K.goes (execNop r s) :=
  runRow_goes h (fun _ _ k => checked_holds k (fun _ k' => finish_holds k'))

theorem execIdentify_goes {r} (h : K.holds s) : K.goes (execIdentify r s) :=
  runRow_goes h (fun _ _ k => checked_holds k (fun _ k' => finish_holds (toHost_holds k')))

theorem execGetLog_goes {r} (h : K.holds s) : K.goes (execGetLog r s) :=
  runRow_goes h (fun _ _ k => checked_holds k (fun _ k' => finish_holds (toHost_holds k')))

theorem execGetFeature_goes {r} (h : K.holds s) : K.goes (execGetFeature r s) :=
  runRow_goes h (fun _ _ k => checked_holds k (fun _ k' => finish_holds k'))

theorem execSetFeature_goes {r} (h : K.holds s) : K.goes (execSetFeature r s) :=
  runRow_goes h (fun _ _ k => checked_holds k (fun _ k' => finish_holds (applyFeature_holds k')))

theorem execHealth_goes {r} (h : K.holds s) : K.goes (execHealth r s) :=
  runRow_goes h (fun _ _ k => checked_holds k (fun _ k' => finish_holds k'))

theorem execQuiesce_goes {r} (h : K.holds s) : K.goes (execQuiesce r s) := by
  unfold execQuiesce
  refine runRow_goes h (fun x t k => checked_holds k (fun u k' => ?_))
  simp only
  split
  · exact settle_holds (modWork_holds (setRunning_holds (reportQuiesce_holds (k'.only rfl))))
  · exact finish_holds (reportQuiesce_holds (k'.only rfl))

theorem execPin_goes {r} (h : K.holds s) : K.goes (execPin r s) :=
  runRow_goes h (fun _ _ k => checked_holds k (fun _ k' => finish_holds (k'.only rfl)))

theorem execUnpin_goes {r} (h : K.holds s) : K.goes (execUnpin r s) :=
  runRow_goes h (fun _ _ k => checked_holds k (fun _ k' => finish_holds (k'.only rfl)))

theorem mem_kdel {α : Type} {m : KMap α} {n : Nat} {p : Nat × α} (h : p ∈ kdel m n) : p ∈ m := by
  induction m with
  | nil => exact h
  | cons q r ih =>
    obtain ⟨k, v⟩ := q
    rw [kdel] at h
    split at h
    · exact .tail _ h
    · rcases List.mem_cons.mp h with h | h
      · exact h ▸ .head _
      · exact .tail _ (ih h)

theorem mapped_holds {b : Bool} {c v n stage off} (e : (if b then mapObject c v n stage s else none) = some (off, u)) (h : K.holds s) :
    K.holds u := by
  split at e
  · exact mapObject_holds e h
  · cases e

theorem execPlace_goes {r} (h : K.holds s) : K.goes (execPlace r s) := by
  refine runRow_goes h fun t s h => checked_holds h fun s h => ?_
  split
  · exact finish_holds ((unmap_holds h).objects fun wf p mem => wf p (mem_kdel mem))
  · split
    · exact failMove_holds h
    · refine inRoomMade_holds h (fun _ e => moveRoom_holds h e) fun s h => ?_
      split
      · dsimp only
        generalize made : newScratch _ _ _ s = x
        obtain ⟨n, u⟩ := x
        have made := newScratch_holds h made
        dsimp only
        split
        next found => exact finish_holds (mapped_holds found made)
        next => exact finish_holds made
      · have moved := moveObj_holds (t := t) (o := placeObj t s) (tier := fld (word t 1) 57 56) (place := true) h
        dsimp only
        split
        next found => exact finishMove_holds (mapped_holds found (moveObj_holds h))
        next => exact finishMove_holds (unmap_holds (moveObj_holds h))

theorem remapHome_snd_holds {b : Bool} {c what stage} (h : K.holds s) :
    K.holds (if b then (remap c what stage s).getD (0, s) else (0, s)).2 := by
  split
  · cases found : remap c what stage s with
    | none => exact h
    | some x => exact remap_holds found h
  · exact h

theorem execMigrate_goes {r} (h : K.holds s) : K.goes (execMigrate r s) := by
  refine runRow_goes h fun t s h => checked_holds h fun s h => ?_
  split
  · exact failMove_holds h
  · refine inRoomMade_holds h (fun _ e => moveRoom_holds h e) fun s h => ?_
    exact finishMove_holds (remapHome_snd_holds (moveObj_holds h))

theorem execWeightsLoad_goes {r} (h : K.holds s) : K.goes (execWeightsLoad r s) := by
  unfold execWeightsLoad
  refine runRow_goes h (fun x t k => checked_holds k (fun u k' => ?_))
  split
  · exact holdFor_holds (k'.only rfl)
  · exact inRoomMade_holds k' (fun _ y => weightsRoom_holds k' y) (fun _ h1 => setRunning_holds (medium_holds (startItem_only ..) (h1.only rfl)))

theorem execClusterLoad_goes {r} (h : K.holds s) : K.goes (execClusterLoad r s) :=
  runRow_goes h (fun _ _ k => checked_holds k (fun _ k' => finish_holds (k'.only rfl)))

theorem execPacketIntake_goes {qn words} (h : K.holds s) : K.goes (execPacketIntake qn words s) := by
  unfold execPacketIntake
  simp only
  split
  · exact next_goes h
  · split
    · exact fault_goes
    · split
      · exact next_goes h
      · split
        · exact next_goes (h.only rfl)
        · split
          · exact fault_goes
          · split
            · exact next_goes (settle_holds (completeWait_holds (dma_holds (h.only rfl))))
            · exact next_goes (startReads_holds (update_holds (dma_holds (h.only rfl))))

theorem execFencedDispatch_goes {r} (h : K.holds s) : K.goes (execFencedDispatch r s) := by
  unfold execFencedDispatch
  split
  · exact next_goes h
  · split
    · exact next_goes h
    · exact next_goes (h.only rfl)

theorem execHostReadCompletion_goes {r arrays} (h : K.holds s) : K.goes (execHostReadCompletion r arrays s) := by
  unfold execHostReadCompletion
  split
  · split
    · exact next_goes h
    · exact next_goes (startReads_holds h)
  · split
    · exact next_goes h
    · split
      · exact next_goes h
      · exact next_goes (finish_holds (h.only rfl))

theorem execHostReadTimeout_goes {r} (h : K.holds s) : K.goes (execHostReadTimeout r s) := by
  unfold execHostReadTimeout
  split
  · split
    · exact next_goes h
    · exact next_goes (settle_holds (abortUnrun_holds (readTimedOut_holds h)))
  · split
    · exact next_goes h
    · split
      · exact next_goes h
      · exact next_goes (settle_holds (abortOne_holds (readTimedOut_holds h)))

theorem execQueueCreate_goes {r} (h : K.holds s) : K.goes (execQueueCreate r s) := by
  refine runRow_goes h fun t s h => checked_holds h fun s h => inRoomMade_holds h (fun u e => ?_) fun _ h => finish_holds (update_holds h)
  split at e
  · cases e
    exact h
  · exact makeRoom_holds h e

theorem execQueueDelete_goes {r} (h : K.holds s) : K.goes (execQueueDelete r s) := by
  refine runRow_goes h fun t s h => checked_holds h fun s h => ?_
  dsimp only
  generalize flushed : flushQueue _ _ _ _ = x
  obtain ⟨u, slots, n⟩ := x
  exact settle_holds (modWork_holds (flushQueue_holds (modQueue_holds (setRunning_holds h)) flushed))

theorem execQueueFlush_goes {r} (h : K.holds s) : K.goes (execQueueFlush r s) := by
  refine runRow_goes h fun t s h => checked_holds h fun s h => ?_
  dsimp only
  generalize flushed : flushQueue _ _ _ _ = x
  obtain ⟨u, slots, n⟩ := x
  exact settle_holds (modWork_holds (flushQueue_holds (setRunning_holds h) flushed))

theorem execQueueWait_goes {r} (h : K.holds s) : K.goes (execQueueWait r s) := by
  unfold execQueueWait
  refine runRow_goes h (fun x t k => ?_)
  simp only
  split
  · exact settle_holds (completeWait_holds k)
  · exact settle_holds (k.only rfl)

theorem execQueueWaitTimeout_goes {r} (h : K.holds s) : K.goes (execQueueWaitTimeout r s) := by
  unfold execQueueWaitTimeout
  split
  · split
    · split
      · exact next_goes h
      · exact next_goes (settle_holds (endWait_holds h))
    · exact next_goes h
  · exact next_goes h

theorem execAdminQueueEnable_goes {a v} (h : K.holds s) : K.goes (execAdminQueueEnable a v s) := by
  unfold execAdminQueueEnable
  split
  · exact fault_goes
  · split
    · exact next_goes h
    · exact next_goes (h.only rfl)

theorem execAdminQueueDisable_goes {a v} (h : K.holds s) : K.goes (execAdminQueueDisable a v s) := by
  unfold execAdminQueueDisable
  split
  · exact fault_goes
  · split
    · exact next_goes h
    · exact next_goes (h.only rfl)

theorem execCompletionInterrupt_goes {qn} (h : K.holds s) : K.goes (execCompletionInterrupt qn s) := by
  unfold execCompletionInterrupt
  split
  · exact next_goes h
  · split
    · exact next_goes h
    · exact next_goes (sendMsix_holds (h.only rfl))

theorem execBackoffExpiry_goes {cls inst req item since} (h : K.holds s) : K.goes (execBackoffExpiry cls inst req item since s) := by
  unfold execBackoffExpiry
  split
  · exact fault_goes
  · split
    · exact next_goes h
    · exact next_goes (h.only rfl)

theorem execQuotaWindowEnd_goes {cls inst since} (h : K.holds s) : K.goes (execQuotaWindowEnd cls inst since s) := by
  unfold execQuotaWindowEnd
  split
  · exact fault_goes
  · split
    · exact next_goes h
    · exact next_goes (h.only rfl)

theorem execStarvationFlag_goes {cls inst req item} (h : K.holds s) : K.goes (execStarvationFlag cls inst req item s) := by
  unfold execStarvationFlag
  split
  · exact fault_goes
  · split
    · exact next_goes h
    · exact next_goes (h.only rfl)

theorem execHbmRefresh_goes {stack pc} (h : K.holds s) : K.goes (execHbmRefresh stack pc s) := onlyIf_goes h

theorem execArbCtrlWrite_goes {a j part v} (h : K.holds s) : K.goes (execArbCtrlWrite a j part v s) := by
  unfold execArbCtrlWrite
  split
  · exact fault_goes
  · split
    · exact next_goes h
    · exact next_goes (writeArbCtrl_holds h)

theorem execEventInterrupt_goes {e} (h : K.holds s) : K.goes (execEventInterrupt e s) := by
  unfold execEventInterrupt
  split
  · exact fault_goes
  · split
    · exact next_goes h
    · exact next_goes (update_holds (sendMsix_holds h))

theorem execEpochWrite_goes {a v} (h : K.holds s) : K.goes (execEpochWrite a v s) := by
  unfold execEpochWrite
  split
  · exact fault_goes
  · split
    · exact next_goes h
    · exact next_goes (writeEpoch_holds h)

theorem immRow_goes {op c f} (h : K.holds s) : K.goes (immRow op c f s) := coreRow_goes h (fun _ _ => done_does (ret_holds h))

theorem execAlu_goes {c} (h : K.holds s) : K.goes (execAlu c s) := coreRow_goes h (fun _ _ => done_does (ret_holds h))

theorem execAddi_goes {c} (h : K.holds s) : K.goes (execAddi c s) := immRow_goes h

theorem execAndi_goes {c} (h : K.holds s) : K.goes (execAndi c s) := immRow_goes h

theorem execOri_goes {c} (h : K.holds s) : K.goes (execOri c s) := immRow_goes h

theorem execXori_goes {c} (h : K.holds s) : K.goes (execXori c s) := immRow_goes h

theorem execShi_goes {c} (h : K.holds s) : K.goes (execShi c s) := coreRow_goes h (fun _ _ => done_does (ret_holds h))

theorem execMovi_goes {c} (h : K.holds s) : K.goes (execMovi c s) := coreRow_goes h (fun _ _ => done_does (ret_holds h))

theorem execLdpc_goes {c ecc} (h : K.holds s) : K.goes (execLdpc c ecc s) := by
  unfold execLdpc
  refine coreRow_goes h (fun x y => ?_)
  split
  · exact fault_does
  · simp only
    split
    · exact done_does (ret_holds h)
    · exact done_does (ret_holds (takeFree_snd_holds h))

theorem execCmp_goes {c} (h : K.holds s) : K.goes (execCmp c s) :=
  coreRow_goes h fun _ _ => done_does (setCore_next_holds (fun _ => pc_setP ..) h)

theorem execCmpi_goes {c} (h : K.holds s) : K.goes (execCmpi c s) :=
  coreRow_goes h fun _ _ => done_does (setCore_next_holds (fun _ => pc_setP ..) h)

theorem execPred_goes {c} (h : K.holds s) : K.goes (execPred c s) := by
  refine coreRow_goes h fun x runs => ?_
  dsimp only
  split
  · exact done_does (ret_holds h)
  · split
    · exact done_does (setCore_next_holds (f := fun k => { k with p := (sreg k (raOf x.w)).truncate 8 &&& 0xFE }) (fun _ => rfl) h)
    · exact done_does (setCore_next_holds (fun _ => pc_setP ..) h)

theorem loadRow_goes {op c n signed ecc} (h : K.holds s) : K.goes (loadRow op c n signed ecc s) := by
  unfold loadRow
  refine coreRow_goes h (fun x y => ?_)
  simp only
  split
  · exact fault_does
  · split
    · split
      · exact wait_does
      · split
        · exact fault_does
        · exact done_does (spend_holds (ret_holds h))
    · split
      · split
        · exact fault_does
        · exact done_does (ret_holds h)
      · exact fault_does

theorem execLdd_goes {c ecc} (h : K.holds s) : K.goes (execLdd c ecc s) := loadRow_goes h

theorem execLdw_goes {c ecc} (h : K.holds s) : K.goes (execLdw c ecc s) := loadRow_goes h

theorem execLdwu_goes {c ecc} (h : K.holds s) : K.goes (execLdwu c ecc s) := loadRow_goes h

theorem execLdh_goes {c ecc} (h : K.holds s) : K.goes (execLdh c ecc s) := loadRow_goes h

theorem execLdhu_goes {c ecc} (h : K.holds s) : K.goes (execLdhu c ecc s) := loadRow_goes h

theorem execLdb_goes {c ecc} (h : K.holds s) : K.goes (execLdb c ecc s) := loadRow_goes h

theorem execLdbu_goes {c ecc} (h : K.holds s) : K.goes (execLdbu c ecc s) := loadRow_goes h

theorem storeRow_goes {op c n} (h : K.holds s) : K.goes (storeRow op c n s) := by
  refine coreRow_goes h fun x runs => ?_
  dsimp only
  split
  · exact fault_does
  · split
    · exact fault_does
    · split
      · exact wait_does
      · exact done_does (next_holds (areaStore_holds h))

theorem execStd_goes {c} (h : K.holds s) : K.goes (execStd c s) := storeRow_goes h

theorem execStw_goes {c} (h : K.holds s) : K.goes (execStw c s) := storeRow_goes h

theorem execSth_goes {c} (h : K.holds s) : K.goes (execSth c s) := storeRow_goes h

theorem execStb_goes {c} (h : K.holds s) : K.goes (execStb c s) := storeRow_goes h

theorem branchPc_aligned {x : CoreCtx} (h : x.cl.core.pc.toNat % 4 = 0) : (branchPc x).toNat % 4 = 0 := by
  have four : (4 : Word64).toNat = 4 := rfl
  simp only [branchPc, w64, BitVec.toNat_setWidth, BitVec.toNat_add, BitVec.toNat_mul, BitVec.toNat_ofNat, four]
  omega

/-- A change of a core that takes a branch. -/
theorem branch_holds {c x} {f : Core → Core} (runs : running c s = some x) (target : ∀ k, (f k).pc = branchPc x) (h : K.holds s) :
    K.holds (setCore x f s) :=
  h.cluster (fun formed => formed.core rfl rfl rfl
    ((target _).symm ▸ branchPc_aligned ((clusterIn_some (running_clusterIn runs)).cluster ▸ formed.pc))) rfl

theorem execBr_goes {c} (h : K.holds s) : K.goes (execBr c s) :=
  coreRow_goes h fun _ runs => done_does (branch_holds runs (fun _ => rfl) h)

theorem execCall_goes {c} (h : K.holds s) : K.goes (execCall c s) :=
  coreRow_goes h fun _ runs => done_does (branch_holds runs (fun _ => rfl) h)

theorem aligned_jump {v : Word64} (h : v.toNat % 4 = 0) : (v.truncate 16 : BitVec 16).toNat % 4 = 0 := by
  rw [BitVec.toNat_setWidth]
  omega

theorem execJr_goes {c} (h : K.holds s) : K.goes (execJr c s) := by
  refine coreRow_goes h fun x runs => ?_
  dsimp only
  split
  · exact fault_does
  next word =>
    refine done_does (setCore_holds (fun _ _ => aligned_jump ?_) h)
    simpa using word

theorem csrRead_snd_holds {x n} (h : K.holds s) : K.holds (csrRead x n s).2 := csrRead_holds h (Prod.eta _).symm

theorem execCsrr_goes {c} (h : K.holds s) : K.goes (execCsrr c s) := by
  unfold execCsrr
  refine coreRow_goes h (fun x y => ?_)
  simp only
  split
  · exact wait_does
  · exact done_does (ret_holds (csrRead_snd_holds h))

theorem execCsrw_goes {c} (h : K.holds s) : K.goes (execCsrw c s) := by
  refine coreRow_goes h fun x runs => ?_
  have pc (f : Core → Core) (same : ∀ k, (f k).pc = k.pc) : K.does (.done (setCore x (fun k => nextPc (f k)) s)) :=
    done_does (setCore_next_holds same h)
  dsimp only
  split
  · exact pc (fun k => { k with mbxCfg := setAt k.mbxCfg _ _ }) fun _ => rfl
  · split
    · split
      · exact fault_does
      · split
        · exact fault_does
        · exact pc (fun k => { k with cntSrc := setAt k.cntSrc _ _ }) fun _ => rfl
    · split
      · exact pc (fun k => { k with cnt := setAt k.cnt _ _ }) fun _ => rfl
      · split
        · exact wait_does
        · split
          · exact fault_does
          · exact done_does (next_holds (aside_holds (fun _ => ⟨rfl, rfl, rfl, rfl, rfl⟩) h))

theorem execFence_goes {c} (h : K.holds s) : K.goes (execFence c s) := by
  refine coreRow_goes h fun x runs => ?_
  split
  · exact done_does (next_holds h)
  · exact wait_does

theorem execHalt_goes {c} (h : K.holds s) : K.goes (execHalt c s) := by
  unfold execHalt
  refine coreRow_goes h (fun x y => ?_)
  split
  · exact done_does (aside_holds (fun _ => ⟨rfl, rfl, rfl, rfl, rfl⟩) h)
  · exact wait_does

theorem execTrap_goes {c} (h : K.holds s) : K.goes (execTrap c s) := coreRow_goes h (fun _ _ => fault_does)

theorem execIllegalInstruction_goes {c} (h : K.holds s) : K.goes (execIllegalInstruction c s) := by
  unfold execIllegalInstruction
  split
  · exact fault_goes
  · split
    · exact next_goes h
    · split
      · exact next_goes (faultWhenClear_holds h)
      · exact next_goes h

theorem execFetchFault_goes {c} (h : K.holds s) : K.goes (execFetchFault c s) := by
  unfold execFetchFault
  split
  · exact fault_goes
  · split
    · exact next_goes h
    · split
      · exact next_goes h
      · exact next_goes (faultWhenClear_holds h)

theorem execSend_goes {c} (h : K.holds s) : K.goes (execSend c s) := by
  refine coreRow_goes h fun x runs => ?_
  dsimp only
  split
  · exact fault_does
  · split
    · exact fault_does
    · split
      · exact fault_does
      · split
        · exact wait_does
        · refine done_does (sendItem_holds ?_)
          have pending : K.holds (setCore x (fun k => nextPc { k with pendRd := if rdOf x.w == 0 then k.pendRd else k.pendRd ++ [rdOf x.w] })
            (spend s)) := setCore_next_holds (f := fun k => { k with pendRd := _ }) (fun _ => rfl) (spend_holds h)
          split
          · exact aside_holds (fun _ => ⟨rfl, rfl, rfl, rfl, rfl⟩) pending
          · exact pending

theorem execMailboxArrival_goes {src dst mbx} (h : K.holds s) : K.goes (execMailboxArrival src dst mbx s) := by
  unfold execMailboxArrival
  split
  · exact fault_goes
  · split
    · simp only
      split
      · refine next_goes ?_
        split
        · exact sendItem_holds (aside_holds (fun _ => ⟨rfl, rfl, rfl, rfl, rfl⟩) (h.only rfl))
        · exact aside_holds (fun _ => ⟨rfl, rfl, rfl, rfl, rfl⟩) (h.only rfl)
      · split
        · refine next_goes ?_
          split
          · exact h.only rfl
          · exact h.only rfl
        · refine next_goes ?_
          split
          · split
            · exact sendItem_holds (bump_holds (aside_holds (fun _ => ⟨rfl, rfl, rfl, rfl, rfl⟩) (h.only rfl)))
            · exact bump_holds (aside_holds (fun _ => ⟨rfl, rfl, rfl, rfl, rfl⟩) (h.only rfl))
          · split
            · exact sendItem_holds (aside_holds (fun _ => ⟨rfl, rfl, rfl, rfl, rfl⟩) (h.only rfl))
            · exact aside_holds (fun _ => ⟨rfl, rfl, rfl, rfl, rfl⟩) (h.only rfl)
    · exact next_goes h

theorem execSendAck_goes {c} (h : K.holds s) : K.goes (execSendAck c s) := by
  unfold execSendAck
  split
  · exact fault_goes
  · split
    · exact next_goes (setCore_pc_holds (fun _ => pc_setS ..) (modWork_holds h))
    · exact next_goes h

theorem execRecv_goes {c} (h : K.holds s) : K.goes (execRecv c s) := by
  refine coreRow_goes h fun x runs => ?_
  dsimp only
  split
  · exact fault_does
  · split
    · exact done_does (ret_holds h)
    · split
      · exact fault_does
      · split
        · exact wait_does
        · exact done_does (ret_holds (setCore_pc_holds (fun _ => rfl) (areaStore_holds h)))

theorem remoteRow_goes {op c put} (h : K.holds s) : K.goes (remoteRow op c put s) := by
  unfold remoteRow
  refine coreRow_goes h (fun x y => ?_)
  simp only
  split
  · exact fault_does
  · split
    · exact fault_does
    · split
      · exact fault_does
      · split
        · exact wait_does
        · exact done_does (issue_holds (h.only rfl))

theorem execPut_goes {c} (h : K.holds s) : K.goes (execPut c s) := remoteRow_goes h

theorem execGet_goes {c} (h : K.holds s) : K.goes (execGet c s) := remoteRow_goes h

theorem execSig_goes {c} (h : K.holds s) : K.goes (execSig c s) := by
  refine coreRow_goes h fun x runs => ?_
  dsimp only
  split
  · exact fault_does
  · exact done_does (sendItem_holds (next_holds h))

theorem execSignalArrival_goes {src dst} (h : K.holds s) : K.goes (execSignalArrival src dst s) := by
  unfold execSignalArrival
  split
  · exact fault_goes
  · split
    · split
      · exact next_goes h
      · exact next_goes (bump_holds (h.only rfl))
    · exact next_goes h

theorem execWaitc_goes {c} (h : K.holds s) : K.goes (execWaitc c s) := by
  unfold execWaitc
  refine coreRow_goes h (fun x y => ?_)
  simp only
  split
  · exact done_does (ret_holds h)
  · exact done_does (aside_holds (fun _ => ⟨rfl, rfl, rfl, rfl, rfl⟩) h)

theorem execWaitcTimeout_goes {c} (h : K.holds s) : K.goes (execWaitcTimeout c s) := by
  unfold execWaitcTimeout
  split
  · exact fault_goes
  · split
    · exact next_goes h
    · split
      · split
        · exact next_goes (endWaitc_holds h)
        · exact next_goes h
      · exact next_goes h

theorem execMove_goes {c} (h : K.holds s) : K.goes (execMove c s) := by
  unfold execMove
  refine coreRow_goes h (fun x y => ?_)
  simp only
  split
  · exact fault_does
  · split
    · exact fault_does
    · split
      · exact fault_does
      · split
        · split
          · exact fault_does
          · split
            · exact fault_does
            · split
              · exact wait_does
              · refine done_does ?_
                split
                · exact emit_holds (dma_holds (foldl_holds (issue_holds (h.only rfl)) (fun _ _ k => wantPage_holds k)))
                · exact foldl_holds (issue_holds (h.only rfl)) (fun _ _ k => wantPage_holds k)
        · split
          · exact fault_does
          · split
            · exact fault_does
            · split
              · exact wait_does
              · refine done_does ?_
                split
                · exact emit_holds (dma_holds (foldl_holds (issue_holds (h.only rfl)) (fun _ _ k => wantPage_holds k)))
                · exact foldl_holds (issue_holds (h.only rfl)) (fun _ _ k => wantPage_holds k)

theorem execPage_goes {c} (h : K.holds s) : K.goes (execPage c s) := by
  unfold execPage
  refine coreRow_goes h (fun x y => ?_)
  simp only
  split
  · exact fault_does
  · split
    · exact fault_does
    · split
      · exact fault_does
      · split
        · exact fault_does
        · split
          · exact fault_does
          · split
            · exact fault_does
            · split
              · exact wait_does
              · exact done_does (wantPage_holds (issue_holds (translate_holds h)))

/-- A transfer that fails, while its core runs and after. -/
theorem failTransfer_holds {x : CoreCtx} {c code id pc : Nat} (h : K.holds s) :
    K.holds (if x.cl.st == 2 || x.cl.st == 3 then coreFault x code 0 pc (dropXfer x id s)
      else modRun x.run.seq (fun r => { r with fault := some (firstFault (now (dropXfer x id s), c, code, pc, 0) r.fault) }) (dropXfer x id s)) := by
  split
  · exact coreFault_holds (dropXfer_holds h)
  · exact modRun_holds (dropXfer_holds h)

theorem execTransferComplete_goes {c id data ecc} (h : K.holds s) : K.goes (execTransferComplete c id data ecc s) := by
  unfold execTransferComplete
  split
  · exact fault_goes
  · split
    · exact next_goes h
    · split
      · exact next_goes h
      · dsimp only
        split
        · exact next_goes (failTransfer_holds h)
        · split
          · exact next_goes (failTransfer_holds h)
          · split
            · split
              · exact next_goes (dropXfer_holds h)
              · exact next_goes (bump_holds (areaStore_holds (spend_holds (dropXfer_holds h))))
            · split
              · exact next_goes (dropXfer_holds h)
              · exact next_goes (landHere_holds (spend_holds h))
            · split
              · exact next_goes (dropXfer_holds h)
              · exact next_goes (bump_holds (spend_holds (bufWrite_holds (dropXfer_holds h))))
            · split
              · exact next_goes (dropXfer_holds h)
              · split
                · split
                  · exact next_goes h
                  · exact next_goes (landHere_holds h)
                · split
                  · exact next_goes (failTransfer_holds h)
                  · split
                    · exact next_goes h
                    · exact next_goes (landHere_holds h)
            · split
              · exact next_goes h
              · exact next_goes (landHere_holds h)

theorem execClusterRun_goes {r} (h : K.holds s) : K.goes (execClusterRun r s) :=
  runRow_goes h (fun _ _ k => checked_holds k (fun _ k' => setRunning_holds (k'.only rfl)))

theorem formed_startCluster (v : State) (r : RunOp) (rank : Nat) (c : Cluster) : Formed (startCluster v r rank c) :=
  ⟨rfl, fun none => (nomatch none), rfl, fun _ none => (nomatch none)⟩

theorem execRunStart_goes {r} (h : K.holds s) : K.goes (execRunStart r s) := by
  unfold execRunStart
  split
  · exact next_goes h
  · split
    · exact next_goes h
    · refine next_goes (trimWorking_holds (modRun_holds (foldl_holds h fun s x h => ?_)))
      obtain ⟨c, rank⟩ := x
      dsimp only
      split
      · exact (spend_holds h).cluster (fun _ => formed_startCluster ..) rfl
      · exact h

theorem execRunTimeLimit_goes {r} (h : K.holds s) : K.goes (execRunTimeLimit r s) := by
  unfold execRunTimeLimit
  split
  · exact next_goes h
  · split
    · exact next_goes h
    · split
      · exact next_goes h
      · exact next_goes (haltRun_holds (h.only rfl))

theorem leaveRun_holds {seq : Nat} (h : K.holds s) :
    K.holds { s with clusters := kmap s.clusters fun _ x => if x.run == some seq then { x with run := none } else x } := by
  refine h.kmap (fun p c formed => ?_) fun p c => ?_
  · split
    · exact formed.of rfl rfl rfl rfl
    · exact formed
  · split <;> rfl

theorem execRunEnd_goes {r} (h : K.holds s) : K.goes (execRunEnd r s) := by
  unfold execRunEnd
  split
  · exact next_goes h
  · split
    · exact next_goes h
    · split
      · exact next_goes h
      · exact next_goes (finish_holds (modWork_holds (leaveRun_holds (modWork_holds h))))

theorem execClusterHalt_goes {r} (h : K.holds s) : K.goes (execClusterHalt r s) := by
  unfold execClusterHalt
  refine runRow_goes h (fun x t k => checked_holds k (fun u k' => ?_))
  split
  · exact finish_holds k'
  · refine finish_holds ?_
    split
    · exact finishCore_holds k'
    · split
      · exact finishCore_holds (k'.only rfl)
      · exact haltRun_holds (k'.only rfl)

theorem execClusterScrub_goes {c company} (h : K.holds s) : K.goes (execClusterScrub c company s) := by
  unfold execClusterScrub
  split
  · exact fault_goes
  · split
    · exact next_goes h
    · split
      · exact next_goes h
      · exact next_goes (modPerf2_holds (h.cluster (fun _ => formed_fresh.of rfl rfl rfl rfl) rfl))

theorem execMidnightScan_goes (h : K.holds s) : K.goes (execMidnightScan s) :=
  next_goes (settle_holds (foldl_holds (foldl_holds (foldl_holds h (fun _ _ k => modPerf2_holds (endWaitc_holds k))) (fun _ _ k => breakCluster_holds k)) (fun _ _ k => breakQueue_holds k)))

theorem runCue_goes {isCue opc r} (h : K.holds s) : K.goes (runCue isCue opc r s) := by
  unfold runCue
  refine runRow_goes h (fun x t k => checked_holds k (fun u k' => ?_))
  simp only
  split
  · exact failCue_holds k'
  · exact progressCues_holds (stageItems_holds (modWork_holds (setRunning_holds (translateCue_holds k'))))

theorem execCue_goes {r} (h : K.holds s) : K.goes (execCue r s) := runCue_goes h

theorem execDeliver_goes {r} (h : K.holds s) : K.goes (execDeliver r s) := runCue_goes h

theorem execCueNotBefore_goes {r} (h : K.holds s) : K.goes (execCueNotBefore r s) := by
  unfold execCueNotBefore
  split
  · exact next_goes h
  · split
    · exact next_goes h
    · exact next_goes (progressCues_holds (h.only rfl))

theorem execCueCutoff_goes {r} (h : K.holds s) : K.goes (execCueCutoff r s) := by
  unfold execCueCutoff
  split
  · exact next_goes h
  · split
    · exact next_goes h
    · split
      · exact next_goes h
      · exact next_goes (progressCues_holds (h.only rfl))

theorem execCancelCue_goes {r} (h : K.holds s) : K.goes (execCancelCue r s) := by
  unfold execCancelCue
  refine runRow_goes h (fun x t k => checked_holds k (fun u k' => ?_))
  split
  · exact finish_holds k'
  · refine finish_holds ?_
    split
    · exact progressCue_holds (k'.only rfl)
    · exact k'.only rfl

theorem execWeightsStream_goes {r} (h : K.holds s) : K.goes (execWeightsStream r s) := by
  unfold execWeightsStream
  refine runRow_goes h (fun x t k => checked_holds k (fun u k' => ?_))
  split
  · exact finish_holds k'
  · exact progressStream_holds (k'.only rfl)

theorem execWeightsSlotFree_goes {r} (h : K.holds s) : K.goes (execWeightsSlotFree r s) := by
  unfold execWeightsSlotFree
  split
  · exact next_goes h
  · exact next_goes (progressStream_holds h)

theorem execWeightsLayerCutoff_goes {r j} (h : K.holds s) : K.goes (execWeightsLayerCutoff r j s) := by
  unfold execWeightsLayerCutoff
  split
  · exact next_goes h
  · split
    · exact next_goes h
    · split
      · exact next_goes h
      · exact next_goes (progressStream_holds (h.only rfl))

theorem runAttend_goes {sparse opc r} (h : K.holds s) : K.goes (runAttend sparse opc r s) := by
  unfold runAttend
  refine runRow_goes h (fun x t k => checked_holds k (fun u k' => ?_))
  simp only
  split
  · exact finish_holds (k'.only rfl)
  · split
    · exact beginAttend_holds k'
    · exact foldl_holds (beginAttend_holds k') (fun _ _ h1 => meetRow_holds h1)

theorem execAttend_goes {r} (h : K.holds s) : K.goes (execAttend r s) := runAttend_goes h

theorem execAttendSparse_goes {r} (h : K.holds s) : K.goes (execAttendSparse r s) := runAttend_goes h

theorem maybeFree_snd_holds {b : Bool} (h : K.holds s) : K.holds (if b then takeFree s else (0, s)).2 := by
  split
  · exact h.only rfl
  · exact h

theorem execAllotmentDispatch_goes {c} (h : K.holds s) : K.goes (execAllotmentDispatch c s) := by
  unfold execAllotmentDispatch
  split
  · exact fault_goes
  · split
    · exact next_goes h
    · split
      · exact next_goes h
      · split
        · exact next_goes h
        · dsimp only
          split
          · exact next_goes h
          · exact next_goes (progressAtt_holds (modAtt_holds (translate_holds (foldl_holds (maybeFree_snd_holds h)
              fun _ _ k => holdAllot_holds k))))

theorem execAttendCutoff_goes {r} (h : K.holds s) : K.goes (execAttendCutoff r s) := by
  unfold execAttendCutoff
  split
  · exact next_goes h
  · split
    · exact next_goes h
    · split
      · exact next_goes h
      · exact next_goes (progressAtt_holds (h.only rfl))

theorem execSketchQuery_goes {r} (h : K.holds s) : K.goes (execSketchQuery r s) := by
  unfold execSketchQuery
  refine runRow_goes h (fun x t k => checked_holds k (fun u k' => ?_))
  simp only
  split
  · exact finish_holds k'
  · exact k'.only rfl

theorem runBatch_snd_holds {t x unread} (h : K.holds s) : K.holds (runBatch t x unread s).2 := runBatch_holds h (Prod.eta _).symm

theorem execScoringBatchComplete_goes {r unread} (h : K.holds s) : K.goes (execScoringBatchComplete r unread s) := by
  unfold execScoringBatchComplete
  split
  · exact next_goes h
  · split
    · split
      next x y t found =>
        split
        · exact next_goes (modWork_holds (runBatch_holds h found))
        · exact next_goes (finish_holds (toHost_holds (modWork_holds (runBatch_holds h found))))
    · split
      · exact next_goes h
      · split
        · exact next_goes h
        · simp only
          split
          · exact next_goes (progressAtt_holds (foldl_holds (modAtt_holds (runBatch_snd_holds h)) (fun _ _ k => selectRow_holds k)))
          · exact next_goes (progressAtt_holds (foldl_holds (modAtt_holds (runBatch_snd_holds h)) (fun _ _ k => selectRow_holds k)))

theorem execWriteBackStart_goes (h : K.holds s) : K.goes (execWriteBackStart s) := by
  unfold execWriteBackStart
  split
  · exact next_goes h
  · refine next_goes ?_
    cases found : s.loft.wbQueue.findSome? (startWriteBack s) with
    | none => exact h
    | some u =>
      obtain ⟨p, -, e⟩ := List.exists_of_findSome?_eq_some found
      exact startWriteBack_holds e h

theorem execDieFailure_goes {d} (h : K.holds s) : K.goes (execDieFailure d s) := by
  unfold execDieFailure
  split
  · exact fault_goes
  · split
    · exact next_goes h
    · exact next_goes (failDie_holds h)

theorem execLoftProgramComplete_goes {o} (h : K.holds s) : K.goes (execLoftProgramComplete o s) := by
  unfold execLoftProgramComplete
  split
  · exact fault_goes
  · split
    · exact next_goes h
    · simp only
      split
      · split
        · split
          · exact next_goes h
          · exact next_goes (blockFails_holds (medium_holds (againLater_only ..) (h.only rfl)))
        · exact next_goes (afterMedium_holds (medium_holds (landUnit_only ..) h))
      · split
        · split
          · exact next_goes h
          · exact next_goes (blockFails_holds (medium_holds (againLater_only ..) (h.only rfl)))
        · exact next_goes (afterMedium_holds (medium_holds (landRebuilt_only ..) h))
      · exact next_goes h

theorem execStripeCloseTimer_goes {half} (h : K.holds s) : K.goes (execStripeCloseTimer half s) := by
  unfold execStripeCloseTimer
  split
  · exact fault_goes
  · split
    · exact next_goes h
    · split
      · exact next_goes h
      · exact next_goes (afterMedium_holds (h.only rfl))

theorem execLoftEraseComplete_goes {d b failed} (h : K.holds s) : K.goes (execLoftEraseComplete d b failed s) := by
  unfold execLoftEraseComplete
  split
  · exact fault_goes
  · split
    · exact next_goes h
    · simp only
      split
      · exact next_goes (blockFails_holds (h.only rfl))
      · exact next_goes (afterMedium_holds (medium_holds (blockErased_only ..) (h.only rfl)))

theorem execSuspendExpiry_goes {d} (h : K.holds s) : K.goes (execSuspendExpiry d s) := by
  unfold execSuspendExpiry
  simp only
  split
  · exact fault_goes
  · split
    · exact next_goes h
    · exact next_goes (redirectLoads_holds (h.only rfl))

theorem execJournalRecordComplete_goes (h : K.holds s) : K.goes (execJournalRecordComplete s) := by
  unfold execJournalRecordComplete
  simp only
  split
  · exact next_goes h
  · exact next_goes (settle_holds (startJournal_holds (foldl_holds (modLoft_holds (writeRecords_holds h)) (fun _ _ k => completeRecord_holds (recordDone_holds k)))))

theorem execIndexCheckpoint_goes (h : K.holds s) : K.goes (execIndexCheckpoint s) := by
  unfold execIndexCheckpoint
  split
  · exact next_goes h
  · split
    · exact next_goes (h.only rfl)
    · exact next_goes h

theorem execLoftReadComplete_goes {c what o} (h : K.holds s) : K.goes (execLoftReadComplete c what o s) := by
  unfold execLoftReadComplete
  split
  · exact next_goes h
  · simp only
    split
    · exact next_goes (dropCopies_holds (readEnds_holds h))
    · split
      · exact next_goes (issueReads_holds (readEnds_holds h))
      · split
        · exact next_goes (issueReads_holds (losePage_holds (readEnds_holds h)))
        · split
          · exact next_goes (endWaiters_holds (readEnds_holds h))
          · exact next_goes (afterMedium_holds (retirePage_holds (readEnds_holds h)))

theorem execStagingComplete_goes {c what} (h : K.holds s) : K.goes (execStagingComplete c what s) := by
  unfold execStagingComplete
  simp only
  split
  · exact next_goes h
  · exact next_goes (issueReads_holds (resume_holds (foldl_holds h (fun _ _ k => landCopy_holds k))))

theorem execRebuildComplete_goes {d} (h : K.holds s) : K.goes (execRebuildComplete d s) := by
  unfold execRebuildComplete
  split
  · exact fault_goes
  · split
    · exact next_goes h
    · exact next_goes (h.only rfl)

theorem execPatrolScrub_goes {d b o lost} (h : K.holds s) : K.goes (execPatrolScrub d b o lost s) := by
  unfold execPatrolScrub
  split
  · exact fault_goes
  · split
    · exact next_goes h
    · exact next_goes (afterMedium_holds (endPass_holds (scrubBlock_holds h)))

theorem execReadRetryCalibration_goes {d ok moved} (h : K.holds s) : K.goes (execReadRetryCalibration d ok moved s) := by
  unfold execReadRetryCalibration
  split
  · exact fault_goes
  · split
    · exact next_goes h
    · simp only
      split
      · exact next_goes h
      · split
        · exact next_goes (failDie_holds h)
        · exact next_goes (medium_holds (kick_only ..) (h.only rfl))

theorem execCalibrationOverdue_goes {d moved} (h : K.holds s) : K.goes (execCalibrationOverdue d moved s) := by
  unfold execCalibrationOverdue
  split
  · exact fault_goes
  · split
    · exact next_goes h
    · exact next_goes (redirectLoads_holds (h.only rfl))

theorem execReadDisturbRefresh_goes {d b} (h : K.holds s) : K.goes (execReadDisturbRefresh d b s) := by
  unfold execReadDisturbRefresh
  split
  · exact fault_goes
  · split
    · exact next_goes h
    · exact next_goes (afterMedium_holds (medium_holds (relocate_only ..) (h.only rfl)))

theorem execReclamation_goes {d b} (h : K.holds s) : K.goes (execReclamation d b s) := by
  unfold execReclamation
  split
  · exact fault_goes
  · split
    · exact next_goes h
    · exact next_goes (afterMedium_holds (medium_holds (relocate_only ..) h))

theorem execStaticWearLevelling_goes {d cold worn} (h : K.holds s) : K.goes (execStaticWearLevelling d cold worn s) := by
  unfold execStaticWearLevelling
  split
  · exact fault_goes
  · split
    · exact next_goes h
    · exact next_goes (afterMedium_holds (medium_holds (shiftBlock_only ..) h))

theorem execCompanyCreate_goes {r} (h : K.holds s) : K.goes (execCompanyCreate r s) :=
  runRow_goes h (fun _ _ k => checked_holds k (fun _ k' => holdFor_holds (zeroRegions_holds (update_holds (foldl_holds (k'.only rfl) (fun _ _ h1 => h1.only rfl))))))

theorem execCompanyDestroy_goes {r} (h : K.holds s) : K.goes (execCompanyDestroy r s) := by
  unfold execCompanyDestroy
  refine runRow_goes h (fun x t k => checked_holds k (fun u k' => ?_))
  split
  · exact k'.only rfl
  · exact holdFor_holds (zeroRegions_holds (destroyCompany_holds k'))

theorem execAdmit_goes {r} (h : K.holds s) : K.goes (execAdmit r s) :=
  runRow_goes h (fun _ _ k => checked_holds k (fun _ k' => inRoomMade_holds k' (fun _ y => shrinkAll_holds k' y) (fun _ h1 => h1.only rfl)))

theorem execRelease_goes {r} (h : K.holds s) : K.goes (execRelease r s) := by
  refine runRow_goes h fun t s h => checked_holds h fun s h => ?_
  dsimp only
  split
  · exact h
  · refine holdFor_holds (modCompany_holds (Keeper.holds.objects (foldl_holds (dropMedium_holds (removeAll_holds h))
      fun _ _ k => formRecord_holds k) fun wf p mem => wf p (List.mem_filter.mp mem).1))

theorem execModelRegister_goes {r} (h : K.holds s) : K.goes (execModelRegister r s) :=
  runRow_goes h (fun _ _ k => checked_holds k (fun _ k' => k'.only rfl))

theorem execModelRetire_goes {r} (h : K.holds s) : K.goes (execModelRetire r s) := by
  unfold execModelRetire
  split
  · refine next_goes (checked_holds h (fun t k => ?_))
    simp only
    split
    · exact retireModel_holds (k.only rfl)
    · exact modWork_holds (k.only rfl)
  · split
    · refine next_goes ?_
      split
      · exact retireModel_holds h
      · exact h
    · exact next_goes h

theorem execBirsp_goes {a line dirty} (h : K.holds s) : K.goes (execBirsp a line dirty s) := by
  unfold execBirsp
  split
  · exact fault_goes
  · simp only
    split
    · exact next_goes h
    · refine next_goes (answered_holds (release_holds ?_))
      split
      · exact writeLine_holds h
      · exact h

theorem execBiSnoopTimeout_goes {a line} (h : K.holds s) : K.goes (execBiSnoopTimeout a line s) := by
  unfold execBiSnoopTimeout
  split
  · exact fault_goes
  · simp only
    split
    · exact next_goes h
    · refine next_goes (postEvent_holds (modPort_holds (foldl_holds (foldl_holds (h.only rfl) (fun t x k => ?_)) (fun _ _ k => shContinue_holds k))))
      split
      · exact toAgent_holds (fun _ k' => answerAck_holds k') k
      · exact shPoison_holds (toAgent_holds (fun _ k' => answerPoison_holds k') k)

theorem execCxlMemRead_goes {a dpa hold} (h : K.holds s) : K.goes (execCxlMemRead a dpa hold s) := by
  unfold execCxlMemRead
  simp only
  split
  · exact fault_goes
  · split
    · exact next_goes h
    · split
      · exact next_goes (answerPoison_holds h)
      · split
        · exact next_goes (answerPoison_holds (h.only rfl))
        · split
          · exact next_goes (answerPoison_holds (h.only rfl))
          · exact next_goes (throughBucket_holds h)

theorem execCxlMemWrite_goes {a dpa data poison} (h : K.holds s) : K.goes (execCxlMemWrite a dpa data poison s) := by
  unfold execCxlMemWrite
  simp only
  split
  · exact fault_goes
  · split
    · exact next_goes h
    · split
      · exact next_goes (answerAck_holds h)
      · split
        · exact next_goes (answerAck_holds (h.only rfl))
        · split
          · exact next_goes (answerAck_holds (h.only rfl))
          · split
            · exact next_goes (answerAck_holds (h.only rfl))
            · exact next_goes (throughBucket_holds h)

theorem execTokenBucketRelease_goes {a} (h : K.holds s) : K.goes (execTokenBucketRelease a s) := by
  unfold execTokenBucketRelease
  split
  · exact fault_goes
  · simp only
    split
    · exact next_goes h
    · split
      · exact next_goes h
      · split
        · exact next_goes (h.only rfl)
        · exact next_goes (serveHeld_holds (h.only rfl))

theorem installPage_holds {a0 o} (h : K.holds s) : K.holds (installPage a0 o s) := by
  unfold installPage
  split
  · exact h
  · exact resume_holds (landCopy_holds (h.only rfl))

theorem execUnifiedLoftFill_goes {id o} (h : K.holds s) : K.goes (execUnifiedLoftFill id o s) := by
  unfold execUnifiedLoftFill
  split
  · exact next_goes h
  · split
    · exact next_goes h
    · simp only
      split
      · refine next_goes (shContinue_holds (afterMedium_holds (losePage_holds ?_)))
        split
        · exact foldl_holds (dropLoad_holds (foldl_holds h (fun _ _ k => medium_holds (countReads_only ..) k))) (fun _ _ k => medium_holds (leaveDie_only ..) k)
        · exact shPoison_holds (toAgent_holds (fun _ k => answerPoison_holds k) (modPerf_holds (foldl_holds (dropLoad_holds (foldl_holds h (fun _ _ k => medium_holds (countReads_only ..) k))) (fun _ _ k => medium_holds (leaveDie_only ..) k))))
      · refine next_goes (shContinue_holds (installPage_holds ?_))
        split
        · exact foldl_holds (dropLoad_holds (foldl_holds h (fun _ _ k => medium_holds (countReads_only ..) k))) (fun _ _ k => medium_holds (leaveDie_only ..) k)
        · split
          · exact poisonLate_holds (foldl_holds (dropLoad_holds (foldl_holds h (fun _ _ k => medium_holds (countReads_only ..) k))) (fun _ _ k => medium_holds (leaveDie_only ..) k))
          · split
            · exact shPoison_holds (toAgent_holds (fun _ k => answerPoison_holds k) (modPerf_holds (foldl_holds (dropLoad_holds (foldl_holds h (fun _ _ k => medium_holds (countReads_only ..) k))) (fun _ _ k => medium_holds (leaveDie_only ..) k))))
            · exact toAgent_holds (fun _ k => answerData_holds k) (foldl_holds (dropLoad_holds (foldl_holds h (fun _ _ k => medium_holds (countReads_only ..) k))) (fun _ _ k => medium_holds (leaveDie_only ..) k))

theorem execUnifiedLoadTimeout_goes {id} (h : K.holds s) : K.goes (execUnifiedLoadTimeout id s) := by
  unfold execUnifiedLoadTimeout
  split
  · exact next_goes h
  · split
    · exact next_goes h
    · exact next_goes (shContinue_holds (poisonLate_holds (h.only rfl)))

theorem execCxlPortReset_goes {k} (h : K.holds s) : K.goes (execCxlPortReset k s) := by
  unfold execCxlPortReset
  split
  · exact fault_goes
  · split
    · exact next_goes h
    · refine next_goes (settle_holds (endDoe_holds (update_holds (foldl_holds (resetStreams_holds (resetCues_holds ?_)) (fun _ _ k' => dropHolder_holds k')))))
      split
      · exact resetAdmin_holds (foldl_holds (modPort_holds (dropRequests_holds h)) (fun _ _ k' => resetQueue_holds k'))
      · exact foldl_holds (modPort_holds (dropRequests_holds h)) (fun _ _ k' => resetQueue_holds k')

theorem execCxlLinkUp_goes {k speed width} (h : K.holds s) : K.goes (execCxlLinkUp k speed width s) := by
  unfold execCxlLinkUp
  split
  · exact fault_goes
  · split
    · exact next_goes h
    · refine next_goes ?_
      split
      · exact h.only rfl
      · exact h.only rfl

theorem execLinkRetrain_goes {k speed width} (h : K.holds s) : K.goes (execLinkRetrain k speed width s) := by
  unfold execLinkRetrain
  split
  · exact fault_goes
  · split
    · exact next_goes h
    · exact next_goes (h.only rfl)

end

end Sys2Proof.Machine
end

-- What the rows of the engine, of maintenance, of Stagehand and of keys keep.
section
/-!
Each row of the second half of the instructions goes to a state that every keeper holds of.
-/
namespace Sys2Proof.Machine
open Sys2Proof

section
variable {K : Keeper} {W : Warden} {s u : State}

theorem execConfigRequest_goes {k ld reg write} (h : K.holds s) : K.goes (execConfigRequest k ld reg write s) := by
  unfold execConfigRequest
  split
  · exact fault_goes
  · split
    · exact next_goes h
    · split
      · exact next_goes (emit_holds h)
      · split
        · exact next_goes (configWrite_holds h)
        · split
          next x y t found =>
            exact next_goes (emit_holds (configValue_holds h found))

theorem execMemoryInfoValid_goes {k} (h : K.holds s) : K.goes (execMemoryInfoValid k s) := by
  unfold execMemoryInfoValid
  split
  · exact fault_goes
  · split
    · exact next_goes h
    · exact next_goes (h.only rfl)

theorem atomicOp_goes {a off n f} (h : K.holds s) : K.goes (atomicOp a off n f s) := by
  unfold atomicOp
  split
  · exact fault_goes
  · split
    · exact next_goes h
    · simp only
      split
      · exact next_goes (emit_holds h)
      · split
        · exact next_goes (emit_holds (h.only rfl))
        · refine next_goes (emit_holds ?_)
          split
          · exact h.only rfl
          · exact h.only rfl

theorem execFetchAdd_goes {a off size operand} (h : K.holds s) : K.goes (execFetchAdd a off size operand s) := by
  unfold execFetchAdd
  split
  · exact fault_goes
  · exact atomicOp_goes h

theorem execSwap_goes {a off size operand} (h : K.holds s) : K.goes (execSwap a off size operand s) := by
  unfold execSwap
  split
  · exact fault_goes
  · exact atomicOp_goes h

theorem execCas_goes {a off size compare operand} (h : K.holds s) : K.goes (execCas a off size compare operand s) := by
  unfold execCas
  split
  · exact fault_goes
  · exact atomicOp_goes h

theorem execIdeCheckFailure_goes {k cachemem} (h : K.holds s) : K.goes (execIdeCheckFailure k cachemem s) := by
  unfold execIdeCheckFailure
  split
  · exact fault_goes
  · simp only
    split
    · split
      · exact next_goes h
      · exact next_goes (h.only rfl)
    · split
      · exact next_goes h
      · exact next_goes (h.only rfl)

theorem execPtmDialogue_goes {k ok hostTime delay} (h : K.holds s) : K.goes (execPtmDialogue k ok hostTime delay s) := by
  unfold execPtmDialogue
  split
  · exact fault_goes
  · split
    · exact next_goes h
    · exact next_goes (h.only rfl)

theorem execPtmValidTimeout_goes {k} (h : K.holds s) : K.goes (execPtmValidTimeout k s) := by
  unfold execPtmValidTimeout
  split
  · exact fault_goes
  · split
    · exact next_goes h
    · exact next_goes (h.only rfl)

theorem execDoeDiscovery_goes {k ld idx} (h : K.holds s) : K.goes (execDoeDiscovery k ld idx s) := by
  unfold execDoeDiscovery
  split
  · exact fault_goes
  · split
    · exact next_goes h
    · split
      · exact next_goes (emit_holds h)
      · exact next_goes (emit_holds h)

theorem execCdatRead_goes {k ld entry} (h : K.holds s) : K.goes (execCdatRead k ld entry s) := by
  unfold execCdatRead
  split
  · exact fault_goes
  · split
    · exact next_goes h
    · simp only
      split
      · exact next_goes (emit_holds h)
      · exact next_goes (emit_holds h)

theorem execVsetvl_goes {c} (h : K.holds s) : K.goes (execVsetvl c s) := engRow_goes h

theorem execVop_goes {c} (h : K.holds s) : K.goes (execVop c s) := engRow_goes h

theorem execVops_goes {c} (h : K.holds s) : K.goes (execVops c s) := engRow_goes h

theorem execVun_goes {c} (h : K.holds s) : K.goes (execVun c s) := engRow_goes h

theorem execVcmp_goes {c} (h : K.holds s) : K.goes (execVcmp c s) := engRow_goes h

theorem execVmisc_goes {c} (h : K.holds s) : K.goes (execVmisc c s) := engRow_goes h

theorem execVld_goes {c} (h : K.holds s) : K.goes (execVld c s) := engRow_goes h

theorem execVst_goes {c} (h : K.holds s) : K.goes (execVst c s) := engRow_goes h

theorem execVscan_goes {c} (h : K.holds s) : K.goes (execVscan c s) := engRow_goes h

theorem execTls_goes {c} (h : K.holds s) : K.goes (execTls c s) := engRow_goes h

theorem execTmac_goes {c} (h : K.holds s) : K.goes (execTmac c s) := engRow_goes h

theorem execTred_goes {c} (h : K.holds s) : K.goes (execTred c s) := engRow_goes h

theorem execTbc_goes {c} (h : K.holds s) : K.goes (execTbc c s) := engRow_goes h

theorem execTmov_goes {c} (h : K.holds s) : K.goes (execTmov c s) := engRow_goes h

theorem execVchain_goes {c} (h : K.holds s) : K.goes (execVchain c s) := engRow_goes h

theorem execVlane_goes {c} (h : K.holds s) : K.goes (execVlane c s) := engRow_goes h

theorem Keeper.holds.shaped {f : Cluster → Cluster} {p : Nat} (h : K.holds s) (calm : Calm s t)
    (formed : Shaped s → Formed (Machine.cluster t p) → Formed (f (Machine.cluster t p)))
    (same : (f (Machine.cluster t p)).mapState = (Machine.cluster t p).mapState) : K.holds (modCluster p f t) := by
  refine K.calm (s := s) ⟨⟨calm.pending, calm.fuses, calm.out, fun shaped => ?_⟩, fun q => ?_, calm.repairMap⟩ h
  · exact (Kept.modCluster (formed shaped)).shaped (calm.shaped shaped)
  · rw [cluster_modCluster]
    split
    next e => exact same.trans (e ▸ calm.mapState q)
    next => exact calm.mapState q

theorem aligned_entry {n : Nat} (h : n % 4 = 0) : (BitVec.ofNat 16 n).toNat % 4 = 0 := by
  rw [BitVec.toNat_ofNat]
  omega

/-- The fault that the front of the engine's queue holds leaves the pc at the word of its instruction. -/
theorem entryFault_holds {x : CoreCtx} {n : EngEntry} {code : Nat} (listed : n ∈ (cluster s x.p).engQ) (h : K.holds s) :
    K.holds (setCore x (fun k => { k with pc := BitVec.ofNat 16 n.pc }) (coreFault x code 0 n.pc s)) := by
  have calm : Calm s (coreFault x code 0 n.pc s) := coreFault_holds (K := calmFrom s) (Calm.refl s)
  refine h.shaped calm (fun shaped formed => formed.core rfl rfl rfl (aligned_entry ?_)) rfl
  exact (formed_cluster (shaped_iff.mp shaped).2.1 x.p).queue n listed

theorem pc_writeBack (r : Option (Nat × Word64)) (k : Core) :
    (match r with | some (rd, v) => { setS rd v k with pendRd := k.pendRd.erase rd } | none => k : Core).pc = k.pc := by
  cases r with
  | none => rfl
  | some r => exact pc_setS ..

theorem storeBytes_formed (l : List (Nat × Byte)) {c : Cluster} (h : Formed c) :
    Formed (l.foldl (fun cl p => areaStore p.1 [p.2] cl) c) := by
  induction l generalizing c with
  | nil => exact h
  | cons p l ih => exact ih (formed_areaStore p.1 [p.2] h)

theorem storeBytes_mapState (l : List (Nat × Byte)) (c : Cluster) :
    (l.foldl (fun cl p => areaStore p.1 [p.2] cl) c).mapState = c.mapState := by
  induction l generalizing c with
  | nil => rfl
  | cons p l ih => exact (ih _).trans (mapState_areaStore ..)

theorem formed_commitEntry {n : EngEntry} {rest : List EngEntry} {c : Cluster} (queue : c.engQ = n :: rest) (h : Formed c) :
    Formed (commitEntry n rest c) :=
  storeBytes_formed _ ⟨h.area, h.canonical, (pc_writeBack n.rd c.core) ▸ h.pc, fun m mem => h.queue m (queue ▸ .tail _ mem)⟩

theorem execEngineCommit_goes {c} (h : K.holds s) : K.goes (execEngineCommit c s) := by
  unfold execEngineCommit
  split
  · exact fault_goes
  · split
    · exact next_goes h
    next x at_ =>
      have cl := (clusterIn_some at_).cluster
      split
      · exact next_goes h
      · split
        · exact next_goes h
        next n rest queue =>
          have held : (cluster s x.p).engQ = n :: rest := cl ▸ queue
          split
          · exact next_goes (entryFault_holds (held ▸ .head _) h)
          · exact next_goes (h.cluster (formed_commitEntry held) (storeBytes_mapState ..))

theorem execShutdownReq_goes {a v} (h : K.holds s) : K.goes (execShutdownReq a v s) := by
  unfold execShutdownReq
  split
  · exact fault_goes
  · split
    · exact next_goes h
    · exact next_goes (writeDevCtrl_holds h)

theorem execPd6Gate_goes {a v} (h : K.holds s) : K.goes (execPd6Gate a v s) := by
  unfold execPd6Gate
  split
  · exact fault_goes
  · split
    · exact next_goes h
    · exact next_goes (writeGate_holds h)

theorem execPd6Ungate_goes {a v} (h : K.holds s) : K.goes (execPd6Ungate a v s) := by
  unfold execPd6Ungate
  split
  · exact fault_goes
  · split
    · exact next_goes h
    · exact next_goes (writeGate_holds h)

theorem execPd6SwitchOff_goes (h : K.holds s) : K.goes (execPd6SwitchOff s) := by
  unfold execPd6SwitchOff
  split
  · exact next_goes h
  · exact next_goes (h.only rfl)

theorem execAgentMapWrite_goes {w a v} (h : K.holds s) : K.goes (execAgentMapWrite w a v s) := by
  unfold execAgentMapWrite
  split
  · exact fault_goes
  · split
    · exact next_goes h
    · exact next_goes (writeAgentMap_holds h)

theorem execLockWrite_goes {a off v} (h : K.holds s) : K.goes (execLockWrite a off v s) := by
  unfold execLockWrite
  split
  · exact fault_goes
  · split
    · exact next_goes h
    · exact next_goes (writeLock_holds h)

theorem execSanitize_goes {a v} (h : K.holds s) : K.goes (execSanitize a v s) := by
  unfold execSanitize
  split
  · exact fault_goes
  · split
    · exact next_goes h
    · exact next_goes (writeLock_holds h)

theorem execRegisterWrite_goes {a off size v} (h : K.holds s) : K.goes (execRegisterWrite a off size v s) := by
  unfold execRegisterWrite
  split
  · exact fault_goes
  · split
    · exact next_goes h
    · split
      · refine next_goes ?_
        split
        · exact writeComponent_holds (writeComponent_holds h)
        · exact writeComponent_holds h
      · exact next_goes (writeReg_holds h)

theorem execPowerOn_goes {mv} (h : W.holds s) : W.goes (execPowerOn mv s) := by
  unfold execPowerOn
  split
  · exact next_goes h
  · refine next_goes (startDawn_holds (setSupply_holds ?_))
    split
    · exact h
    · exact powerUp_holds h

theorem execDawn_goes (h : W.holds s) : W.goes (execDawn s) := by
  unfold execDawn
  split
  · exact next_goes (startDawn_holds h)
  · exact next_goes h

theorem execDawnPhaseComplete_goes {o} (h : W.holds s) : W.goes (execDawnPhaseComplete o s) := by
  unfold execDawnPhaseComplete
  split
  · exact next_goes h
  · split
    · exact fault_goes
    · split
      · exact next_goes (stopDawn_holds h)
      · split
        · exact next_goes h
        · split
          · exact next_goes (endFuse_holds h)
          · exact next_goes (h.only rfl)
          · exact next_goes (endPhy_holds h)
          · exact next_goes (endWings_holds h)
          · exact next_goes (endLoft_holds h)
          · exact next_goes (endClusters_holds h)
          · exact next_goes (endHouse_holds h)

theorem execDawnPhaseTimeout_goes (h : W.holds s) : W.goes (execDawnPhaseTimeout s) := by
  unfold execDawnPhaseTimeout
  split
  · exact next_goes h
  · simp only
    split
    · exact next_goes (startDawn_holds (h.only rfl))
    · split
      · exact next_goes (startDawn_holds (h.only rfl))
      · exact next_goes (stopDawn_holds (h.only rfl))

theorem execSafeOff_goes (h : K.holds s) : K.goes (execSafeOff s) := by
  unfold execSafeOff
  split
  · exact next_goes h
  · exact next_goes (update_holds (dropVolatile_holds (portsDown_holds (closeLoft_holds h))))

theorem execDuskEnter_goes {mv} (h : K.holds s) : K.goes (execDuskEnter mv s) := by
  unfold execDuskEnter
  split
  · exact next_goes h
  · exact next_goes (h.only rfl)

theorem execDuskExit_goes {mv} (h : K.holds s) : K.goes (execDuskExit mv s) := by
  unfold execDuskExit
  split
  · exact next_goes h
  · exact next_goes (postEvent_holds (resumePrograms_holds (h.only rfl)))

theorem execHoldupFlush_goes {mv} (h : K.holds s) : K.goes (execHoldupFlush mv s) := by
  unfold execHoldupFlush
  split
  · exact next_goes h
  · split
    · exact next_goes (h.only rfl)
    · exact next_goes (runFlush_holds (h.only rfl))

theorem execPd0HoldupExpiry_goes (h : K.holds s) : K.goes (execPd0HoldupExpiry s) := by
  unfold execPd0HoldupExpiry
  split
  · exact next_goes h
  · split
    · exact next_goes h
    · split
      · exact next_goes h
      · exact next_goes (h.only rfl)

theorem execSupplyRecovery_goes {mv} (h : W.holds s) : W.goes (execSupplyRecovery mv s) := by
  unfold execSupplyRecovery
  split
  · exact next_goes h
  · exact next_goes (startDawn_holds (h.only rfl))

theorem execHouseWatchdog_goes (h : W.holds s) : W.goes (execHouseWatchdog s) := by
  unfold execHouseWatchdog
  split
  · exact next_goes h
  · exact next_goes (update_holds (resetAll_holds h))

theorem execHoldupMeasurement_goes {us} (h : K.holds s) : K.goes (execHoldupMeasurement us s) := by
  unfold execHoldupMeasurement
  split
  · exact next_goes h
  · exact next_goes (resumePrograms_holds (measureHoldup_holds h))

theorem execRailReading_goes {beats} (h : K.holds s) : K.goes (execRailReading beats s) := by
  unfold execRailReading
  split
  · exact fault_goes
  · split
    · exact next_goes h
    · split
      · exact next_goes (h.only rfl)
      · simp only
        split
        · exact next_goes (modPwr_holds (takeFree_snd_holds (h.only rfl)))
        · exact next_goes (modPwr_holds (takeFree_snd_holds (h.only rfl)))

theorem execTemperatureReading_goes {temps} (h : K.holds s) : K.goes (execTemperatureReading temps s) := by
  unfold execTemperatureReading
  split
  · exact fault_goes
  · split
    · exact next_goes h
    · simp only
      split
      · exact next_goes (h.only rfl)
      · split
        · exact next_goes (modPwr_holds (setTherm_holds (h.only rfl)))
        · split
          · exact next_goes (modPwr_holds (setTherm_holds (h.only rfl)))
          · exact next_goes (modDev_holds (runFlush_holds (setTherm_holds (h.only rfl))))

theorem execThermalRestart_goes (h : W.holds s) : W.goes (execThermalRestart s) := by
  unfold execThermalRestart
  split
  · exact next_goes h
  · exact next_goes (startDawn_holds h)

theorem execPowerReading_goes {w mv} (h : W.holds s) : W.goes (execPowerReading w mv s) := by
  unfold execPowerReading
  split
  · refine next_goes ?_
    split
    · exact h
    · exact setSupply_holds (powerUp_holds h)
  · exact next_goes (h.only rfl)

theorem execQuiesceNChange_goes {isLow} (h : K.holds s) : K.goes (execQuiesceNChange isLow s) := by
  unfold execQuiesceNChange
  split
  · exact next_goes h
  · exact next_goes (actQuiesce_holds (h.only rfl))

theorem execForceRoChange_goes {isHigh} (h : K.holds s) : K.goes (execForceRoChange isHigh s) := by
  unfold execForceRoChange
  split
  · exact next_goes h
  · exact next_goes (actForceRo_holds (h.only rfl))

theorem execPinHoldoffExpiry_goes {pin} (h : K.holds s) : K.goes (execPinHoldoffExpiry pin s) := by
  unfold execPinHoldoffExpiry
  split
  · exact next_goes h
  · split
    · exact next_goes (actQuiesce_holds h)
    · exact next_goes (actForceRo_holds h)

theorem execShWrite_goes {p} (h : K.holds s) : K.goes (execShWrite p s) := by
  unfold execShWrite
  refine dataRow_goes h (fun x y t k => ?_)
  simp only
  split
  · exact writeVisible_holds k
  · split
    · exact refuseMsg_holds k
    · split
      · exact refuseMsg_holds k
      · split
        · exact refuseMsg_holds k
        · split
          · exact modConn_holds (placePayload_holds (k.only rfl))
          · exact writeVisible_holds (placePayload_holds (k.only rfl))

theorem execReadReq_goes {p} (h : K.holds s) : K.goes (execReadReq p s) := by
  unfold execReadReq
  refine dataRow_goes h (fun x y t k => ?_)
  simp only
  split
  · exact refuseMsg_holds k
  · split
    · exact refuseMsg_holds k
    · split
      · exact refuseMsg_holds k
      · refine shContinue_holds ?_
        split
        · exact foldl_holds (received_holds (k.only rfl)) (fun _ _ k' => serveRead_holds k')
        · exact received_holds (k.only rfl)

theorem execReadResp_goes {p} (h : K.holds s) : K.goes (execReadResp p s) := by
  unfold execReadResp
  refine dataRow_goes h (fun x y t k => ?_)
  simp only
  split
  · exact received_holds k
  · split
    · exact messageFailed_holds (dropOut_holds (refuseMsg_holds k))
    · split
      · exact received_holds (messageFailed_holds (k.only rfl))
      · split
        · split
          · split
            · exact endNet_holds (received_holds (dropOut_holds (dropInMsg_holds (landBytes_holds k))))
            · exact received_holds (dropOut_holds (dropInMsg_holds (landBytes_holds k)))
          · split
            · exact endNet_holds (received_holds (k.only rfl))
            · exact received_holds (k.only rfl)
        · refine received_holds (setInMsg_holds ?_)
          split
          · exact landBytes_holds k
          · exact k

theorem inboundAtomic_goes {opcode size f p} (h : K.holds s) : K.goes (inboundAtomic opcode size f p s) := by
  unfold inboundAtomic
  refine dataRow_goes h (fun x y t k => ?_)
  simp only
  split
  · exact refuseMsg_holds k
  · split
    · exact refuseMsg_holds k
    · exact received_holds (k.only rfl)

theorem execAtomicAdd_goes {p} (h : K.holds s) : K.goes (execAtomicAdd p s) := inboundAtomic_goes h

theorem execAtomicCas_goes {p} (h : K.holds s) : K.goes (execAtomicCas p s) := inboundAtomic_goes h

theorem execAtomicResp_goes {p} (h : K.holds s) : K.goes (execAtomicResp p s) := by
  unfold execAtomicResp
  refine dataRow_goes h (fun x y t k => ?_)
  simp only
  split
  · exact received_holds k
  · split
    · exact endNet_holds (dropOut_holds (received_holds k))
    · exact dropOut_holds (received_holds k)

theorem execNak_goes {p} (h : K.holds s) : K.goes (execNak p s) := by
  unfold execNak
  refine dataRow_goes h (fun x y t k => ?_)
  simp only
  split
  · exact messageFailed_holds (dropOut_holds (received_holds k))
  · exact dropOut_holds (received_holds k)

theorem execAck_goes {p} (h : K.holds s) : K.goes (execAck p s) := by
  unfold execAck
  refine shRow_goes h (fun x y t k => ?_)
  split
  · exact k.only rfl
  · exact afterRoom_holds (declareLost_holds (sweepOut_holds (k.only rfl)))

theorem execSync_goes {p} (h : K.holds s) : K.goes (execSync p s) := by
  unfold execSync
  refine shRow_goes h (fun x y t k => ?_)
  split
  · exact k.only rfl
  · simp only
    split
    · refine heardFrom_holds (takeSync_holds (wakeConn_holds ?_))
      split
      · exact loseConn_holds k
      · exact k
    · split
      · refine setUp_holds (sendControl_holds (heardFrom_holds (takeSync_holds (wakeConn_holds ?_))))
        split
        · exact loseConn_holds k
        · exact k
      · refine sendControl_holds (heardFrom_holds (takeSync_holds (wakeConn_holds ?_)))
        split
        · exact loseConn_holds k
        · exact k

theorem execSyncAck_goes {p} (h : K.holds s) : K.goes (execSyncAck p s) := by
  unfold execSyncAck
  refine shRow_goes h (fun x y t k => ?_)
  split
  · exact k.only rfl
  · simp only
    split
    · exact k.only rfl
    · exact setUp_holds (modConn_holds (k.only rfl))

theorem execSyncTimer_goes {k} (h : K.holds s) : K.goes (execSyncTimer k s) := by
  unfold execSyncTimer
  simp only
  split
  · refine next_goes ?_
    split
    · exact h.only rfl
    · exact h
  · split
    · refine next_goes (sendControl_holds ?_)
      split
      · exact h.only rfl
      · exact h
    · refine next_goes ?_
      split
      · exact h.only rfl
      · exact h

theorem execAckTimer_goes {k} (h : K.holds s) : K.goes (execAckTimer k s) := by
  unfold execAckTimer
  split
  · exact next_goes h
  · split
    · exact next_goes h
    · exact next_goes (sendAck_holds h)

theorem execStagehandSend_goes {k} (h : K.holds s) : K.goes (execStagehandSend k s) := by
  unfold execStagehandSend
  split
  · exact next_goes h
  · split
    · exact next_goes h
    · split
      · exact next_goes (resend_holds h)
      · simp only
        split
        · exact next_goes (sendNext_holds (startWaiting_holds h))
        · exact next_goes (startWaiting_holds h)

theorem execRetransmitTimeout_goes {k psn} (h : K.holds s) : K.goes (execRetransmitTimeout k psn s) := by
  unfold execRetransmitTimeout
  split
  · exact next_goes h
  · split
    · exact next_goes h
    · split
      · exact next_goes (declareLost_holds h)
      · exact next_goes h

theorem execEntropyRestore_goes {k entropy} (h : K.holds s) : K.goes (execEntropyRestore k entropy s) := next_goes (h.only rfl)

theorem execPeerSilenceTimeout_goes {k} (h : K.holds s) : K.goes (execPeerSilenceTimeout k s) := by
  unfold execPeerSilenceTimeout
  split
  · exact next_goes h
  · split
    · exact next_goes h
    · split
      · exact next_goes (loseConn_holds h)
      · exact next_goes h

theorem execXfer_goes {r} (h : K.holds s) : K.goes (execXfer r s) :=
  runRow_goes h (fun _ _ k => checked_holds k (fun _ k' => beginNet_holds k'))

theorem execAtomic_goes {r} (h : K.holds s) : K.goes (execAtomic r s) :=
  runRow_goes h (fun _ _ k => checked_holds k (fun _ k' => beginNet_holds k'))

theorem execConnectionWaitTimeout_goes {r} (h : K.holds s) : K.goes (execConnectionWaitTimeout r s) := by
  unfold execConnectionWaitTimeout
  split
  · exact next_goes h
  · split
    · exact next_goes h
    · split
      · exact next_goes (endNet_holds h)
      · exact next_goes h

theorem execEthLinkChange_goes {k up} (h : K.holds s) : K.goes (execEthLinkChange k up s) := by
  unfold execEthLinkChange
  split
  · exact fault_goes
  · split
    · exact next_goes h
    · exact next_goes (h.only rfl)

theorem resolution_goes {k v6 request kind target sender} (h : K.holds s) : K.goes (resolution k v6 request kind target sender s) := by
  unfold resolution
  split
  · exact fault_goes
  · split
    · exact next_goes h
    · simp only
      split
      · split
        · exact next_goes (emit_holds h)
        · exact next_goes (h.only rfl)
      · split
        · exact next_goes (h.only rfl)
        · exact next_goes (h.only rfl)

theorem execArp_goes {k request target sender} (h : K.holds s) : K.goes (execArp k request target sender s) := resolution_goes h

theorem execNeighborDiscovery_goes {k solicit target sender} (h : K.holds s) : K.goes (execNeighborDiscovery k solicit target sender s) :=
  resolution_goes h

theorem execIcmpEcho_goes {k ipv6 target sender payload} (h : K.holds s) : K.goes (execIcmpEcho k ipv6 target sender payload s) := by
  unfold execIcmpEcho
  split
  · exact fault_goes
  · split
    · exact next_goes h
    · split
      · exact next_goes (emit_holds h)
      · exact next_goes (h.only rfl)

theorem execDroppedFrame_goes {k} (h : K.holds s) : K.goes (execDroppedFrame k s) := by
  unfold execDroppedFrame
  split
  · exact fault_goes
  · split
    · exact next_goes h
    · exact next_goes (h.only rfl)

theorem execClusterFailure_goes {p stageRow lost} (h : W.holds s) : W.goes (execClusterFailure p stageRow lost s) := by
  unfold execClusterFailure
  split
  · exact fault_goes
  · split
    · exact next_goes h
    · exact next_goes (failCluster_holds h)

theorem execStageRowRepair_goes {p row lost} (h : W.holds s) : W.goes (execStageRowRepair p row lost s) := by
  unfold execStageRowRepair
  split
  · exact fault_goes
  · split
    · exact next_goes h
    · simp only
      split
      · exact next_goes (failCluster_holds (h.only rfl))
      · split
        · exact next_goes h
        · exact next_goes (loseRow_holds (healthRecord_holds (recountRows_holds (aside_holds (fun _ => ⟨rfl, rfl, rfl, rfl, rfl⟩) h))))

theorem execLinkDeath_goes {p dir failing} (h : W.holds s) : W.goes (execLinkDeath p dir failing s) := by
  unfold execLinkDeath
  split
  · exact fault_goes
  · split
    · exact fault_goes
    · split
      · exact next_goes h
      · exact next_goes (healMesh_holds (steerLanes_holds h))

theorem execMonitorFailure_goes {region} (h : W.holds s) : W.goes (execMonitorFailure region s) := by
  unfold execMonitorFailure
  split
  · exact fault_goes
  · split
    · exact next_goes h
    · refine next_goes ?_
      split
      · exact failRegion_holds (raiseCause_holds (dropFree_holds (h.only rfl)))
      · exact raiseCause_holds (h.only rfl)

theorem execWingsRowRepair_goes {stack row lost} (h : K.holds s) : K.goes (execWingsRowRepair stack row lost s) := by
  unfold execWingsRowRepair
  split
  · exact fault_goes
  · split
    · exact next_goes h
    · exact next_goes (failRow_holds (loseRow_holds h))

theorem execUnitFailure_goes {stagehand} (h : K.holds s) : K.goes (execUnitFailure stagehand s) := by
  unfold execUnitFailure
  simp only
  split
  · split
    · exact next_goes h
    · exact next_goes (foldl_holds (raiseCause_holds (h.only rfl)) (fun _ _ k => loseConn_holds k))
  · split
    · exact next_goes h
    · exact next_goes (settle_holds (abortAll_fst_holds (raiseCause_holds (h.only rfl))))

theorem execScrubNow_goes {r o} (h : K.holds s) : K.goes (execScrubNow r o s) := by
  refine runRow_goes h fun t s h => checked_holds h fun s h => ?_
  dsimp only
  generalize passed : scrubPass o _ s = x
  obtain ⟨moved, failed, u⟩ := x
  exact endRivals_holds (finish_holds (scrubPass_holds h passed))

theorem execSelftest_goes {r o} (h : W.holds s) : W.goes (execSelftest r o s) := by
  unfold execSelftest
  refine runRow_goes h (fun x t k => checked_holds k (fun u k' => ?_))
  split
  next y z x' v found =>
    exact endRivals_holds (finish_holds (selfTest_holds k' found))

theorem execRepair_goes {r o} (h : W.holds s) : W.goes (execRepair r o s) := by
  unfold execRepair
  split
  · refine next_goes (checked_holds h (fun t k => ?_))
    split
    · split
      · exact k.only rfl
      · exact repairCluster_holds k
    · split
      · exact repairLanes_holds k
      · split
        · exact repairWings_holds k
        · exact repairDie_holds k
  · split
    · refine next_goes ?_
      split
      · exact h
      · exact repairCluster_holds h
    · exact next_goes h

theorem execFwDownload_goes {r} (h : K.holds s) : K.goes (execFwDownload r s) :=
  runRow_goes h fun _ _ h => checked_holds h fun _ h => finish_holds (images_holds (fun _ wf => writes_wf _ _ _ wf) h)

theorem execFwCommit_goes {r} (h : K.holds s) : K.goes (execFwCommit r s) := by
  unfold execFwCommit
  refine runRow_goes h (fun x t k => checked_holds k (fun u k' => ?_))
  split
  · exact finish_holds (recordVerdict_holds k')
  · split
    · exact finish_holds k'
    · simp only
      split
      · refine beginShutdown_holds (finish_holds ?_)
        split
        · exact recordVerdict_holds k'
        · exact update_holds (recordVerdict_holds k')
      · refine finish_holds ?_
        split
        · exact recordVerdict_holds k'
        · exact update_holds (recordVerdict_holds k')

theorem execGetLdInfo_goes {k} (h : K.holds s) : K.goes (execGetLdInfo k s) := fmRow_goes h (fun _ k' => emit_holds k')

theorem execGetLdAllocations_goes {k} (h : K.holds s) : K.goes (execGetLdAllocations k s) :=
  fmRow_goes h (fun _ k' => emit_holds k')

theorem execGetQosControl_goes {k} (h : K.holds s) : K.goes (execGetQosControl k s) := fmRow_goes h (fun _ k' => emit_holds k')

theorem execGetQosStatus_goes {k} (h : K.holds s) : K.goes (execGetQosStatus k s) := fmRow_goes h (fun _ k' => emit_holds k')

theorem execGetQosAllocatedBw_goes {k} (h : K.holds s) : K.goes (execGetQosAllocatedBw k s) :=
  fmRow_goes h (fun _ k' => emit_holds k')

theorem execGetQosBwLimit_goes {k} (h : K.holds s) : K.goes (execGetQosBwLimit k s) := fmRow_goes h (fun _ k' => emit_holds k')

theorem fmRefuse_goes {k cmd} (h : K.holds s) : K.goes (fmRefuse k cmd s) := fmRow_goes h (fun _ k' => emit_holds k')

theorem execSetLdAllocations_goes {k} (h : K.holds s) : K.goes (execSetLdAllocations k s) := fmRefuse_goes h

theorem execSetQosControl_goes {k} (h : K.holds s) : K.goes (execSetQosControl k s) := fmRefuse_goes h

theorem execSetQosAllocatedBw_goes {k} (h : K.holds s) : K.goes (execSetQosAllocatedBw k s) := fmRefuse_goes h

theorem execSetQosBwLimit_goes {k} (h : K.holds s) : K.goes (execSetQosBwLimit k s) := fmRefuse_goes h

theorem execSetEndpointId_goes {eid} (h : K.holds s) : K.goes (execSetEndpointId eid s) := by
  unfold execSetEndpointId
  refine smbusRow_goes h (fun t k => ?_)
  split
  · exact emit_holds k
  · exact emit_holds (k.only rfl)

theorem execGetEndpointId_goes (h : K.holds s) : K.goes (execGetEndpointId s) := smbusRow_goes h (fun _ k => emit_holds k)

theorem execGetMctpVersionSupport_goes {ty} (h : K.holds s) : K.goes (execGetMctpVersionSupport ty s) := by
  unfold execGetMctpVersionSupport
  refine smbusRow_goes h (fun t k => ?_)
  split
  · split
    next x y u found =>
      exact emit_holds (takeFree_holds k found)
  · exact emit_holds k

theorem execGetMessageTypeSupport_goes (h : K.holds s) : K.goes (execGetMessageTypeSupport s) :=
  smbusRow_goes h (fun _ k => emit_holds k)

theorem execSetEventReceiver_goes {receiver} (h : K.holds s) : K.goes (execSetEventReceiver receiver s) :=
  smbusRow_goes h (fun _ k => emit_holds (k.only rfl))

theorem execPollForPlatformEventMessage_goes (h : K.holds s) : K.goes (execPollForPlatformEventMessage s) := by
  unfold execPollForPlatformEventMessage
  refine smbusRow_goes h (fun t k => ?_)
  split
  · exact emit_holds k
  · exact emit_holds (k.only rfl)

theorem execPldmSensorRead_goes {k} (h : K.holds s) : K.goes (execPldmSensorRead k s) := by
  unfold execPldmSensorRead
  refine smbusRow_goes h (fun t k' => ?_)
  split
  · exact emit_holds k'
  · exact emit_holds k'

theorem execPldmBaseRequest_goes {command} (h : K.holds s) : K.goes (execPldmBaseRequest command s) := by
  unfold execPldmBaseRequest
  refine smbusRow_goes h (fun t k => ?_)
  split
  · exact emit_holds k
  · split
    · exact emit_holds k
    · split
      · split
        next x y u found =>
          exact emit_holds (takeFree_holds k found)
      · exact emit_holds k

theorem execCompanyRules_goes {r} (h : K.holds s) : K.goes (execCompanyRules r s) :=
  runRow_goes h (fun _ _ k => checked_holds k (fun _ k' => k'.only rfl))

theorem execRulesGraceExpiry_goes {c} (h : K.holds s) : K.goes (execRulesGraceExpiry c s) := by
  unfold execRulesGraceExpiry
  split
  · exact next_goes h
  · split
    · exact next_goes h
    · exact next_goes (endGrace_holds h)

theorem execRulesSwitch_goes {r} (h : K.holds s) : K.goes (execRulesSwitch r s) := by
  unfold execRulesSwitch
  split
  · exact next_goes h
  · split
    · exact next_goes h
    · split
      · exact next_goes h
      · refine next_goes ?_
        split
        · exact finish_holds (h.only rfl)
        · exact switchRules_holds h

theorem execRulesDrainComplete_goes {r} (h : K.holds s) : K.goes (execRulesDrainComplete r s) := by
  unfold execRulesDrainComplete
  split
  · exact next_goes h
  · split
    · exact next_goes h
    · split
      · exact next_goes h
      · exact next_goes (finish_holds (changeConns_holds (deleteShut_holds (h.only rfl))))

theorem execGetVersion_goes {ep} (h : K.holds s) : K.goes (execGetVersion ep s) :=
  spdmRow_goes h (fun _ k => reply_holds (k.only rfl))

theorem execGetCapabilities_goes {ep} (h : K.holds s) : K.goes (execGetCapabilities ep s) :=
  spdmRow_goes h (fun _ k => reply_holds (k.only rfl))

theorem execNegotiateAlgorithms_goes {ep base hash dhe aead} (h : K.holds s) : K.goes (execNegotiateAlgorithms ep base hash dhe aead s) := by
  unfold execNegotiateAlgorithms
  refine spdmRow_goes h (fun t k => ?_)
  split
  · exact spdmError_holds k
  · exact reply_holds (k.only rfl)

theorem execGetDigests_goes {ep} (h : K.holds s) : K.goes (execGetDigests ep s) := spdmRow_goes h (fun _ k => reply_holds k)

theorem execGetCertificate_goes {ep slot offset len} (h : K.holds s) : K.goes (execGetCertificate ep slot offset len s) := by
  unfold execGetCertificate
  refine spdmRow_goes h (fun t k => ?_)
  simp only
  split
  · exact spdmError_holds k
  · exact reply_holds k

theorem execChallenge_goes {ep slot nonce} (h : K.holds s) : K.goes (execChallenge ep slot nonce s) := by
  unfold execChallenge
  refine spdmRow_goes h (fun t k => ?_)
  split
  · exact spdmError_holds k
  · exact reply_holds k

theorem execGetMeasurements_goes {ep op sign nonce} (h : K.holds s) : K.goes (execGetMeasurements ep op sign nonce s) := by
  unfold execGetMeasurements
  refine spdmRow_goes h (fun t k => ?_)
  split
  · exact spdmError_holds k
  · exact reply_holds k

theorem execKeyExchange_goes {ep slot reqSession exchange} (h : K.holds s) : K.goes (execKeyExchange ep slot reqSession exchange s) := by
  unfold execKeyExchange
  refine spdmRow_goes h (fun t k => ?_)
  split
  · exact spdmError_holds k
  · split
    · exact spdmError_holds k
    · exact reply_holds (k.only rfl)

theorem execFinish_goes {ep session verify} (h : K.holds s) : K.goes (execFinish ep session verify s) := by
  unfold execFinish
  refine spdmRow_goes h (fun t k => ?_)
  split
  · exact spdmError_holds k
  · split
    · exact spdmError_holds k
    · split
      · exact reply_holds (k.only rfl)
      · exact spdmError_holds (k.only rfl)

theorem execKeyUpdate_goes {ep session op} (h : K.holds s) : K.goes (execKeyUpdate ep session op s) := by
  unfold execKeyUpdate
  refine spdmRow_goes h (fun t k => ?_)
  split
  · exact spdmError_holds k
  · split
    · exact spdmError_holds k
    · refine reply_holds ?_
      split
      · exact k
      · exact k.only rfl

theorem execEndSession_goes {ep session} (h : K.holds s) : K.goes (execEndSession ep session s) := by
  unfold execEndSession
  refine spdmRow_goes h (fun t k => ?_)
  split
  · exact reply_holds (k.only rfl)
  · exact spdmError_holds k

theorem execSpdmUnsupportedRequest_goes {ep code} (h : K.holds s) : K.goes (execSpdmUnsupportedRequest ep code s) := by
  unfold execSpdmUnsupportedRequest
  split
  · exact fault_goes
  · exact spdmRow_goes h (fun _ k => spdmError_holds k)

theorem execIdeKmKeyProg_goes {ep session cachemem rx keySet key} (h : K.holds s) : K.goes (execIdeKmKeyProg ep session cachemem rx keySet key s) :=
  ideRow_goes h (fun _ _ k => k.only rfl)

theorem execKSetGo_goes {ep session cachemem rx keySet} (h : K.holds s) : K.goes (execKSetGo ep session cachemem rx keySet s) :=
  ideRow_goes h (fun _ _ k => k.only rfl)

theorem execKSetStop_goes {ep session cachemem rx keySet} (h : K.holds s) : K.goes (execKSetStop ep session cachemem rx keySet s) :=
  ideRow_goes h (fun _ _ k => k.only rfl)

theorem openNew_snd_holds {t} (h : K.holds s) : K.holds (openNew t s).2 := openNew_holds h (Prod.eta _).symm

theorem execStreamOpen_goes {r} (h : K.holds s) : K.goes (execStreamOpen r s) := by
  unfold execStreamOpen
  refine runRow_goes h (fun x t k => checked_holds k (fun u k' => inRoomMade_holds k' (fun _ y => makeRoom_holds k' y) (fun v h1 => ?_)))
  simp only
  split
  · exact finish_holds (openNew_snd_holds h1)
  · exact finish_holds (openNew_snd_holds h1)

theorem execStreamClose_goes {r} (h : K.holds s) : K.goes (execStreamClose r s) :=
  runRow_goes h (fun _ _ k => checked_holds k (fun _ k' => finish_holds (closeStream_holds k')))

theorem execStreamFork_goes {r} (h : K.holds s) : K.goes (execStreamFork r s) := by
  unfold execStreamFork
  refine runRow_goes h (fun x t k => checked_holds k (fun u k' => inRoomMade_holds k' (fun _ y => tailRoom_holds k' y) (fun v h1 => ?_)))
  split
  · split
    · exact h1
    · exact finish_holds (h1.only rfl)
  · exact finish_holds (h1.only rfl)

theorem execFindPrefix_goes {r} (h : K.holds s) : K.goes (execFindPrefix r s) :=
  runRow_goes h (fun _ _ k => checked_holds k (fun _ k' => finish_holds (k'.only rfl)))

theorem execAppendScenes_goes {r} (h : K.holds s) : K.goes (execAppendScenes r s) :=
  runRow_goes h fun _ _ h => checked_holds h fun _ h => inRoomMade_holds h (fun _ e => tailRoom_holds h e) fun _ h => finish_holds (appendN_holds h)

theorem execSeal_goes {r} (h : K.holds s) : K.goes (execSeal r s) := by
  unfold execSeal
  refine runRow_goes h (fun x t k => checked_holds k (fun u k' => ?_))
  split
  · exact finish_holds k'
  next y z v found =>
    exact finish_holds (sealTailOf_holds k' found)

theorem execTrim_goes {r} (h : K.holds s) : K.goes (execTrim r s) :=
  runRow_goes h (fun _ _ k => checked_holds k (fun _ k' => finish_holds (modStream_holds (letGo_holds k'))))

end

end Sys2Proof.Machine
end

-- Steps.
section
/-!
PROOFS. O4: a step takes the front command off the queue and keeps the fuses (spec/95, spec/19). O5: it keeps the shapes of the state.
Both are read off `Kept`: every row makes a kept change of the state with the rest of the queue.
-/
namespace Sys2Proof.Machine
open Sys2Proof

/-- Every row goes to a state that a property which kept changes keep still holds of. -/
theorem exec_goes {W : Warden} {s : State} (i : Instr) (h : W.holds s) : W.goes (exec i s) :=
  match i with
  | .nop .. => execNop_goes h
  | .identify .. => execIdentify_goes h
  | .getLog .. => execGetLog_goes h
  | .setFeature .. => execSetFeature_goes h
  | .getFeature .. => execGetFeature_goes h
  | .companyCreate .. => execCompanyCreate_goes h
  | .companyDestroy .. => execCompanyDestroy_goes h
  | .companyRules .. => execCompanyRules_goes h
  | .admitCompany .. => execAdmit_goes h
  | .release .. => execRelease_goes h
  | .modelRegister .. => execModelRegister_goes h
  | .modelRetire .. => execModelRetire_goes h
  | .streamOpen .. => execStreamOpen_goes h
  | .streamClose .. => execStreamClose_goes h
  | .streamFork .. => execStreamFork_goes h
  | .findPrefix .. => execFindPrefix_goes h
  | .appendScenes .. => execAppendScenes_goes h
  | .sealTail .. => execSeal_goes h
  | .trim .. => execTrim_goes h
  | .pin .. => execPin_goes h
  | .unpin .. => execUnpin_goes h
  | .place .. => execPlace_goes h
  | .migrate .. => execMigrate_goes h
  | .cue .. => execCue_goes h
  | .deliver .. => execDeliver_goes h
  | .cancelCue .. => execCancelCue_goes h
  | .attend .. => execAttend_goes h
  | .attendSparse .. => execAttendSparse_goes h
  | .sketchQuery .. => execSketchQuery_goes h
  | .weightsLoad .. => execWeightsLoad_goes h
  | .weightsStream .. => execWeightsStream_goes h
  | .queueCreate .. => execQueueCreate_goes h
  | .queueDelete .. => execQueueDelete_goes h
  | .queueFlush .. => execQueueFlush_goes h
  | .queueWait .. => execQueueWait_goes h
  | .xfer .. => execXfer_goes h
  | .atomic .. => execAtomic_goes h
  | .clusterLoad .. => execClusterLoad_goes h
  | .clusterRun .. => execClusterRun_goes h
  | .clusterHalt .. => execClusterHalt_goes h
  | .scrubNow .. => execScrubNow_goes h
  | .repair .. => execRepair_goes h
  | .selftest .. => execSelftest_goes h
  | .fwDownload .. => execFwDownload_goes h
  | .fwCommit .. => execFwCommit_goes h
  | .quiesce .. => execQuiesce_goes h
  | .healthCmd .. => execHealth_goes h
  | .alu .. => execAlu_goes h
  | .addi .. => execAddi_goes h
  | .andi .. => execAndi_goes h
  | .ori .. => execOri_goes h
  | .xori .. => execXori_goes h
  | .shi .. => execShi_goes h
  | .movi .. => execMovi_goes h
  | .ldpc .. => execLdpc_goes h
  | .cmp .. => execCmp_goes h
  | .cmpi .. => execCmpi_goes h
  | .pred .. => execPred_goes h
  | .ldd .. => execLdd_goes h
  | .ldw .. => execLdw_goes h
  | .ldwu .. => execLdwu_goes h
  | .ldh .. => execLdh_goes h
  | .ldhu .. => execLdhu_goes h
  | .ldb .. => execLdb_goes h
  | .ldbu .. => execLdbu_goes h
  | .std .. => execStd_goes h
  | .stw .. => execStw_goes h
  | .sth .. => execSth_goes h
  | .stb .. => execStb_goes h
  | .br .. => execBr_goes h
  | .call .. => execCall_goes h
  | .jr .. => execJr_goes h
  | .csrr .. => execCsrr_goes h
  | .csrw .. => execCsrw_goes h
  | .send .. => execSend_goes h
  | .sendAck .. => execSendAck_goes h
  | .recv .. => execRecv_goes h
  | .mailboxArrival .. => execMailboxArrival_goes h
  | .put .. => execPut_goes h
  | .get .. => execGet_goes h
  | .sig .. => execSig_goes h
  | .waitc .. => execWaitc_goes h
  | .move .. => execMove_goes h
  | .page .. => execPage_goes h
  | .fence .. => execFence_goes h
  | .halt .. => execHalt_goes h
  | .trap .. => execTrap_goes h
  | .transferComplete .. => execTransferComplete_goes h
  | .waitcTimeout .. => execWaitcTimeout_goes h
  | .vsetvl .. => execVsetvl_goes h
  | .vop .. => execVop_goes h
  | .vops .. => execVops_goes h
  | .vun .. => execVun_goes h
  | .vcmp .. => execVcmp_goes h
  | .vmisc .. => execVmisc_goes h
  | .vld .. => execVld_goes h
  | .vst .. => execVst_goes h
  | .vscan .. => execVscan_goes h
  | .tls .. => execTls_goes h
  | .tmac .. => execTmac_goes h
  | .tred .. => execTred_goes h
  | .tbc .. => execTbc_goes h
  | .tmov .. => execTmov_goes h
  | .vchain .. => execVchain_goes h
  | .vlane .. => execVlane_goes h
  | .engineCommit .. => execEngineCommit_goes h
  | .runStart .. => execRunStart_goes h
  | .runTimeLimit .. => execRunTimeLimit_goes h
  | .runEnd .. => execRunEnd_goes h
  | .clusterScrub .. => execClusterScrub_goes h
  | .midnightScan .. => execMidnightScan_goes h
  | .clusSignal .. => execClusSignal_goes h
  | .mailboxFlush .. => execMailboxFlush_goes h
  | .doorbell .. => execDoorbell_goes h
  | .packetIntake .. => execPacketIntake_goes h
  | .fencedDispatch .. => execFencedDispatch_goes h
  | .completionInterrupt .. => execCompletionInterrupt_goes h
  | .queueWaitTimeout .. => execQueueWaitTimeout_goes h
  | .adminQueueEnable .. => execAdminQueueEnable_goes h
  | .adminQueueDisable .. => execAdminQueueDisable_goes h
  | .registerWrite .. => execRegisterWrite_goes h
  | .shutdownReq .. => execShutdownReq_goes h
  | .safeOff .. => execSafeOff_goes h
  | .pd6Gate .. => execPd6Gate_goes h
  | .pd6SwitchOff .. => execPd6SwitchOff_goes h
  | .pd6Ungate .. => execPd6Ungate_goes h
  | .epochWrite .. => execEpochWrite_goes h
  | .arbCtrlWrite .. => execArbCtrlWrite_goes h
  | .agentMapWrite .. => execAgentMapWrite_goes h
  | .lockWrite .. => execLockWrite_goes h
  | .sanitize .. => execSanitize_goes h
  | .powerOn .. => execPowerOn_goes h
  | .dawn .. => execDawn_goes h
  | .dawnPhaseComplete .. => execDawnPhaseComplete_goes h
  | .dawnPhaseTimeout .. => execDawnPhaseTimeout_goes h
  | .duskEnter .. => execDuskEnter_goes h
  | .duskExit .. => execDuskExit_goes h
  | .holdupFlush .. => execHoldupFlush_goes h
  | .pd0HoldupExpiry .. => execPd0HoldupExpiry_goes h
  | .supplyRecovery .. => execSupplyRecovery_goes h
  | .houseWatchdog .. => execHouseWatchdog_goes h
  | .holdupMeasurement .. => execHoldupMeasurement_goes h
  | .railReading .. => execRailReading_goes h
  | .monitorFailure .. => execMonitorFailure_goes h
  | .temperatureReading .. => execTemperatureReading_goes h
  | .thermalRestart .. => execThermalRestart_goes h
  | .powerReading .. => execPowerReading_goes h
  | .quiesceNChange .. => execQuiesceNChange_goes h
  | .forceRoChange .. => execForceRoChange_goes h
  | .pinHoldoffExpiry .. => execPinHoldoffExpiry_goes h
  | .cxlPortReset .. => execCxlPortReset_goes h
  | .cxlLinkUp .. => execCxlLinkUp_goes h
  | .linkRetrain .. => execLinkRetrain_goes h
  | .configRequest .. => execConfigRequest_goes h
  | .cxlMemRead .. => execCxlMemRead_goes h
  | .cxlMemWrite .. => execCxlMemWrite_goes h
  | .unifiedLoftFill .. => execUnifiedLoftFill_goes h
  | .unifiedLoadTimeout .. => execUnifiedLoadTimeout_goes h
  | .birsp .. => execBirsp_goes h
  | .biSnoopTimeout .. => execBiSnoopTimeout_goes h
  | .fetchAdd .. => execFetchAdd_goes h
  | .swap .. => execSwap_goes h
  | .cas .. => execCas_goes h
  | .hostReadTimeout .. => execHostReadTimeout_goes h
  | .ideCheckFailure .. => execIdeCheckFailure_goes h
  | .tokenBucketRelease .. => execTokenBucketRelease_goes h
  | .ptmDialogue .. => execPtmDialogue_goes h
  | .ptmValidTimeout .. => execPtmValidTimeout_goes h
  | .doeDiscovery .. => execDoeDiscovery_goes h
  | .cdatRead .. => execCdatRead_goes h
  | .getVersion .. => execGetVersion_goes h
  | .getCapabilities .. => execGetCapabilities_goes h
  | .negotiateAlgorithms .. => execNegotiateAlgorithms_goes h
  | .getDigests .. => execGetDigests_goes h
  | .getCertificate .. => execGetCertificate_goes h
  | .challenge .. => execChallenge_goes h
  | .getMeasurements .. => execGetMeasurements_goes h
  | .keyExchange .. => execKeyExchange_goes h
  | .finish .. => execFinish_goes h
  | .keyUpdate .. => execKeyUpdate_goes h
  | .endSession .. => execEndSession_goes h
  | .ideKmKeyProg .. => execIdeKmKeyProg_goes h
  | .kSetGo .. => execKSetGo_goes h
  | .kSetStop _ _ _ rx _ => execKSetStop_goes (rx := rx) h
  | .getLdInfo .. => execGetLdInfo_goes h
  | .getLdAllocations .. => execGetLdAllocations_goes h
  | .getQosControl .. => execGetQosControl_goes h
  | .getQosStatus .. => execGetQosStatus_goes h
  | .getQosAllocatedBw .. => execGetQosAllocatedBw_goes h
  | .getQosBwLimit .. => execGetQosBwLimit_goes h
  | .setLdAllocations .. => execSetLdAllocations_goes h
  | .setQosControl .. => execSetQosControl_goes h
  | .setQosAllocatedBw .. => execSetQosAllocatedBw_goes h
  | .setQosBwLimit .. => execSetQosBwLimit_goes h
  | .setEndpointId .. => execSetEndpointId_goes h
  | .getEndpointId .. => execGetEndpointId_goes h
  | .getMctpVersionSupport .. => execGetMctpVersionSupport_goes h
  | .getMessageTypeSupport .. => execGetMessageTypeSupport_goes h
  | .setEventReceiver .. => execSetEventReceiver_goes h
  | .pollForPlatformEventMessage .. => execPollForPlatformEventMessage_goes h
  | .pldmSensorRead .. => execPldmSensorRead_goes h
  | .ethLinkChange .. => execEthLinkChange_goes h
  | .arp .. => execArp_goes h
  | .neighborDiscovery .. => execNeighborDiscovery_goes h
  | .icmpEcho .. => execIcmpEcho_goes h
  | .shWrite .. => execShWrite_goes h
  | .readReq .. => execReadReq_goes h
  | .readResp .. => execReadResp_goes h
  | .atomicAdd .. => execAtomicAdd_goes h
  | .atomicCas .. => execAtomicCas_goes h
  | .atomicResp .. => execAtomicResp_goes h
  | .nak .. => execNak_goes h
  | .ack .. => execAck_goes h
  | .sync .. => execSync_goes h
  | .syncAck .. => execSyncAck_goes h
  | .syncTimer .. => execSyncTimer_goes h
  | .ackTimer .. => execAckTimer_goes h
  | .stagehandSend .. => execStagehandSend_goes h
  | .retransmitTimeout .. => execRetransmitTimeout_goes h
  | .entropyRestore .. => execEntropyRestore_goes h
  | .peerSilenceTimeout .. => execPeerSilenceTimeout_goes h
  | .connectionWaitTimeout .. => execConnectionWaitTimeout_goes h
  | .cueNotBefore .. => execCueNotBefore_goes h
  | .cueCutoff .. => execCueCutoff_goes h
  | .attendCutoff .. => execAttendCutoff_goes h
  | .weightsLayerCutoff .. => execWeightsLayerCutoff_goes h
  | .weightsSlotFree .. => execWeightsSlotFree_goes h
  | .stagingComplete .. => execStagingComplete_goes h
  | .allotmentDispatch .. => execAllotmentDispatch_goes h
  | .writeBackStart .. => execWriteBackStart_goes h
  | .loftProgramComplete .. => execLoftProgramComplete_goes h
  | .journalRecordComplete .. => execJournalRecordComplete_goes h
  | .indexCheckpoint .. => execIndexCheckpoint_goes h
  | .stripeCloseTimer .. => execStripeCloseTimer_goes h
  | .loftReadComplete .. => execLoftReadComplete_goes h
  | .suspendExpiry .. => execSuspendExpiry_goes h
  | .patrolScrub .. => execPatrolScrub_goes h
  | .readRetryCalibration .. => execReadRetryCalibration_goes h
  | .calibrationOverdue .. => execCalibrationOverdue_goes h
  | .readDisturbRefresh .. => execReadDisturbRefresh_goes h
  | .reclamation .. => execReclamation_goes h
  | .staticWearLevelling .. => execStaticWearLevelling_goes h
  | .dieFailure .. => execDieFailure_goes h
  | .rebuildComplete .. => execRebuildComplete_goes h
  | .rulesSwitch .. => execRulesSwitch_goes h
  | .rulesGraceExpiry .. => execRulesGraceExpiry_goes h
  | .rulesDrainComplete .. => execRulesDrainComplete_goes h
  | .backoffExpiry .. => execBackoffExpiry_goes h
  | .quotaWindowEnd .. => execQuotaWindowEnd_goes h
  | .starvationFlag .. => execStarvationFlag_goes h
  | .hbmRefresh .. => execHbmRefresh_goes h
  | .eventInterrupt .. => execEventInterrupt_goes h
  | .clusterFailure .. => execClusterFailure_goes h
  | .stageRowRepair .. => execStageRowRepair_goes h
  | .wingsRowRepair .. => execWingsRowRepair_goes h
  | .linkDeath .. => execLinkDeath_goes h
  | .unitFailure .. => execUnitFailure_goes h
  | .hostReadCompletion .. => execHostReadCompletion_goes h
  | .loftEraseComplete .. => execLoftEraseComplete_goes h
  | .memoryInfoValid .. => execMemoryInfoValid_goes h
  | .illegalInstruction .. => execIllegalInstruction_goes h
  | .fetchFault .. => execFetchFault_goes h
  | .signalArrival .. => execSignalArrival_goes h
  | .scoringBatchComplete .. => execScoringBatchComplete_goes h
  | .droppedFrame .. => execDroppedFrame_goes h
  | .spdmUnsupportedRequest .. => execSpdmUnsupportedRequest_goes h
  | .pldmBaseRequest .. => execPldmBaseRequest_goes h

/-- A step makes a kept change of the state with the rest of the queue. -/
theorem step_kept {s t : State} (h : step s = .next t) : Kept { s with pending := s.pending.tail } t := by
  unfold step at h
  split at h
  next none =>
    cases h
    have same : s.pending.tail = s.pending := by rw [none]; rfl
    rw [same]
    exact tick_holds (K := (keptFrom s).toKeeper) (Kept.refl s)
  next c rest listed =>
    rw [listed]
    exact exec_goes (W := keptFrom { s with pending := rest }) c (Kept.refl _) t h

/-- Settles O4: every change that a row makes leaves the queue and the fuses alone. -/
theorem stepsKeepQueueOrderAndFuses : Obligations.StepsKeepQueueOrderAndFuses := by
  intro s t h
  have kept := step_kept h
  exact ⟨kept.pending, kept.fuses⟩

/-- Settles O5: every change that a row makes keeps the shapes, and they are about nothing that waits in the queue. -/
theorem stepsKeepShape : Obligations.StepsKeepShape := by
  intro s t shaped h
  have rest : Shaped { s with pending := s.pending.tail } := shaped_iff.mpr ((shaped_iff (s := s)).mp shaped)
  exact (step_kept h).shaped rest

end Sys2Proof.Machine
end

-- Requests that wait.
section
/-!
PROOFS. O51: a load of the unified space that its read ends on a device whose health has FAILED in service (R811).
-/
namespace Sys2Proof.Machine
open Sys2Proof

/-- A load of the unified space, of a page without bytes, that no die has still to read. -/
def readLoad : LoftLoad :=
  { id := 0, agent := 0, company := 0, what := .weights 0 0, offset := 0, dpa := 0, dies := [], arrival := 0, answered := false, sh := none }

/-- A device in service whose health is FAILED, with that load. -/
def failedLoad : State :=
  { State.reset with
    dev := { State.reset.dev with curUp := true }
    health := { State.reset.health with cause := BitVec.allOnes 32 }
    work := { State.reset.work with loads := [readLoad] } }

def isData : Out → Bool
  | .memData .. => true
  | _ => false

/-- Whether a row goes on to a state in which data of CXL.mem has gone out. -/
def sendsData : Res → Bool
  | .next t => t.out.any isData
  | _ => false

theorem failedLoad_sendsNone : sendsData (exec (.unifiedLoftFill 0 .hard) failedLoad) = false := by decide +kernel

/-- Refutes O51: while a FAILED cause has CXL.mem reads answered with poison (R811), a load that its read ends is answered with poison as
well; the statement's second part has it answered with its data in any state. -/
theorem not_waitingRequestsGoOn : ¬ Obligations.WaitingRequestsGoOn := by
  intro h
  obtain ⟨-, fills, -⟩ := h failedLoad
  obtain ⟨served, -⟩ := fills 0 .hard readLoad (by decide +kernel) (by decide +kernel) (by decide +kernel) rfl rfl
  obtain ⟨u, run, -, n, sent⟩ := served (by decide) (by decide +kernel)
  have grown : u.out <:+ (installPage readLoad .hard u).out := (installPage_holds (K := calmFrom u) (Calm.refl u)).out
  have none := failedLoad_sendsNone
  rw [run, sendsData, List.any_eq_false] at none
  have mem : .memData readLoad.agent readLoad.dpa (loadBytes failedLoad readLoad) n ∈ u.out := sent ▸ .head _
  exact none _ (grown.subset mem) rfl

end Sys2Proof.Machine
end
